-- ==== Sys2Proof/Word.lean ====
section
/-! DEFINITION. The word types and their plainest arithmetic (09_encoding.md, R180, R191). -/

namespace Sys2Proof

/-- A byte of storage. -/
abbrev Byte := BitVec 8
/-- A halfword of an instruction (R180). -/
abbrev Half := BitVec 16
/-- A 32-bit word: an f register, a vector element, a 32-bit instruction (R191). -/
abbrev Word32 := BitVec 32
/-- A 64-bit word: an x register, an address (R51, R191). -/
abbrev Word := BitVec 64

/-- The value of a word read as two's complement. -/
abbrev sval {n : Nat} (w : BitVec n) : Int := w.toInt
/-- The value of a word read as unsigned. -/
abbrev zval {n : Nat} (w : BitVec n) : Nat := w.toNat

/-- A truth value as a word of ones and zeros: 1 or 0. -/
def boolWord (b : Bool) : Word := if b then 1#64 else 0#64

end Sys2Proof
end

