-- ==== Sys2Proof/Config.lean ====
section
/-! DEFINITION. What an implementation fixes, and the free values: constants without a body, so that nothing can be proved
of the value they take. Each is named in the assumption log. -/

namespace Sys2Proof.Config

/-- Cycles that pass between two steps beyond the one a step takes (log 2; R3 gives no values to programs). -/
opaque gap : Nat → Nat

/-- Whether a weak load that misses installs its line in the cluster cache; indexed by the fresh counter (R70, log 5). -/
opaque cacheInstall : Nat → Bool

/-- Whether the cluster cache has dropped a line by the time it is looked up (R70, log 5). -/
opaque cacheDrop : Nat → Bool

/-- Which entry a full TLB replaces (R72, R338, log 6). -/
opaque tlbVictim : Nat → Nat

/-- Whether a switch has combined an atomic with the one performed before it, where both could meet (R89, log 26). -/
opaque switchCombine : Nat → Bool

/-- Whether a SAFE with no live vector register halves the claim (R268, log 7). -/
opaque halveClaim : Nat → Bool

/-- What a key does to a 16-byte block: to encrypt, to decrypt, and that each undoes the other (R360). -/
structure BlockCipher where
  /-- Encrypt. -/
  enc : BitVec 128 → BitVec 128 := id
  /-- Decrypt. -/
  dec : BitVec 128 → BitVec 128 := id
  /-- Decryption undoes encryption. -/
  dec_enc : ∀ b, dec (enc b) = b := by intro b; rfl
  /-- Encryption undoes decryption. -/
  enc_dec : ∀ b, enc (dec b) = b := by intro b; rfl
  deriving Inhabited

/-- AES-256-XTS under the key of a serial: what it does to a block, by the tweak of the block's line and the block's place in it (R360,
log 8). -/
opaque blockCipher : Nat → Nat → BlockCipher

/-- The old or the new byte where the manual allows either (R301, R374, R380, log 9). -/
opaque oldOrNew : Nat → Bool

/-- Whether a signature is valid: the signed bytes, and the digest of the key with the signature (R219, R358, log 10). -/
opaque signatureValid : List Byte → List Byte → Bool

/-- The signature of bytes under the identity key of which a module publishes the public part (R357, R359, log 10). -/
opaque identitySign : List Byte → List Byte → List Byte

/-- An unstated value, indexed by the fresh counter (log 11). -/
opaque freeValue : Nat → Word

/-- A special function's result where no precision the model tries decides the rounding: function number and element (R280,
log 15). -/
opaque sfuOpen : Nat → Nat → Word32

/-- The exponent field that an XPB token names where base plus d leaves the field: base and d + 8 (R122, log 16). -/
opaque xpbField : Nat → Nat → Nat

/-- An unstated byte, by the fresh counter and a place (log 11). -/
opaque freeByte : Nat → Nat → Byte

end Sys2Proof.Config
end

