-- ==== Sys2Proof/Machine/Num.lean ====
section
/-! DEFINITION. Number formats, rounding and the exact arithmetic behind them (05_numbers.md, R99 to R126). A finite value is
kept exactly as sign, magnitude and power of two; every operation computes exactly and rounds once, in `roundMag`. -/

namespace Sys2Proof.Machine

/-- The floating-point formats of R99 that have a sign. -/
inductive Fmt where
  /-- IEEE binary32. -/
  | f32
  /-- IEEE binary16. -/
  | f16
  /-- BF16. -/
  | bf16
  /-- E4M3: no infinity, one NaN. -/
  | e4m3
  /-- E5M2. -/
  | e5m2
  /-- E2M1: neither infinity nor NaN. -/
  | e2m1
  deriving DecidableEq, Repr

/-- Width of an element in bits (R99). -/
def Fmt.width : Fmt → Nat
  | .f32 => 32 | .f16 => 16 | .bf16 => 16 | .e4m3 => 8 | .e5m2 => 8 | .e2m1 => 4
/-- Width of the fraction field (R99). -/
def Fmt.frac : Fmt → Nat
  | .f32 => 23 | .f16 => 10 | .bf16 => 7 | .e4m3 => 3 | .e5m2 => 2 | .e2m1 => 1
/-- Width of the exponent field (R99). -/
def Fmt.expw (f : Fmt) : Nat := f.width - 1 - f.frac
/-- Exponent bias (R99). -/
def Fmt.bias : Fmt → Int
  | .f32 => 127 | .f16 => 15 | .bf16 => 127 | .e4m3 => 7 | .e5m2 => 15 | .e2m1 => 1
/-- Whether the format has infinities (R99). -/
def Fmt.hasInf : Fmt → Bool
  | .e4m3 | .e2m1 => false
  | _ => true
/-- The largest finite magnitude, as bits without sign (R99). -/
def Fmt.maxBits : Fmt → Nat
  | .f32 => 0x7F7FFFFF | .f16 => 0x7BFF | .bf16 => 0x7F7F | .e4m3 => 0x7E | .e5m2 => 0x7B | .e2m1 => 7
/-- The canonical NaN (R103); E2M1 has none, and a NaN becomes its +0 (R115). -/
def Fmt.nan : Fmt → Nat
  | .f32 => 0x7FC00000 | .f16 => 0x7E00 | .bf16 => 0x7FC0 | .e4m3 => 0x7F | .e5m2 => 0x7E | .e2m1 => 0
/-- The bits of the infinity without sign, where the format has one. -/
def Fmt.infBits (f : Fmt) : Nat := (2 ^ f.expw - 1) <<< f.frac
/-- Exponent of the unit in the last place of the subnormals (R100). -/
def Fmt.minLsb (f : Fmt) : Int := 1 - f.bias - f.frac
/-- The sign bit's weight. -/
def Fmt.signBit (f : Fmt) (s : Bool) : Nat := if s then 2 ^ (f.width - 1) else 0
/-- What an overflow that rounds away from zero stores, without sign (R110, R114). -/
def Fmt.ovfBits : Fmt → Nat
  | .e4m3 => 0x7F | .e2m1 => 7
  | f => f.infBits

/-- The exact content of an element. -/
inductive FVal where
  /-- A NaN, signalling or quiet (R103). -/
  | nan (signalling : Bool)
  /-- An infinity with its sign. -/
  | inf (s : Bool)
  /-- (−1)^s · m · 2^e. -/
  | fin (s : Bool) (m : Nat) (e : Int)
  deriving DecidableEq, Repr

/-- The content of an element's bits (R99, R100, R103). -/
def Fmt.val (f : Fmt) (w : Nat) : FVal :=
  let s := w.testBit (f.width - 1)
  let e := (w >>> f.frac) % 2 ^ f.expw
  let m := w % 2 ^ f.frac
  if f.hasInf && e == 2 ^ f.expw - 1 then
    if m == 0 then .inf s else .nan (!m.testBit (f.frac - 1))
  else if f == .e4m3 && w % 128 == 0x7F then .nan false
  else if e == 0 then .fin s m f.minLsb
  else .fin s (m + 2 ^ f.frac) (e - f.bias - f.frac)

/-- A rounding mode (R107); SR carries its threshold r of R109. -/
inductive Rnd where
  /-- To nearest, ties to even. -/
  | rne
  /-- Toward zero. -/
  | rtz
  /-- Toward −∞. -/
  | rdn
  /-- Toward +∞. -/
  | rup
  /-- Stochastic, with its threshold. -/
  | sr (r : Nat)
  deriving DecidableEq, Repr

/-- The modes that a rounding code of 0 to 3 names (R107). -/
def Rnd.ofCode (c : Nat) : Rnd :=
  match c with
  | 1 => .rtz | 2 => .rdn | 3 => .rup | _ => .rne

/-- The threshold r of stochastic rounding from a seed and an index (R109). -/
def srThreshold (seed index : BitVec 32) : Nat :=
  let x := seed ^^^ (index * 0x9E3779B1#32)
  let x := x ^^^ (x >>> 16)
  let x := x * 0x85EBCA6B#32
  let x := x ^^^ (x >>> 13)
  x.toNat % 65536

/-- The sticky flags of FFLAGS: NV 16, DZ 8, OF 4, UF 2, NX 1 (R111). -/
abbrev Flags := BitVec 5
/-- Invalid operation. -/
def flagNV : Flags := 16#5
/-- Division by zero. -/
def flagDZ : Flags := 8#5
/-- Overflow. -/
def flagOF : Flags := 4#5
/-- Underflow. -/
def flagUF : Flags := 2#5
/-- Inexact. -/
def flagNX : Flags := 1#5

/-- The value (m + δ)·2^e with 0 < δ < 1 when `sticky`, cut at exponent q: the kept units, the discarded bits over their
width, and whether anything was discarded. -/
structure Cut where
  /-- Whole units of 2^q. -/
  kept : Nat
  /-- Discarded bits, an integer below 2^width. -/
  rest : Nat
  /-- Number of discarded bits held in `rest`. -/
  width : Nat
  /-- Something nonzero below `rest`. -/
  sticky : Bool
  deriving DecidableEq, Repr

/-- Cut a magnitude at exponent q. -/
def cutAt (m : Nat) (e : Int) (sticky : Bool) (q : Int) : Cut :=
  if q ≤ e then { kept := m <<< (e - q).toNat, rest := 0, width := 0, sticky := sticky }
  else
    let k := (q - e).toNat
    { kept := m >>> k, rest := m % 2 ^ k, width := k, sticky := sticky }

/-- Nothing was discarded. -/
def Cut.exact (c : Cut) : Bool := c.rest == 0 && !c.sticky

/-- The first 16 discarded bits, zeros appended (R109). -/
def Cut.first16 (c : Cut) : Nat :=
  if c.width ≤ 16 then c.rest <<< (16 - c.width) else c.rest >>> (c.width - 16)

/-- Whether the magnitude goes up by one unit (R107, R109). -/
def Cut.up (c : Cut) (rm : Rnd) (s : Bool) : Bool :=
  match rm with
  | .rtz => false
  | .rdn => s && !c.exact
  | .rup => !s && !c.exact
  | .sr r => r < c.first16
  | .rne =>
    if c.width == 0 then false
    else
      let half := 2 ^ (c.width - 1)
      if c.rest == half then (c.sticky || c.kept % 2 == 1) else half < c.rest

/-- The units after rounding. -/
def Cut.rounded (c : Cut) (rm : Rnd) (s : Bool) : Nat := if c.up rm s then c.kept + 1 else c.kept

/-- Whether an overflow rounds away from zero (R110, R114). -/
def awayOnOverflow (rm : Rnd) (s : Bool) : Bool :=
  match rm with
  | .rne | .sr _ => true
  | .rtz => false
  | .rdn => s
  | .rup => !s

/-- The element bits of `u` units of 2^q, where q is the last place the format keeps at that magnitude (R100). -/
def Fmt.pack (f : Fmt) (u : Nat) (q : Int) : Nat :=
  if u < 2 ^ f.frac then u
  else if u == 2 ^ (f.frac + 1) then ((q + f.frac + f.bias).toNat + 1) <<< f.frac
  else ((q + f.frac + f.bias).toNat <<< f.frac) + (u - 2 ^ f.frac)

/-- Round the exact magnitude (m + δ)·2^e with sign s once into f under rm, with its flags: overflow by R110 and R114
(`sat` is the saturating form), tininess after rounding by R104 and R110. -/
def roundMag (f : Fmt) (rm : Rnd) (sat s : Bool) (m : Nat) (e : Int) (sticky : Bool) : Nat × Flags :=
  if m == 0 && !sticky then (f.signBit s, 0#5)
  else
    let top : Int := (Nat.log2 m : Int) + e
    let q := max (top - f.frac) f.minLsb
    let c := cutAt m e sticky q
    let u := c.rounded rm s
    let maxQ : Int := (f.maxBits >>> f.frac : Nat) - f.bias - f.frac
    let maxU := f.maxBits % 2 ^ f.frac + 2 ^ f.frac
    if maxQ < q || (q == maxQ && maxU < u) then
      if sat || !awayOnOverflow rm s then (f.signBit s + f.maxBits, flagOF ||| flagNX)
      else (f.signBit s + f.ovfBits, flagOF ||| flagNX)
    else
      let nx := if c.exact then 0#5 else flagNX
      let free := cutAt m e sticky (top - f.frac)
      let tiny := top < 1 - f.bias && !(top == -f.bias && free.rounded rm s == 2 ^ (f.frac + 1))
      (f.signBit s + f.pack u q, nx ||| if tiny && !c.exact then flagUF else 0#5)

/-- Invalid result. -/
def nanResult (f : Fmt) : Nat × Flags := (f.nan, flagNV)

/-- The result of a NaN operand: the canonical NaN, NV for a signalling one (R104). -/
def nanOf (f : Fmt) (vs : List FVal) : Nat × Flags :=
  (f.nan, if vs.any (fun v => match v with | .nan true => true | _ => false) then flagNV else 0#5)

/-- Whether a value is a NaN. -/
def FVal.isNan : FVal → Bool
  | .nan _ => true
  | _ => false
/-- Whether a value is a signalling NaN. -/
def FVal.isSig : FVal → Bool
  | .nan b => b
  | _ => false
/-- The value with the opposite sign. -/
def FVal.neg : FVal → FVal
  | .nan b => .nan b
  | .inf s => .inf (!s)
  | .fin s m e => .fin (!s) m e

/-- An infinity's element. -/
def infResult (f : Fmt) (s : Bool) : Nat × Flags := (f.signBit s + f.infBits, 0#5)

/-- The exact sum of two finite values: sign, magnitude, exponent. -/
def exactAdd (s : Bool) (m : Nat) (e : Int) (s' : Bool) (m' : Nat) (e' : Int) : Bool × Nat × Int :=
  let lo := min e e'
  let a : Int := (m <<< (e - lo).toNat : Nat)
  let b : Int := (m' <<< (e' - lo).toNat : Nat)
  let t := (if s then -a else a) + (if s' then -b else b)
  (t < 0, t.natAbs, lo)

/-- The sign of an exact zero sum of two finite values (R106). -/
def zeroSign (rm : Rnd) (s s' bothZero : Bool) : Bool :=
  if bothZero && s == s' then s else rm == .rdn

/-- Round the sum of two contents (R104, R106, R110). -/
def addVal (f : Fmt) (rm : Rnd) (x y : FVal) : Nat × Flags :=
  match x, y with
  | .nan _, _ => nanOf f [x, y]
  | _, .nan _ => nanOf f [x, y]
  | .inf s, .inf s' => if s == s' then infResult f s else nanResult f
  | .inf s, .fin .. => infResult f s
  | .fin .., .inf s => infResult f s
  | .fin s m e, .fin s' m' e' =>
    let (r, k, q) := exactAdd s m e s' m' e'
    if k == 0 then (f.signBit (zeroSign rm s s' (m == 0 && m' == 0)), 0#5)
    else roundMag f rm false r k q false

/-- The exact product of two contents that are no NaN; 0 × ∞ is none. -/
def mulExact (x y : FVal) : Option FVal :=
  match x, y with
  | .inf s, .inf s' => some (.inf (s != s'))
  | .inf s, .fin s' m _ => if m == 0 then none else some (.inf (s != s'))
  | .fin s m _, .inf s' => if m == 0 then none else some (.inf (s != s'))
  | .fin s m e, .fin s' m' e' => some (.fin (s != s') (m * m') (e + e'))
  | _, _ => none

/-- Round a content that is no NaN. -/
def roundVal (f : Fmt) (rm : Rnd) (v : FVal) : Nat × Flags :=
  match v with
  | .nan b => nanOf f [.nan b]
  | .inf s => infResult f s
  | .fin s m e => roundMag f rm false s m e false

/-- Addition (R104). -/
def fAdd (f : Fmt) (rm : Rnd) (a b : Nat) : Nat × Flags := addVal f rm (f.val a) (f.val b)
/-- Subtraction (R104). -/
def fSub (f : Fmt) (rm : Rnd) (a b : Nat) : Nat × Flags := addVal f rm (f.val a) (f.val b).neg

/-- Multiplication (R104). -/
def fMul (f : Fmt) (rm : Rnd) (a b : Nat) : Nat × Flags :=
  let x := f.val a
  let y := f.val b
  if x.isNan || y.isNan then nanOf f [x, y]
  else match mulExact x y with
    | none => nanResult f
    | some p => roundVal f rm p

/-- a × b + c with one rounding; 0 × ∞ is invalid even beside a quiet NaN (R104, R236). The product and the addend are
negated as the form asks. -/
def fFma (f : Fmt) (rm : Rnd) (negP negC : Bool) (a b c : Nat) : Nat × Flags :=
  let x := f.val a
  let y := f.val b
  let z := f.val c
  if x.isNan || y.isNan then nanOf f [x, y, z]
  else match mulExact x y with
    | none => nanResult f
    | some p => addVal f rm (if negP then p.neg else p) (if negC then z.neg else z)

/-- The quotient's leading bits and whether a remainder is left: m / m' · 2^(−k). -/
def divBits (m m' : Nat) : Nat × Nat × Bool :=
  let k := 64 + Nat.log2 m'
  let n := m <<< k
  (n / m', k, n % m' != 0)

/-- Division (R104). -/
def fDiv (f : Fmt) (rm : Rnd) (a b : Nat) : Nat × Flags :=
  match f.val a, f.val b with
  | .nan p, y => nanOf f [.nan p, y]
  | x, .nan q => nanOf f [x, .nan q]
  | .inf _, .inf _ => nanResult f
  | .inf s, .fin s' _ _ => infResult f (s != s')
  | .fin s _ _, .inf s' => (f.signBit (s != s'), 0#5)
  | .fin s m e, .fin s' m' e' =>
    if m' == 0 then
      if m == 0 then nanResult f else (f.signBit (s != s') + f.infBits, flagDZ)
    else
      let (q, k, st) := divBits m m'
      roundMag f rm false (s != s') q (e - e' - k) st

/-- The integer square root, built bit by bit from bit `i` down. -/
def isqrtFrom (n : Nat) : Nat → Nat → Nat
  | 0, r => if (r + 1) * (r + 1) ≤ n then r + 1 else r
  | i + 1, r =>
    let t := r + 2 ^ (i + 1)
    isqrtFrom n i (if t * t ≤ n then t else r)
/-- The integer square root. -/
def isqrt (n : Nat) : Nat := isqrtFrom n (Nat.log2 n / 2 + 1) 0

/-- Square root (R104). -/
def fSqrt (f : Fmt) (rm : Rnd) (a : Nat) : Nat × Flags :=
  match f.val a with
  | .nan p => nanOf f [.nan p]
  | .inf s => if s then nanResult f else infResult f false
  | .fin s m e =>
    if m == 0 then (f.signBit s, 0#5)
    else if s then nanResult f
    else
      let k := if e % 2 == 0 then 64 else 65
      let n := m <<< k
      let r := isqrt n
      roundMag f rm false false r ((e - k) / 2) (r * r != n)

/-- Compare two contents that are no NaN: −0 equals +0. -/
def FVal.cmp (x y : FVal) : Ordering :=
  match x, y with
  | .inf s, .inf s' => if s == s' then .eq else if s then .lt else .gt
  | .inf s, _ => if s then .lt else .gt
  | _, .inf s => if s then .gt else .lt
  | .fin s m e, .fin s' m' e' =>
    let (r, k, _) := exactAdd s m e (!s') m' e'
    if k == 0 then .eq else if r then .lt else .gt
  | _, _ => .eq

/-- Below in the order that puts −0 below +0 (R105). -/
def fLess (f : Fmt) (a b : Nat) : Bool :=
  match (f.val a).cmp (f.val b) with
  | .lt => true
  | .gt => false
  | .eq => a.testBit (f.width - 1) && !b.testBit (f.width - 1)

/-- The lesser or the greater (R105). -/
def fMinMax (f : Fmt) (greater : Bool) (a b : Nat) : Nat × Flags :=
  let x := f.val a
  let y := f.val b
  let fl := if x.isSig || y.isSig then flagNV else 0#5
  if x.isNan && y.isNan then (f.nan, fl)
  else if x.isNan then (b, fl)
  else if y.isNan then (a, fl)
  else if greater then (if fLess f a b then b else a, fl)
  else (if fLess f b a then b else a, fl)

/-- The sign of b, its complement or the exclusive or, with the magnitude of a (R232). -/
def fSignOf (f : Fmt) (s : Bool) (a : Nat) : Nat := f.signBit s + a % 2 ^ (f.width - 1)

/-- Equality; NV for a signalling operand (R233). -/
def fEq (f : Fmt) (a b : Nat) : Bool × Flags :=
  let x := f.val a
  let y := f.val b
  if x.isNan || y.isNan then (false, if x.isSig || y.isSig then flagNV else 0#5) else (x.cmp y == .eq, 0#5)
/-- Less, or less or equal; NV for any NaN operand (R233). -/
def fCmp (f : Fmt) (orEq : Bool) (a b : Nat) : Bool × Flags :=
  let x := f.val a
  let y := f.val b
  if x.isNan || y.isNan then (false, flagNV) else (x.cmp y == .lt || (orEq && x.cmp y == .eq), 0#5)
/-- Either operand is a NaN; NV for a signalling one (R276). -/
def fUnordered (f : Fmt) (a b : Nat) : Bool × Flags :=
  let x := f.val a
  let y := f.val b
  (x.isNan || y.isNan, if x.isSig || y.isSig then flagNV else 0#5)

/-- The class mask of R233. -/
def fClass (f : Fmt) (a : Nat) : Nat :=
  match f.val a with
  | .nan sig => if sig then 2 ^ 8 else 2 ^ 9
  | .inf s => if s then 1 else 2 ^ 7
  | .fin s m _ =>
    if m == 0 then (if s then 2 ^ 3 else 2 ^ 4)
    else if m < 2 ^ f.frac then (if s then 2 ^ 2 else 2 ^ 5)
    else (if s then 2 else 2 ^ 6)

/-- A conversion between floating-point formats (R113 to R115): a copy where they agree, else one rounding. `.sat` concerns narrower
formats only: an infinity widened to FP32 stays one. -/
def fConv (src dst : Fmt) (rm : Rnd) (sat : Bool) (a : Nat) : Nat × Flags :=
  if src == dst then (a % 2 ^ src.width, 0#5)
  else match src.val a with
    | .nan sig => (dst.nan, if sig || dst == .e2m1 then flagNV else 0#5)
    | .inf s =>
      if dst.hasInf then
        if sat && dst != .f32 then (dst.signBit s + dst.maxBits, flagOF ||| flagNX) else (dst.signBit s + dst.infBits, 0#5)
      else (dst.signBit s + (if sat then dst.maxBits else dst.ovfBits), flagNV)
    | .fin s m e => roundMag dst rm sat s m e false

/-- An integer type of R102. -/
structure IntTy where
  /-- Two's complement. -/
  signed : Bool
  /-- Width in bits. -/
  bits : Nat
  deriving DecidableEq, Repr

/-- The smallest value of an integer type. -/
def IntTy.lo (t : IntTy) : Int := if t.signed then -(2 ^ (t.bits - 1) : Nat) else 0
/-- The largest value of an integer type. -/
def IntTy.hi (t : IntTy) : Int := if t.signed then (2 ^ (t.bits - 1) : Nat) - 1 else (2 ^ t.bits : Nat) - 1
/-- The nearest value of the type (R117, R118). -/
def IntTy.clamp (t : IntTy) (v : Int) : Int := if v < t.lo then t.lo else if t.hi < v then t.hi else v

/-- Floating point to integer (R116). -/
def fToInt (f : Fmt) (t : IntTy) (rm : Rnd) (a : Nat) : Int × Flags :=
  match f.val a with
  | .nan _ => (0, flagNV)
  | .inf s => (if s then t.lo else t.hi, flagNV)
  | .fin s m e =>
    let c := cutAt m e false 0
    let u : Int := c.rounded rm s
    let v := if s then -u else u
    if v < t.lo then (t.lo, flagNV)
    else if t.hi < v then (t.hi, flagNV)
    else (v, if c.exact then 0#5 else flagNX)

/-- Integer to floating point (R116). -/
def fOfInt (f : Fmt) (rm : Rnd) (v : Int) : Nat × Flags := roundMag f rm false (v < 0) v.natAbs 0 false

/-- The exact value x / s rounded once into a format (R120). -/
def fQuot (dst : Fmt) (rm : Rnd) (sat : Bool) (x s : FVal) : Nat × Flags :=
  match x, s with
  | .fin sx m e, .fin ss m' e' =>
    if m' == 0 && m == 0 then (dst.nan, flagNV)
    else if m' == 0 then (dst.signBit (sx != ss) + (if sat then dst.maxBits else dst.ovfBits), flagOF ||| flagNX)
    else
      let (q, k, st) := divBits m m'
      roundMag dst rm sat (sx != ss) q (e - e' - k) st
  | .nan sig, _ => (dst.nan, if sig || dst == .e2m1 then flagNV else 0#5)
  | _, .nan _ => (dst.nan, flagNV)
  | .inf sx, .fin ss _ _ => (dst.signBit (sx != ss) + (if sat then dst.maxBits else dst.ovfBits), flagNV)
  | .fin sx _ _, .inf ss => (dst.signBit (sx != ss), 0#5)
  | .inf _, .inf _ => (dst.nan, flagNV)

/-- One level of the reduction tree (R125). -/
def treeLevel (op : Nat → Nat → Nat × Flags) : List Nat → List Nat × Flags
  | a :: b :: rest =>
    let (r, fl) := op a b
    let (rs, fls) := treeLevel op rest
    (r :: rs, fl ||| fls)
  | l => (l, 0#5)
/-- The reduction tree of R125 over a list whose length is 2^k. -/
def treeReduce (op : Nat → Nat → Nat × Flags) : Nat → List Nat → Nat × Flags
  | 0, l => (l.headD 0, 0#5)
  | k + 1, l =>
    let (l', fl) := treeLevel op l
    let (r, fls) := treeReduce op k l'
    (r, fl ||| fls)

/-- The content of an E8M0 scale byte (R100, R103). -/
def e8m0Val (b : Nat) : FVal := if b % 256 == 255 then .nan false else .fin false 1 ((b % 256 : Nat) - 127)

/-- A running exact sum: a multiple of 2^exp, and what special terms it has met (R126). -/
structure ExactSum where
  /-- Multiple of 2^exp. -/
  num : Int
  /-- Exponent of the unit. -/
  exp : Int
  /-- A NaN, or a zero beside an infinity, was met. -/
  bad : Bool
  /-- A +∞ was met. -/
  posInf : Bool
  /-- A −∞ was met. -/
  negInf : Bool
  /-- Every term so far is −0. -/
  allNegZero : Bool
  deriving DecidableEq, Repr

/-- The sum of no terms. -/
def ExactSum.empty : ExactSum :=
  { num := 0, exp := 0, bad := false, posInf := false, negInf := false, allNegZero := true }

/-- Add an exact term. -/
def ExactSum.add (t : ExactSum) (v : FVal) : ExactSum :=
  match v with
  | .nan _ => { t with bad := true }
  | .inf s => if s then { t with negInf := true, allNegZero := false } else { t with posInf := true, allNegZero := false }
  | .fin s m e =>
    let anz := t.allNegZero && s && m == 0
    if m == 0 then { t with allNegZero := anz }
    else
      let lo := min t.exp e
      let k : Int := (m <<< (e - lo).toNat : Nat)
      { t with num := t.num * (2 ^ (t.exp - lo).toNat : Nat) + (if s then -k else k), exp := lo, allNegZero := false }

/-- The exact product of factors; a zero beside an infinity, or a NaN factor, is a NaN (R126). -/
def mulAll : List FVal → FVal
  | [] => .fin false 1 0
  | v :: vs =>
    match v, mulAll vs with
    | .nan b, _ => .nan b
    | _, .nan b => .nan b
    | x, y => match mulExact x y with
      | some p => p
      | none => .nan false

/-- The one rounding of a matrix result (R126). -/
def ExactSum.result (t : ExactSum) (f : Fmt) : Nat :=
  if t.bad || (t.posInf && t.negInf) then f.nan
  else if t.posInf then f.infBits
  else if t.negInf then f.signBit true + f.infBits
  else if t.num == 0 then f.signBit t.allNegZero
  else (roundMag f .rne false (t.num < 0) t.num.natAbs t.exp false).1

end Sys2Proof.Machine
end

