-- ==== Sys2Proof/Machine/Tab.lean ====
section
/-! DEFINITION. Sparse tables: how the state holds whatever is numbered (registers, cores, memory). A table is a list of
(key, value) pairs with strictly rising keys that lists no entry equal to the table's default, so equal contents are equal
data. Reading an unlisted key gives the default. -/

namespace Sys2Proof.Machine

/-- A sparse table in canonical form (`Tab.wf`). -/
abbrev Tab (α : Type) := List (Nat × α)

namespace Tab

/-- The entry of key k, the default d where none is listed. -/
def get {α : Type} (t : Tab α) (d : α) (k : Nat) : α :=
  match t with
  | [] => d
  | (i, v) :: rest => if i == k then v else get rest d k

/-- The table without key k. -/
def erase {α : Type} (t : Tab α) (k : Nat) : Tab α := t.filter (fun p => p.1 != k)

/-- Put a pair before the first larger key. -/
def insert {α : Type} (t : Tab α) (k : Nat) (v : α) : Tab α :=
  match t with
  | [] => [(k, v)]
  | (i, w) :: rest => if k < i then (k, v) :: (i, w) :: rest else (i, w) :: insert rest k v

/-- Write value v at key k; writing the default removes the entry. -/
def set {α : Type} [DecidableEq α] (t : Tab α) (d : α) (k : Nat) (v : α) : Tab α :=
  if v = d then erase t k else insert (erase t k) k v

/-- The table without the keys from lo up to below hi. -/
def clear {α : Type} (t : Tab α) (lo hi : Nat) : Tab α := t.filter (fun p => p.1 < lo || hi ≤ p.1)

/-- The entries with keys from lo up to below hi. -/
def slice {α : Type} (t : Tab α) (lo hi : Nat) : Tab α := t.filter (fun p => lo ≤ p.1 && p.1 < hi)

/-- Write every pair of a list in turn. -/
def setAll {α : Type} [DecidableEq α] (t : Tab α) (d : α) (ps : List (Nat × α)) : Tab α :=
  ps.foldl (fun u p => set u d p.1 p.2) t

/-- Strictly rising keys from a lower bound on, and no entry equal to the default. -/
def wfFrom {α : Type} [DecidableEq α] (d : α) : Nat → Tab α → Bool
  | _, [] => true
  | lo, (k, v) :: rest => lo ≤ k && v != d && wfFrom d (k + 1) rest

/-- The canonical form. -/
def wf {α : Type} [DecidableEq α] (t : Tab α) (d : α) : Bool := wfFrom d 0 t

end Tab

/-- Memory: the bytes that differ from what an unlisted byte reads as (log 4). -/
abbrev Memory := Tab Byte

/-- What a byte of memory that nothing has written reads as: zero. LM is zero by CREATE (R348); for device memory the
value is the model's (DESIGN CHOICE, log 4). -/
def memDefault : Byte := 0#8

/-- The canonical form of memory. -/
def Memory.wf (m : Memory) : Bool := Tab.wf m memDefault

end Sys2Proof.Machine
end

