-- ==== Sys2Proof/Syntax.lean ====
section
/-! DEFINITION. The instructions of Phoroth revision 1 (09_encoding.md to 15_isa_engines.md) and the operations and events
of the units (95_what_each_step_holds.md): one constructor for each row of the opcode table. The fields of an encoded
instruction are the table's bit fields, named as the table names them and kept as bits; a unit's operation has no word and
takes its operands from the turn that the state holds. -/

namespace Sys2Proof

/-- One row of the opcode table each. -/
inductive Instr where
  /-- add (R223). Writes x[a] + x[b], wrapping, to x[d]. -/
  | add (d a b : BitVec 5)
  /-- sub (R223). Writes x[a] − x[b], wrapping, to x[d]. -/
  | sub (d a b : BitVec 5)
  /-- and (R223). Writes the bitwise and of x[a] and x[b] to x[d]. -/
  | and (d a b : BitVec 5)
  /-- or (R223). Writes the bitwise or of x[a] and x[b] to x[d]. -/
  | or (d a b : BitVec 5)
  /-- xor (R223). Writes the exclusive or of x[a] and x[b] to x[d]. -/
  | xor (d a b : BitVec 5)
  /-- andn (R223). Writes x[a] & ~x[b] to x[d]. -/
  | andn (d a b : BitVec 5)
  /-- orn (R223). Writes x[a] | ~x[b] to x[d]. -/
  | orn (d a b : BitVec 5)
  /-- xnor (R223). Writes ~(x[a] ⊕ x[b]) to x[d]. -/
  | xnor (d a b : BitVec 5)
  /-- sll (R223). Shifts x[a] left by x[b] mod 64. -/
  | sll (d a b : BitVec 5)
  /-- srl (R223). Shifts x[a] right logically by x[b] mod 64. -/
  | srl (d a b : BitVec 5)
  /-- sra (R223). Shifts x[a] right arithmetically by x[b] mod 64. -/
  | sra (d a b : BitVec 5)
  /-- rol (R223). Rotates x[a] left by x[b] mod 64. -/
  | rol (d a b : BitVec 5)
  /-- ror (R223). Rotates x[a] right by x[b] mod 64. -/
  | ror (d a b : BitVec 5)
  /-- slt (R223). Writes 1 if x[a] < x[b] as signed values, else 0. -/
  | slt (d a b : BitVec 5)
  /-- sltz (R223). Writes 1 if x[a] < x[b] as unsigned values, else 0. -/
  | sltz (d a b : BitVec 5)
  /-- min (R223). Writes the signed lesser of x[a] and x[b]. -/
  | min (d a b : BitVec 5)
  /-- max (R223). Writes the signed greater of x[a] and x[b]. -/
  | max (d a b : BitVec 5)
  /-- minz (R223). Writes the unsigned lesser of x[a] and x[b]. -/
  | minz (d a b : BitVec 5)
  /-- maxz (R223). Writes the unsigned greater of x[a] and x[b]. -/
  | maxz (d a b : BitVec 5)
  /-- add.sat (R223). Signed addition clamped to the 64-bit signed range. -/
  | addSat (d a b : BitVec 5)
  /-- sub.sat (R223). Signed subtraction clamped to the 64-bit signed range. -/
  | subSat (d a b : BitVec 5)
  /-- addz.sat (R223). Unsigned addition clamped to the 64-bit unsigned range. -/
  | addzSat (d a b : BitVec 5)
  /-- subz.sat (R223). Unsigned subtraction clamped to the 64-bit unsigned range. -/
  | subzSat (d a b : BitVec 5)
  /-- clz (R223). Counts the leading zero bits of x[a]. -/
  | clz (d a : BitVec 5)
  /-- ctz (R223). Counts the trailing zero bits of x[a]. -/
  | ctz (d a : BitVec 5)
  /-- cpop (R223). Counts the one bits of x[a]. -/
  | cpop (d a : BitVec 5)
  /-- rev8 (R223). Reverses the byte order of x[a]. -/
  | rev8 (d a : BitVec 5)
  /-- bfx.s (R224). Extracts a signed bit field of x[a], with position and length from x[b]. -/
  | bfxS (d a b : BitVec 5)
  /-- bfx.z (R224). Extracts an unsigned bit field of x[a], with position and length from x[b]. -/
  | bfxZ (d a b : BitVec 5)
  /-- bfi (R224). Inserts a bit field from x[a] into x[d]. -/
  | bfi (d a b : BitVec 5)
  /-- sel (R223). Writes x[a] if x[c] ≠ 0, else x[b]. -/
  | sel (d a b c : BitVec 5)
  /-- addi (R225). Adds a sign-extended immediate to x[a]. -/
  | addi (d a : BitVec 5) (i : BitVec 15)
  /-- andi (R225). Ands x[a] with a sign-extended immediate. -/
  | andi (d a : BitVec 5) (i : BitVec 15)
  /-- ori (R225). Ors x[a] with a sign-extended immediate. -/
  | ori (d a : BitVec 5) (i : BitVec 15)
  /-- xori (R225). Exclusive-ors x[a] with a sign-extended immediate. -/
  | xori (d a : BitVec 5) (i : BitVec 15)
  /-- slti (R225). Writes 1 if x[a] < the immediate as signed values. -/
  | slti (d a : BitVec 5) (i : BitVec 15)
  /-- shi.sll (R226). Shifts x[a] left by the immediate n. -/
  | shiSll (d a : BitVec 5) (n : BitVec 6)
  /-- shi.srl (R226). Shifts x[a] right logically by the immediate n. -/
  | shiSrl (d a : BitVec 5) (n : BitVec 6)
  /-- shi.sra (R226). Shifts x[a] right arithmetically by the immediate n. -/
  | shiSra (d a : BitVec 5) (n : BitVec 6)
  /-- shi.ror (R226). Rotates x[a] right by the immediate n. -/
  | shiRor (d a : BitVec 5) (n : BitVec 6)
  /-- mul (R227). Writes the low 64 bits of the product. -/
  | mul (d a b : BitVec 5)
  /-- mulh (R227). Writes the high 64 bits of the signed product. -/
  | mulh (d a b : BitVec 5)
  /-- mulhz (R227). Writes the high 64 bits of the unsigned product. -/
  | mulhz (d a b : BitVec 5)
  /-- mulhsz (R227). Writes the high 64 bits of the signed-by-unsigned product. -/
  | mulhsz (d a b : BitVec 5)
  /-- div (R227). Signed division, with the quotient rounded toward zero. -/
  | div (d a b : BitVec 5)
  /-- divz (R227). Unsigned division. -/
  | divz (d a b : BitVec 5)
  /-- rem (R227). Signed remainder, carrying the dividend's sign. -/
  | rem (d a b : BitVec 5)
  /-- remz (R227). Unsigned remainder. -/
  | remz (d a b : BitVec 5)
  /-- lui (R228). Writes sext(imm20) << 12 to x[d]. -/
  | lui (d : BitVec 5) (i : BitVec 20)
  /-- addpc (R228). Writes the LM-window address of pc plus the shifted immediate. -/
  | addpc (d : BitVec 5) (i : BitVec 20)
  /-- jal (R229). Jumps pc-relative and writes the link pc + 4. -/
  | jal (d : BitVec 5) (i : BitVec 20)
  /-- jalr (R229). Jumps to x[a] + imm with bit 0 cleared and writes the link. -/
  | jalr (d a : BitVec 5) (i : BitVec 15)
  /-- beq (R230). Branches when x[a] = x[b]. -/
  | beq (a b : BitVec 5) (o : BitVec 10) (p : BitVec 5)
  /-- bne (R230). Branches when x[a] ≠ x[b]. -/
  | bne (a b : BitVec 5) (o : BitVec 10) (p : BitVec 5)
  /-- blt (R230). Branches when x[a] < x[b], signed. -/
  | blt (a b : BitVec 5) (o : BitVec 10) (p : BitVec 5)
  /-- bge (R230). Branches when x[a] ≥ x[b], signed. -/
  | bge (a b : BitVec 5) (o : BitVec 10) (p : BitVec 5)
  /-- bltz (R230). Branches when x[a] < x[b], unsigned. -/
  | bltz (a b : BitVec 5) (o : BitVec 10) (p : BitVec 5)
  /-- bgez (R230). Branches when x[a] ≥ x[b], unsigned. -/
  | bgez (a b : BitVec 5) (o : BitVec 10) (p : BitVec 5)
  /-- fadd.rm (R232). FP32 addition under the given rounding mode. -/
  | fadd (d a b : BitVec 5) (r : BitVec 3)
  /-- fsub.rm (R232). FP32 subtraction under the given rounding mode. -/
  | fsub (d a b : BitVec 5) (r : BitVec 3)
  /-- fmul.rm (R232). FP32 multiplication under the given rounding mode. -/
  | fmul (d a b : BitVec 5) (r : BitVec 3)
  /-- fdiv.rm (R232). FP32 division under the given rounding mode. -/
  | fdiv (d a b : BitVec 5) (r : BitVec 3)
  /-- fsqrt.rm (R232). FP32 square root under the given rounding mode. -/
  | fsqrt (d a : BitVec 5) (r : BitVec 3)
  /-- fmin (R105). FP32 minimum, with NaN and signed-zero rules. -/
  | fmin (d a b : BitVec 5)
  /-- fmax (R105). FP32 maximum, with NaN and signed-zero rules. -/
  | fmax (d a b : BitVec 5)
  /-- fcpsgn (R232). Magnitude of f[a] with the sign of f[b]. -/
  | fcpsgn (d a b : BitVec 5)
  /-- fcpsgnn (R232). Magnitude of f[a] with the inverted sign of f[b]. -/
  | fcpsgnn (d a b : BitVec 5)
  /-- fcpsgnx (R232). Magnitude of f[a] with the xor of both signs. -/
  | fcpsgnx (d a b : BitVec 5)
  /-- feq (R233). Writes 1 to x[d] if f[a] = f[b]. -/
  | feq (d a b : BitVec 5)
  /-- flt (R233). Writes 1 to x[d] if f[a] < f[b]. -/
  | flt (d a b : BitVec 5)
  /-- fle (R233). Writes 1 to x[d] if f[a] ≤ f[b]. -/
  | fle (d a b : BitVec 5)
  /-- fclass (R233). Writes a one-hot class mask of f[a]. -/
  | fclass (d a : BitVec 5)
  /-- fcvt.f32.ty.rm (R234). Converts f[a] to an integer type into x[d]. -/
  | fcvtF32Ty (d a : BitVec 5) (t : BitVec 2) (r : BitVec 3)
  /-- fcvt.ty.f32.rm (R234). Converts an integer in x[a] to FP32 in f[d]. -/
  | fcvtTyF32 (d a : BitVec 5) (t : BitVec 2) (r : BitVec 3)
  /-- fmv.x.f (R234). Moves the bits of f[a] to x[d]. -/
  | fmvXF (d a : BitVec 5)
  /-- fmv.f.x (R234). Moves x[a][31:0] to f[d]. -/
  | fmvFX (d a : BitVec 5)
  /-- fcvt.f32.nfmt.rm.sat (R235). Narrows f[a] into a narrow format in x[d]. -/
  | fcvtF32Nfmt (d a : BitVec 5) (r : BitVec 3) (s : BitVec 1) (n : BitVec 3)
  /-- fcvt.nfmt.f32 (R235). Widens a narrow element in x[a] into f[d], exactly. -/
  | fcvtNfmtF32 (d a : BitVec 5) (n : BitVec 3)
  /-- ffma.rm (R236). Fused f[a] × f[b] + f[c], rounded once. -/
  | ffma (d a b c : BitVec 5) (r : BitVec 3)
  /-- ffms.rm (R236). Fused f[a] × f[b] − f[c], rounded once. -/
  | ffms (d a b c : BitVec 5) (r : BitVec 3)
  /-- fnma.rm (R236). Fused −(f[a] × f[b]) + f[c], rounded once. -/
  | fnma (d a b c : BitVec 5) (r : BitVec 3)
  /-- fnms.rm (R236). Fused −(f[a] × f[b]) − f[c], rounded once. -/
  | fnms (d a b c : BitVec 5) (r : BitVec 3)
  /-- csrr (R239). Reads a control register into x[d]. -/
  | csrr (d : BitVec 5) (k : BitVec 12)
  /-- csrw (R239). Writes a control register from x[a] and returns the old value; TLBINV writes start an invalidation. -/
  | csrw (d a : BitVec 5) (k : BitVec 12)
  /-- csrs (R239). Sets the bits of x[a] in a control register and returns the old value. -/
  | csrs (d a : BitVec 5) (k : BitVec 12)
  /-- csrc (R239). Clears the bits of x[a] in a control register and returns the old value. -/
  | csrc (d a : BitVec 5) (k : BitVec 12)
  /-- safe (R241). Safe point with live mask n; may evict the task and zeroes unmarked registers. -/
  | safe (n : BitVec 8)
  /-- yield (R241). Safe point at which every register is live; may evict the task. -/
  | yield
  /-- done (R242). Ends the task: release at .dev, claim release, slot and frame freed. -/
  | done
  /-- svc (R243). Sends a service request message to the trap handler core. -/
  | svc (n : BitVec 8)
  /-- trap (R243). Raises a user trap with code n, which kills the task. -/
  | trap (n : BitVec 8)
  /-- ld.sz (R246). Weak load of 1–8 bytes, zero- or sign-extended as sz3 gives. -/
  | ld (d a : BitVec 5) (i : BitVec 12) (s : BitVec 3)
  /-- st.sz (R246). Weak store of 1–8 bytes. -/
  | st (a b : BitVec 5) (i : BitVec 7) (s : BitVec 3) (j : BitVec 5)
  /-- fld.w (R246). Weak 4-byte load into f[d]. -/
  | fldW (d a : BitVec 5) (i : BitVec 12)
  /-- fst.w (R246). Weak 4-byte store of f[d]. -/
  | fstW (d a : BitVec 5) (i : BitVec 12)
  /-- lds.sz.o.s (R249). Strong load, performed once at the owner, with order and scope. -/
  | lds (d a : BitVec 5) (s : BitVec 3) (o : BitVec 5)
  /-- sts.sz.o.s (R249). Strong store, performed once at the owner, with order and scope. -/
  | sts (a b : BitVec 5) (s : BitVec 2) (o : BitVec 5)
  /-- amo.swap.sz.o.s (R251). Atomic swap at the owner. -/
  | amoSwap (d a b : BitVec 5) (z : BitVec 1) (o : BitVec 5)
  /-- amo.add.sz.o.s (R251). Atomic wrapping add at the owner. -/
  | amoAdd (d a b : BitVec 5) (z : BitVec 1) (o : BitVec 5)
  /-- amo.and.sz.o.s (R251). Atomic and at the owner. -/
  | amoAnd (d a b : BitVec 5) (z : BitVec 1) (o : BitVec 5)
  /-- amo.or.sz.o.s (R251). Atomic or at the owner. -/
  | amoOr (d a b : BitVec 5) (z : BitVec 1) (o : BitVec 5)
  /-- amo.xor.sz.o.s (R251). Atomic exclusive or at the owner. -/
  | amoXor (d a b : BitVec 5) (z : BitVec 1) (o : BitVec 5)
  /-- amo.min.sz.o.s (R251). Atomic signed minimum at the owner. -/
  | amoMin (d a b : BitVec 5) (z : BitVec 1) (o : BitVec 5)
  /-- amo.max.sz.o.s (R251). Atomic signed maximum at the owner. -/
  | amoMax (d a b : BitVec 5) (z : BitVec 1) (o : BitVec 5)
  /-- amo.minz.sz.o.s (R251). Atomic unsigned minimum at the owner. -/
  | amoMinz (d a b : BitVec 5) (z : BitVec 1) (o : BitVec 5)
  /-- amo.maxz.sz.o.s (R251). Atomic unsigned maximum at the owner. -/
  | amoMaxz (d a b : BitVec 5) (z : BitVec 1) (o : BitVec 5)
  /-- amo.fadd.o.s (R251). Atomic FP32 add under RNE at the owner. -/
  | amoFadd (d a b o : BitVec 5)
  /-- amo.fmin.o.s (R251). Atomic FP32 minimum at the owner. -/
  | amoFmin (d a b o : BitVec 5)
  /-- amo.fmax.o.s (R251). Atomic FP32 maximum at the owner. -/
  | amoFmax (d a b o : BitVec 5)
  /-- amocas.o.s (R252). 8-byte atomic compare and swap at the owner. -/
  | amocas (d a b c o : BitVec 5)
  /-- fence.o.s (R253). Acquire and/or release fence at a scope. -/
  | fence (o : BitVec 5)
  /-- tadd.s (R255). Atomic add to a timeline counter as a release. -/
  | tadd (a b : BitVec 5) (s : BitVec 3)
  /-- tread.s (R255). Strong acquiring 8-byte read of a timeline counter. -/
  | tread (d a : BitVec 5) (s : BitVec 3)
  /-- waitge.s (R256). Waits until the counter is ≥ x[b], unsigned; a safe point. -/
  | waitge (a b : BitVec 5) (s : BitVec 3)
  /-- msend (R258). Sends a message without payload after a release. -/
  | msend (a b c : BitVec 5)
  /-- msendp (R258). Sends a message with a payload copied from own LM. -/
  | msendp (d a b c : BitVec 5)
  /-- tarm (R260). Arms a trigger counter without repeat. -/
  | tarm (a b c : BitVec 5)
  /-- tarm.rep (R260). Arms a trigger counter with repeat. -/
  | tarmRep (a b c : BitVec 5)
  /-- tbind (R260). Binds a task record to a counter. -/
  | tbind (a b c : BitVec 5)
  /-- tunbind (R260). Unbinds a counter. -/
  | tunbind (a : BitVec 5)
  /-- tdis (R260). Disables a counter. -/
  | tdis (a : BitVec 5)
  /-- ten (R33). Enables a counter, applying remembered fires and crossings. -/
  | ten (a : BitVec 5)
  /-- tdec (R260). Applies one decrement to an own counter. -/
  | tdec (a : BitVec 5)
  /-- tstat (R260). Reads a counter's state word. -/
  | tstat (d a : BitVec 5)
  /-- tfcnt (R260). Reads a counter's fire count. -/
  | tfcnt (d a : BitVec 5)
  /-- tclrf (R260). Clears a counter's excess and overflow flags. -/
  | tclrf (a : BitVec 5)
  /-- hbind (R260). Writes a handler-table entry and releases unclaimed messages for it. -/
  | hbind (a b : BitVec 5)
  /-- bar.s (R262). Arrives at a barrier and waits for its episode; a safe point. -/
  | bar (a b : BitVec 5) (s : BitVec 3)
  /-- bara.s (R262). Arrives at a barrier and returns the episode. -/
  | bara (d a b : BitVec 5) (s : BitVec 3)
  /-- barw.s (R262). Waits for a given barrier episode. -/
  | barw (a b : BitVec 5) (s : BitVec 3)
  /-- elect.s (R262). Arrives as an elector and returns 1 to the least rank. -/
  | elect (d a b : BitVec 5) (s : BitVec 3)
  /-- spawn (R263). Pushes a task record onto the core's deque, spilling as needed. -/
  | spawn (d a b c : BitVec 5)
  /-- dqcnt (R263). Returns the deque's record count. -/
  | dqcnt (d : BitVec 5)
  /-- vclaim (R267). Requests a lane claim, waiting in the octet queue. -/
  | vclaim (d a : BitVec 5)
  /-- vclaim.try (R267). Requests a lane claim without waiting. -/
  | vclaimTry (d a : BitVec 5)
  /-- vrel (R269). Releases the task's lane claim. -/
  | vrel
  /-- vwaitm (R273). Waits until the vector memory counter is at most n. -/
  | vwaitm (b : BitVec 5)
  /-- vld (R272). Contiguous vector load. -/
  | vld (d a : BitVec 5) (p : BitVec 3)
  /-- vlds (R272). Strided vector load. -/
  | vlds (d a b : BitVec 5) (p : BitVec 3)
  /-- vldg (R272). Gather vector load. -/
  | vldg (d a b : BitVec 5) (p : BitVec 3)
  /-- vldt.k (R272). Transposing vector load into k registers. -/
  | vldt (d a b : BitVec 5) (k : BitVec 2) (p : BitVec 3)
  /-- vst (R272). Contiguous vector store. -/
  | vst (d a : BitVec 5) (p : BitVec 3)
  /-- vsts (R272). Strided vector store. -/
  | vsts (d a b : BitVec 5) (p : BitVec 3)
  /-- vstg (R272). Scatter vector store. -/
  | vstg (d a b : BitVec 5) (p : BitVec 3)
  /-- vstt.k (R272). Transposing vector store from k registers. -/
  | vstt (d a b : BitVec 5) (k : BitVec 2) (p : BitVec 3)
  /-- vadd.w (R274). Vector integer add. -/
  | vadd (d a b : BitVec 5) (w : BitVec 2) (p : BitVec 3)
  /-- vsub.w (R274). Vector integer subtract. -/
  | vsub (d a b : BitVec 5) (w : BitVec 2) (p : BitVec 3)
  /-- vmul.w (R274). Vector integer multiply, low half. -/
  | vmul (d a b : BitVec 5) (w : BitVec 2) (p : BitVec 3)
  /-- vmulh.w (R274). Vector signed multiply, high half. -/
  | vmulh (d a b : BitVec 5) (w : BitVec 2) (p : BitVec 3)
  /-- vmulhz.w (R274). Vector unsigned multiply, high half. -/
  | vmulhz (d a b : BitVec 5) (w : BitVec 2) (p : BitVec 3)
  /-- vand.w (R274). Vector bitwise and. -/
  | vand (d a b : BitVec 5) (w : BitVec 2) (p : BitVec 3)
  /-- vor.w (R274). Vector bitwise or. -/
  | vor (d a b : BitVec 5) (w : BitVec 2) (p : BitVec 3)
  /-- vxor.w (R274). Vector exclusive or. -/
  | vxor (d a b : BitVec 5) (w : BitVec 2) (p : BitVec 3)
  /-- vandn.w (R274). Vector and-not. -/
  | vandn (d a b : BitVec 5) (w : BitVec 2) (p : BitVec 3)
  /-- vsll.w (R274). Vector left shift. -/
  | vsll (d a b : BitVec 5) (w : BitVec 2) (p : BitVec 3)
  /-- vsrl.w (R274). Vector logical right shift. -/
  | vsrl (d a b : BitVec 5) (w : BitVec 2) (p : BitVec 3)
  /-- vsra.w (R274). Vector arithmetic right shift. -/
  | vsra (d a b : BitVec 5) (w : BitVec 2) (p : BitVec 3)
  /-- vmin.w (R274). Vector signed minimum. -/
  | vmin (d a b : BitVec 5) (w : BitVec 2) (p : BitVec 3)
  /-- vmax.w (R274). Vector signed maximum. -/
  | vmax (d a b : BitVec 5) (w : BitVec 2) (p : BitVec 3)
  /-- vminz.w (R274). Vector unsigned minimum. -/
  | vminz (d a b : BitVec 5) (w : BitVec 2) (p : BitVec 3)
  /-- vmaxz.w (R274). Vector unsigned maximum. -/
  | vmaxz (d a b : BitVec 5) (w : BitVec 2) (p : BitVec 3)
  /-- vadd.sat.w (R274). Vector signed saturating add. -/
  | vaddSat (d a b : BitVec 5) (w : BitVec 2) (p : BitVec 3)
  /-- vaddz.sat.w (R274). Vector unsigned saturating add. -/
  | vaddzSat (d a b : BitVec 5) (w : BitVec 2) (p : BitVec 3)
  /-- vsub.sat.w (R274). Vector signed saturating subtract. -/
  | vsubSat (d a b : BitVec 5) (w : BitVec 2) (p : BitVec 3)
  /-- vsubz.sat.w (R274). Vector unsigned saturating subtract. -/
  | vsubzSat (d a b : BitVec 5) (w : BitVec 2) (p : BitVec 3)
  /-- vmac.w (R274). Vector multiply-accumulate, low bits. -/
  | vmac (d a b : BitVec 5) (w : BitVec 2) (p : BitVec 3)
  /-- vdot.w (R274). Vector signed dot product of sub-elements into 32 bits. -/
  | vdot (d a b : BitVec 5) (w : BitVec 2) (p : BitVec 3)
  /-- vdotz.w (R274). Vector unsigned dot product of sub-elements. -/
  | vdotz (d a b : BitVec 5) (w : BitVec 2) (p : BitVec 3)
  /-- vsel.w (R274). Selects a or b per element by the predicate. -/
  | vsel (d a b : BitVec 5) (w : BitVec 2) (p : BitVec 3)
  /-- vfadd.t (R275). Vector FP add. -/
  | vfadd (d a b : BitVec 5) (t : BitVec 2) (p : BitVec 3)
  /-- vfsub.t (R275). Vector FP subtract. -/
  | vfsub (d a b : BitVec 5) (t : BitVec 2) (p : BitVec 3)
  /-- vfmul.t (R275). Vector FP multiply. -/
  | vfmul (d a b : BitVec 5) (t : BitVec 2) (p : BitVec 3)
  /-- vfma.t (R275). Vector fused multiply-add. -/
  | vfma (d a b : BitVec 5) (t : BitVec 2) (p : BitVec 3)
  /-- vfnma.t (R275). Vector fused negated multiply-add. -/
  | vfnma (d a b : BitVec 5) (t : BitVec 2) (p : BitVec 3)
  /-- vfmin.t (R275). Vector FP minimum. -/
  | vfmin (d a b : BitVec 5) (t : BitVec 2) (p : BitVec 3)
  /-- vfmax.t (R275). Vector FP maximum. -/
  | vfmax (d a b : BitVec 5) (t : BitVec 2) (p : BitVec 3)
  /-- vfcpsgn.t (R275). Vector copy-sign. -/
  | vfcpsgn (d a b : BitVec 5) (t : BitVec 2) (p : BitVec 3)
  /-- vcmpeq (R276). Vector integer equality compare into a predicate. -/
  | vcmpeq (d : BitVec 3) (a b : BitVec 5) (p : BitVec 3)
  /-- vcmpne (R276). Vector integer inequality compare. -/
  | vcmpne (d : BitVec 3) (a b : BitVec 5) (p : BitVec 3)
  /-- vcmplt (R276). Vector signed less-than compare. -/
  | vcmplt (d : BitVec 3) (a b : BitVec 5) (p : BitVec 3)
  /-- vcmple (R276). Vector signed less-or-equal compare. -/
  | vcmple (d : BitVec 3) (a b : BitVec 5) (p : BitVec 3)
  /-- vcmpltz (R276). Vector unsigned less-than compare. -/
  | vcmpltz (d : BitVec 3) (a b : BitVec 5) (p : BitVec 3)
  /-- vcmplez (R276). Vector unsigned less-or-equal compare. -/
  | vcmplez (d : BitVec 3) (a b : BitVec 5) (p : BitVec 3)
  /-- vfcmpeq (R276). Vector FP equality compare. -/
  | vfcmpeq (d : BitVec 3) (a b : BitVec 5) (p : BitVec 3)
  /-- vfcmplt (R276). Vector FP less-than compare. -/
  | vfcmplt (d : BitVec 3) (a b : BitVec 5) (p : BitVec 3)
  /-- vfcmple (R276). Vector FP less-or-equal compare. -/
  | vfcmple (d : BitVec 3) (a b : BitVec 5) (p : BitVec 3)
  /-- vfcmpun (R276). Vector FP unordered compare. -/
  | vfcmpun (d : BitVec 3) (a b : BitVec 5) (p : BitVec 3)
  /-- pand (R276). Predicate and. -/
  | pand (d a b : BitVec 3)
  /-- por (R276). Predicate or. -/
  | por (d a b : BitVec 3)
  /-- pxor (R276). Predicate exclusive or. -/
  | pxor (d a b : BitVec 3)
  /-- pandn (R276). Predicate and-not. -/
  | pandn (d a b : BitVec 3)
  /-- pnot (R276). Predicate complement. -/
  | pnot (d a : BitVec 3)
  /-- pwhile (R276). Sets predicate bits j < x[a]. -/
  | pwhile (d : BitVec 3) (a : BitVec 5)
  /-- pcnt (R276). Counts the set predicate bits into x[d]. -/
  | pcnt (d : BitVec 5) (a : BitVec 3)
  /-- vperm (R277). Permutes elements by an index vector. -/
  | vperm (d a b : BitVec 5) (p : BitVec 3)
  /-- vslide.up (R277). Slides elements up by x[b]. -/
  | vslideUp (d a b : BitVec 5) (p : BitVec 3)
  /-- vslide.dn (R277). Slides elements down by x[b]. -/
  | vslideDn (d a b : BitVec 5) (p : BitVec 3)
  /-- vbcast (R277). Broadcasts x[a][31:0]. -/
  | vbcast (d a : BitVec 5) (p : BitVec 3)
  /-- vbcast.e (R277). Broadcasts one element of v[a]. -/
  | vbcastE (d a b : BitVec 5) (p : BitVec 3)
  /-- vins (R277). Inserts x[a][31:0] into one element. -/
  | vins (d a b : BitVec 5)
  /-- vext (R277). Extracts one element into x[d]. -/
  | vext (d a b : BitVec 5)
  /-- vredadd (R278). Integer sum reduction. -/
  | vredadd (d a : BitVec 5) (p : BitVec 3)
  /-- vredmin (R278). Signed minimum reduction. -/
  | vredmin (d a : BitVec 5) (p : BitVec 3)
  /-- vredmax (R278). Signed maximum reduction. -/
  | vredmax (d a : BitVec 5) (p : BitVec 3)
  /-- vredminz (R278). Unsigned minimum reduction. -/
  | vredminz (d a : BitVec 5) (p : BitVec 3)
  /-- vredmaxz (R278). Unsigned maximum reduction. -/
  | vredmaxz (d a : BitVec 5) (p : BitVec 3)
  /-- vredand (R278). Bitwise and reduction. -/
  | vredand (d a : BitVec 5) (p : BitVec 3)
  /-- vredor (R278). Bitwise or reduction. -/
  | vredor (d a : BitVec 5) (p : BitVec 3)
  /-- vredxor (R278). Bitwise xor reduction. -/
  | vredxor (d a : BitVec 5) (p : BitVec 3)
  /-- vfredadd (R278). FP32 tree sum reduction under RNE. -/
  | vfredadd (d a : BitVec 5) (p : BitVec 3)
  /-- vfredmin (R278). FP32 tree minimum reduction. -/
  | vfredmin (d a : BitVec 5) (p : BitVec 3)
  /-- vfredmax (R278). FP32 tree maximum reduction. -/
  | vfredmax (d a : BitVec 5) (p : BitVec 3)
  /-- vcvt.f32.bf16.rm.sat (R279). Narrows FP32 pairs to packed BF16. -/
  | vcvtF32Bf16 (d a b : BitVec 5) (s : BitVec 1) (r : BitVec 3)
  /-- vcvt.f32.f16.rm.sat (R279). Narrows FP32 pairs to packed FP16. -/
  | vcvtF32F16 (d a b : BitVec 5) (s : BitVec 1) (r : BitVec 3)
  /-- vcvt.f32.e4m3.rm.sat (R279). Narrows FP32 groups of 4 to packed E4M3. -/
  | vcvtF32E4m3 (d a b : BitVec 5) (s : BitVec 1) (r : BitVec 3)
  /-- vcvt.f32.e5m2.rm.sat (R279). Narrows FP32 groups of 4 to packed E5M2. -/
  | vcvtF32E5m2 (d a b : BitVec 5) (s : BitVec 1) (r : BitVec 3)
  /-- vcvt.f32.e2m1.rm.sat (R279). Narrows FP32 groups of 8 to packed E2M1. -/
  | vcvtF32E2m1 (d a b : BitVec 5) (s : BitVec 1) (r : BitVec 3)
  /-- vcvt.bf16.f32 (R279). Widens packed BF16 to FP32. -/
  | vcvtBf16F32 (d a : BitVec 5)
  /-- vcvt.f16.f32 (R279). Widens packed FP16 to FP32. -/
  | vcvtF16F32 (d a : BitVec 5)
  /-- vcvt.e4m3.f32 (R279). Widens packed E4M3 to FP32. -/
  | vcvtE4m3F32 (d a : BitVec 5)
  /-- vcvt.e5m2.f32 (R279). Widens packed E5M2 to FP32. -/
  | vcvtE5m2F32 (d a : BitVec 5)
  /-- vcvt.e2m1.f32 (R279). Widens packed E2M1 to FP32. -/
  | vcvtE2m1F32 (d a : BitVec 5)
  /-- vcvt.s32.f32.rm (R279). Converts s32 elements to FP32. -/
  | vcvtS32F32 (d a : BitVec 5) (r : BitVec 3)
  /-- vcvt.z32.f32.rm (R279). Converts z32 elements to FP32. -/
  | vcvtZ32F32 (d a : BitVec 5) (r : BitVec 3)
  /-- vcvt.f32.s32.rm (R279). Converts FP32 elements to s32. -/
  | vcvtF32S32 (d a : BitVec 5) (r : BitVec 3)
  /-- vcvt.f32.z32.rm (R279). Converts FP32 elements to z32. -/
  | vcvtF32Z32 (d a : BitVec 5) (r : BitVec 3)
  /-- vcvt.s32.s16x2.sat (R279). Narrows s32 pairs to packed s16. -/
  | vcvtS32S16x2 (d a : BitVec 5) (s : BitVec 1)
  /-- vcvt.z32.z16x2.sat (R279). Narrows z32 pairs to packed z16. -/
  | vcvtZ32Z16x2 (d a : BitVec 5) (s : BitVec 1)
  /-- vcvt.s32.s8x4.sat (R279). Narrows s32 groups of 4 to packed s8. -/
  | vcvtS32S8x4 (d a : BitVec 5) (s : BitVec 1)
  /-- vcvt.z32.z8x4.sat (R279). Narrows z32 groups of 4 to packed z8. -/
  | vcvtZ32Z8x4 (d a : BitVec 5) (s : BitVec 1)
  /-- vcvt.s16x2.s32 (R279). Widens packed s16 to s32. -/
  | vcvtS16x2S32 (d a : BitVec 5)
  /-- vcvt.z16x2.z32 (R279). Widens packed z16 to z32. -/
  | vcvtZ16x2Z32 (d a : BitVec 5)
  /-- vcvt.s8x4.s32 (R279). Widens packed s8 to s32. -/
  | vcvtS8x4S32 (d a : BitVec 5)
  /-- vcvt.z8x4.z32 (R279). Widens packed z8 to z32. -/
  | vcvtZ8x4Z32 (d a : BitVec 5)
  /-- vexp2 (R280). SFU request for 2^x, rounded once. -/
  | vexp2 (d a : BitVec 5) (p : BitVec 3)
  /-- vlog2 (R280). SFU request for log2 x. -/
  | vlog2 (d a : BitVec 5) (p : BitVec 3)
  /-- vrcp (R280). SFU request for 1/x. -/
  | vrcp (d a : BitVec 5) (p : BitVec 3)
  /-- vrsqrt (R280). SFU request for 1/√x. -/
  | vrsqrt (d a : BitVec 5) (p : BitVec 3)
  /-- vtanh (R280). SFU request for tanh x. -/
  | vtanh (d a : BitVec 5) (p : BitVec 3)
  /-- vsigm (R280). SFU request for the logistic sigmoid. -/
  | vsigm (d a : BitVec 5) (p : BitVec 3)
  /-- vsin (R280). SFU request for sin x. -/
  | vsin (d a : BitVec 5) (p : BitVec 3)
  /-- vcos (R280). SFU request for cos x. -/
  | vcos (d a : BitVec 5) (p : BitVec 3)
  /-- mma.pair.acc (R287). Queues a tile multiply-accumulate command. -/
  | mma (d a b c : BitVec 5) (q : BitVec 2) (p : BitVec 3)
  /-- mmab.pair.acc (R288). Queues a block-scaled tile multiply-accumulate command. -/
  | mmab (d a b c : BitVec 5) (q : BitVec 2) (p : BitVec 3)
  /-- zclr.form (R291). Queues a tile clear. -/
  | zclr (d : BitVec 5) (f : BitVec 2)
  /-- zld.form (R291). Queues a tile load from own LM. -/
  | zld (d a : BitVec 5) (f : BitVec 2)
  /-- zst.form.dfmt.rm.sat (R291). Queues a converting tile store to own LM. -/
  | zst (d a : BitVec 5) (r : BitVec 3) (f : BitVec 2) (s : BitVec 1) (t : BitVec 3)
  /-- mwait (R292). Waits until a matrix job id is complete. -/
  | mwait (a : BitVec 5)
  /-- wld.plain (R294). Queues a plain weight-buffer load. -/
  | wldPlain (d : BitVec 1) (a c : BitVec 5)
  /-- wld.xpb4 (R294). Queues an XPB-E4 decoding weight-buffer load. -/
  | wldXpb4 (d : BitVec 1) (a b c : BitVec 5)
  /-- wld.xpb5 (R294). Queues an XPB-E5 decoding weight-buffer load. -/
  | wldXpb5 (d : BitVec 1) (a b c : BitVec 5)
  /-- qpush (R297). Enters a copy request into the core's FIFO, stalling when full. -/
  | qpush (d a b c : BitVec 5)
  /-- qtry (R297). Enters a copy request if the FIFO has room. -/
  | qtry (d a b c : BitVec 5)
  /-- rset (R303). Defines a ring handle. -/
  | rset (d : BitVec 4) (a b : BitVec 5)
  /-- rwaitf (R304). Waits until the ring's FILL ≥ n. -/
  | rwaitf (d : BitVec 4) (a : BitVec 5)
  /-- rwaite (R304). Waits until the ring's FREE ≥ n. -/
  | rwaite (d : BitVec 4) (a : BitVec 5)
  /-- radvp (R304). Producer advance of a ring. -/
  | radvp (d : BitVec 4) (a : BitVec 5)
  /-- radvc (R304). Consumer advance of a ring. -/
  | radvc (d : BitVec 4) (a : BitVec 5)
  /-- rstat (R304). Reads a ring handle's state. -/
  | rstat (d : BitVec 5) (a : BitVec 4)
  /-- halo (R306). Sends border messages to the grid neighbours. -/
  | halo (a b : BitVec 5)
  /-- xreg (R311). Registers an expert at an owner Caddy. -/
  | xreg (d a b : BitVec 5)
  /-- xroute (R312). Sends a token with its payload to an expert's owner Caddy. -/
  | xroute (d a b c : BitVec 5)
  /-- xgate.s (R313). Barrier arrival carrying a gate list; receives the merged top-k. -/
  | xgate (d a b : BitVec 5) (s : BitVec 3)
  /-- xgrad (R314). Sends a gradient partial to the owner Caddy. -/
  | xgrad (a b c : BitVec 5)
  /-- xjoin (R315). Closes routing for a step and waits for its gradient join. -/
  | xjoin (d a b : BitVec 5)
  /-- xstat (R316). Reads a word of an expert's directory entry. -/
  | xstat (d a b : BitVec 5)
  /-- xpol (R317). Changes one policy field of an expert. -/
  | xpol (d a b c : BitVec 5)
  /-- xdrop (R318). Drops an expert and its replica views. -/
  | xdrop (d a : BitVec 5)
  /-- vwdef (R320). Registers a derived view of a master. -/
  | vwdef (d a c : BitVec 5)
  /-- vwdrop (R321). Drops a view. -/
  | vwdrop (d a : BitVec 5)
  /-- vwrd (R322). Reads a view block into own LM once its tag is accepted. -/
  | vwrd (d a b c : BitVec 5)
  /-- vwtag (R323). Reads a view block's freshness tag. -/
  | vwtag (d a b : BitVec 5)
  /-- vwpub (R324). Publishes a master, raising its version and scheduling regeneration. -/
  | vwpub (d a : BitVec 5)
  /-- vwpol (R325). Changes one setting of a view. -/
  | vwpol (d a b c : BitVec 5)
  /-- vwsync (R326). Waits until every block of a view reaches a version. -/
  | vwsync (a b : BitVec 5)
  /-- stgdef (R330). Loads the die's Trail configuration. -/
  | stgdef (d a : BitVec 5)
  /-- stggo (R331). Starts the Trail at a head position. -/
  | stggo (d a : BitVec 5)
  /-- stgstop (R331). Stops the Trail before its next entry start. -/
  | stgstop (d : BitVec 5)
  /-- stgpost (R332). Posts an entry's output or gradient to the neighbouring Trail. -/
  | stgpost (d a b c : BitVec 5)
  /-- stgstash (R333). Returns the VA of a stash slot. -/
  | stgstash (d a : BitVec 5)
  /-- stgbub (R333). Reads a bubble counter, the status or a log word. -/
  | stgbub (d a : BitVec 5)
  /-- launch (R335). Copies a 64-byte entry into a die command queue. -/
  | launch (d a b : BitVec 5)
  /-- cqpost (R336). Writes VALUE and increments SEQ of a result cell. -/
  | cqpost (d a b : BitVec 5)
  /-- cqwait (R336). Waits until a result cell's SEQ reaches x[b] and returns VALUE. -/
  | cqwait (d a b : BitVec 5)
  /-- c.addi (R189). Compact addi to xd. -/
  | cAddi (d : BitVec 5) (i : BitVec 6)
  /-- c.li (R189). Compact load of a small immediate. -/
  | cLi (d : BitVec 5) (i : BitVec 6)
  /-- c.mv (R189). Compact register move. -/
  | cMv (d a : BitVec 5)
  /-- c.add (R189). Compact add. -/
  | cAdd (d a : BitVec 5)
  /-- c.sub (R189). Compact subtract. -/
  | cSub (d a : BitVec 5)
  /-- c.and (R189). Compact and. -/
  | cAnd (d a : BitVec 5)
  /-- c.slli (R189). Compact left shift by immediate. -/
  | cSlli (d : BitVec 5) (n : BitVec 6)
  /-- c.ldd (R189). Compact 8-byte stack load. -/
  | cLdd (d : BitVec 5) (i : BitVec 6)
  /-- c.std (R189). Compact 8-byte stack store. -/
  | cStd (b : BitVec 5) (i : BitVec 6)
  /-- c.ldw (R189). Compact signed 4-byte load on x8–x15. -/
  | cLdw (d a : BitVec 3) (u : BitVec 5)
  /-- c.stw (R189). Compact 4-byte store on x8–x15. -/
  | cStw (a b : BitVec 3) (u : BitVec 5)
  /-- c.beqz (R189). Compact branch if zero. -/
  | cBeqz (a : BitVec 5) (i : BitVec 6)
  /-- c.bnez (R189). Compact branch if not zero. -/
  | cBnez (a : BitVec 5) (i : BitVec 6)
  /-- c.j (R189). Compact jump. -/
  | cJ (o : BitVec 11)
  /-- c.jr (R189). Compact jump through a register. -/
  | cJr (a : BitVec 5)
  /-- c.safe (R189). Compact safe point with live mask n. -/
  | cSafe (n : BitVec 8)
  /-- MESSAGE_ARRIVAL (R27). An arriving message writes its payload, then dispatches a handler or decrements a counter. -/
  | messageArrival
  /-- HELD_DECREMENT (R33). After enable, one held decrement is applied per event-port cycle. -/
  | heldDecrement
  /-- TASK_START (R38). A free slot (and frame) takes the chosen ready task. -/
  | taskStart
  /-- CREATION_HOLD_RELEASE (R39). A task leaves the creation hold for its ready queue once there is room. -/
  | creationHoldRelease
  /-- TASK_PROMOTION (R40). A normal task ready for 65,536 cycles is promoted to urgent. -/
  | taskPromotion
  /-- EVICTED_TASK_READY (R49). An evicted task becomes ready again when its wait condition holds. -/
  | evictedTaskReady
  /-- STEAL_REQUEST (R43). An idle core sends a steal request to its next victim. -/
  | stealRequest
  /-- STEAL_BACKOFF (R43). After 31 refusals the 256-cycle wait expires and the rotation restarts. -/
  | stealBackoff
  /-- STEAL_HANDOVER (R44). The victim's deque port hands over its farthest stealable record or refuses. -/
  | stealHandover
  /-- REMOTE_ACCESS (R53). The owner's service slot performs a remote LM load, store or atomic. -/
  | remoteAccess
  /-- REMOTE_REPLY (R82). A load reply or store acknowledgement arrives and frees its outbound entry. -/
  | remoteReply
  /-- COMBINING_DRAIN_TIMEOUT (R71). A combining-buffer entry drains 1,024 cycles after its first store. -/
  | combiningDrainTimeout
  /-- PAGE_WALK_COMPLETE (R379). A page walk ends, installing a leaf or faulting every coalesced request. -/
  | pageWalkComplete
  /-- MEMORY_AGENT_REQUEST (R88). A home memory agent performs a line request or atomic. -/
  | memoryAgentRequest
  /-- WRITE_REPORT (R256). A watched line's write report makes a waiting core re-read. -/
  | writeReport
  /-- WAIT_TIMEOUT (R256). A WAITGE or CQWAIT re-reads after 4,096 cycles. -/
  | waitTimeout
  /-- CLAIM_GRANT (R267). The head of the octet's claim queue is granted when F ≥ 8. -/
  | claimGrant
  /-- VMEM_PERFORMED (R273). A vector memory or permute instruction is performed and the counter falls. -/
  | vmemPerformed
  /-- SFU_RESULT (R280). An SFU request's results are written 12 cycles after it leaves the queue. -/
  | sfuResult
  /-- MATRIX_SELECT (R169). The free matrix engine selects the next command by weighted rotation. -/
  | matrixSelect
  /-- OPERANDS_CONSUMED (R93). A matrix command has read its last A byte; its OIX descriptor acts. -/
  | operandsConsumed
  /-- MATRIX_COMPLETE (R289). A matrix command completes, updating jdone and performing its descriptor. -/
  | matrixComplete
  /-- COPY_TURN (R302). The copy unit takes one chunk of a FIFO's head request. -/
  | copyTurn
  /-- COPY_REQUEST_COMPLETE (R302). A copy request completes and leaves its FIFO. -/
  | copyRequestComplete
  /-- REMOTE_WRITE_PACKET (R408). A home memory agent writes an arrived remote-write packet and acknowledges it. -/
  | remoteWritePacket
  /-- WRITE_ACKNOWLEDGEMENT (R408). A remote-write packet's acknowledgement arrives at the copy unit. -/
  | writeAcknowledgement
  /-- BLOCK_REGENERATION (R134). The Infuser regenerates a view block: read, scale, convert, write, tag. -/
  | blockRegeneration
  /-- REGENERATION_COMPLETE (R135). A block's regeneration ends and its state and tag advance. -/
  | regenerationComplete
  /-- TOKEN_DECISION (R146). The Caddy decides an arriving token: deliver, hold or overflow. -/
  | tokenDecision
  /-- HELD_TOKEN_REDECISION (R146). Held tokens are decided again when a tag, V or outstanding count changes. -/
  | heldTokenRedecision
  /-- WINDOW_END (R152). A measurement window ends; load resets and a replica may retire. -/
  | windowEnd
  /-- VERSION_CHANGE (R144). The Caddy applies a keeper version change to an expert's V. -/
  | versionChange
  /-- PARTIAL_ARRIVAL (R156). A gradient partial reaches the owner Caddy and is checked and kept. -/
  | partialArrival
  /-- DCQ_RESERVATION (R161). A DCP reserves, writes and commits an entry at its queue tail. -/
  | dcqReservation
  /-- DOORBELL (R345). A host doorbell write gives a new host-queue tail. -/
  | doorbell
  /-- HOST_QUEUE_FETCH (R345). I/O die 0's fetched host-queue entries are committed into the DCQ. -/
  | hostQueueFetch
  /-- DCQ_NOP (R162). The DCP issues a NOP entry. -/
  | dcqNop
  /-- DCQ_LAUNCH (R164). The DCP executes a launch record: load, weight, arm, start. -/
  | dcqLaunch
  /-- DCQ_TILES (R339). The DCP starts one task per non-empty tile record. -/
  | dcqTiles
  /-- DCQ_COLLECTIVE_STEP (R166). The DCP sends a collective step's direct message. -/
  | dcqCollectiveStep
  /-- DCQ_WAIT (R166). The DCP waits for a timeline counter value. -/
  | dcqWait
  /-- DCQ_BRANCH (R167). The DCP waits on a result cell and issues or skips entries. -/
  | dcqBranch
  /-- DCQ_SIGNAL (R166). The DCP writes a host value and sends an MSI-X vector. -/
  | dcqSignal
  /-- DCQ_FENCE (R166). The DCP waits for earlier launches and signals, then releases. -/
  | dcqFence
  /-- DCQ_RESERVED_COMMAND (R375). An entry with a reserved code is consumed and DCQFAULT sent. -/
  | dcqReservedCommand
  /-- COMMAND_TLC_ADD (R164). After all tasks of a LAUNCH or TILES reach DONE, TLC rises by 1. -/
  | commandTlcAdd
  /-- TRAIL_ENTRY_START (R171). The Trail starts its head entry once all conditions hold. -/
  | trailEntryStart
  /-- TRAIL_ENTRY_COMPLETE (R171). All tasks of an entry reach DONE; a B entry frees its stash slot. -/
  | trailEntryComplete
  /-- TRAIL_POST_ARRIVAL (R341). A neighbour's post reaches the Trail: payload, then counter or GRAD. -/
  | trailPostArrival
  /-- SLOT_RETURN (R172). A slot return from the successor raises FREE. -/
  | slotReturn
  /-- BARRIER_ARRIVAL (R176). A barrier instance counts an arrival and completes the episode at N. -/
  | barrierArrival
  /-- BARRIER_REPLY (R262). The instance's reply with the arrival's episode reaches the core. -/
  | barrierReply
  /-- COMPLETION_MULTICAST (R262). A completion multicast updates done(g) on a core and ends waits. -/
  | completionMulticast
  /-- BARRIER_DONE_FLIT (R177). A fabric barrier's done flit arrives and completes the episode. -/
  | barrierDoneFlit
  /-- FLIT_RECEIVE (R397). A receiver checks a flit's CRC and sequence and accepts or discards it. -/
  | flitReceive
  /-- ACK_RECEIVE (R398). An acknowledge flit frees buffered flits. -/
  | ackReceive
  /-- NAK_RECEIVE (R399). A negative acknowledge frees flits and starts a replay. -/
  | nakReceive
  /-- ACK_TIMER (R398). An acknowledgement is due 256 cycles after an acceptance. -/
  | ackTimer
  /-- NAK_RESEND_TIMEOUT (R397). After 4,096 cycles in NAK state the NAK is sent again. -/
  | nakResendTimeout
  /-- REPLAY_TIMEOUT (R399). The oldest unacknowledged flit is replayed after 8,192 cycles. -/
  | replayTimeout
  /-- LANE_FAILURE (R401). A lane loses lock or errs and a retraining starts. -/
  | laneFailure
  /-- RETRAINING_END (R401). A retraining ends with a new width or DOWN, and NAKs are exchanged. -/
  | retrainingEnd
  /-- TRAINING_RETRY (R402). Firmware retries training of a DOWN port every 2^24 cycles. -/
  | trainingRetry
  /-- RETRAIN (R403). A PCTL[0] write retrains the port trying all 16 lanes. -/
  | retrain
  /-- HOLD (R403). A PCTL[1] write takes the port DOWN and keeps it there. -/
  | hold
  /-- FABRIC_HOP_FAILURE (R404). A module-fabric hop that cannot retrain halts every active realm. -/
  | fabricHopFailure
  /-- UNCORRECTABLE_ERROR (R382). An uncorrectable storage error poisons a word or halts the realm. -/
  | uncorrectableError
  /-- APERTURE_ACCESS (R344). A host read or write through a realm aperture, virtual or physical. -/
  | apertureAccess
  /-- CREATE (R348). RCMD CREATE assigns dies and initialises the realm. -/
  | create
  /-- HALT (R349). RCMD HALT stops issue and brings tasks to safe points. -/
  | halt
  /-- SAVE (R351). RCMD SAVE writes the realm image to host memory. -/
  | save
  /-- RESTORE (R352). RCMD RESTORE checks and loads a realm image. -/
  | restore
  /-- RESUME (R352). RCMD RESUME releases evicted tasks and restarts issue. -/
  | resume
  /-- DESTROY (R347). RCMD DESTROY releases the dies and erases the keys. -/
  | destroy
  /-- REALM_COMMAND_INVALID (R394). An unknown or invalid realm command sets error 0x01. -/
  | realmCommandInvalid
  /-- HALT_COMPLETE (R349). All halt steps have finished and the realm is HALTED. -/
  | haltComplete
  /-- SAVE_COMPLETE (R351). The image is written and the realm returns to HALTED. -/
  | saveComplete
  /-- RESTORE_COMPLETE (R352). Every section is loaded and the realm is HALTED. -/
  | restoreComplete
  /-- HALT_LIMIT (R393). HALTING reaches HLIM; remaining tasks are killed and the realm is inconsistent. -/
  | haltLimit
  /-- SAVE_LIMIT (R393). SAVING reaches HLIM and the image ends incomplete. -/
  | saveLimit
  /-- RESTORE_LIMIT (R393). RESTORING reaches 2^30 cycles and the realm returns to FREE. -/
  | restoreLimit
  /-- INVCTL_START (R354). An INVCTL[0] write starts a TLB invalidation of the INVVA leaf. -/
  | invctlStart
  /-- INVALIDATION_END (R354). A TLB invalidation ends once translated accesses are performed. -/
  | invalidationEnd
  /-- REGISTER_WRITE (R346). A host write to a control page or module register with no row of its own. -/
  | registerWrite
  /-- LTOL_WRITE (R356). A change of LTOL returns the module to D0. -/
  | ltolWrite
  /-- IDLE_POWER_ENTRY (R355). An idle module enters the deepest eligible power state. -/
  | idlePowerEntry
  /-- WAKE_EVENT (R356). A doorbell, host access, flit or command returns the module to D0. -/
  | wakeEvent
  /-- HOST_LINK_DOWN (R406). The host link goes down; device-to-host traffic is held. -/
  | hostLinkDown
  /-- HOST_LINK_RESTORED (R406). After re-enumeration held requests and pending vectors are sent. -/
  | hostLinkRestored
  /-- HOST_READ_TIMEOUT (R406). A device read without completion for 50 ms is reissued or counts as link loss. -/
  | hostReadTimeout
  /-- MGMT_REQUEST (R407). A PLDM request over the management port is served. -/
  | mgmtRequest
  /-- FIRMWARE_UPDATE (R358). A signed firmware image is checked and accepted for the next reset. -/
  | firmwareUpdate
  /-- GET_MEASUREMENTS (R359). An SPDM request returns the module's measurements. -/
  | getMeasurements
  /-- MODULE_RESET (R407). A module reset ends every realm and boots the firmware. -/
  | moduleReset
  /-- WDOG_STALL_LIMIT (R390). A die's stall count reaches WIN; WDPREEMPT and pre-emption. -/
  | wdogStallLimit
  /-- WDOG_T1_EXPIRY (R390). T1 elapses without progress; stop and kill, or report only. -/
  | wdogT1Expiry
  /-- WDOG_KILLS_COMPLETE (R390). Every watchdog kill completes and the die returns to quiet. -/
  | wdogKillsComplete
  /-- WDOG_T2_EXPIRY (R390). T2 elapses with kills incomplete; cores are fenced and the realm halts. -/
  | wdogT2Expiry
  /-- TRAP_RECORD_DISPATCH (R363). A fault record reaches the trap handler core and starts handler 0xEF. -/
  | trapRecordDispatch
  /-- SVC_DISPATCH (R368). An SVC message reaches the trap handler core and starts handler 0xEE. -/
  | svcDispatch
  /-- FLUSHING_READ_COMPLETE (R90). The completion of I/O die 0's flushing read arrives from the host, and the waiting .sys release write toward host memory is posted. -/
  | flushingReadComplete
  /-- CORRECTED_ERROR (R382). A SECDED-corrected storage error leaves the value unchanged and is counted in the per-die telemetry. -/
  | correctedError
  deriving DecidableEq, Repr

end Sys2Proof
end

