-- ==== Sys2Proof/Machine/State.lean ====
section
/-! DEFINITION. The state of an M640 (R11 to R22 and the chapters that name each piece): plain data. What is numbered is
held in sparse tables; keys put the realm id in front, so that what a realm owns is one range of each table. -/

namespace Sys2Proof.Machine

/-- Where an access lands (R53, R66). -/
inductive Loc where
  /-- LM of a core of the realm, by core id and offset. -/
  | lm (core off : Nat)
  /-- Device memory of this device: physical die, tier, offset; key serial; the leaf's M bit. -/
  | dev (pdie tier off key : Nat) (master : Bool)
  /-- A REMOTE page: device, its logical die, tier, offset, key id (R66, R68). -/
  | far (device fdie tier off key : Nat)
  deriving DecidableEq, Repr

/-- What a slot is waiting for. A waiting instruction is issued again until it can finish. -/
inductive Wait where
  /-- Nothing. -/
  | none
  /-- A resource: the instruction is tried again; no safe point (R247, R273, R280, R283, R297). -/
  | stall
  /-- The walk of a 4 KiB virtual page (R72). -/
  | walk (page : Nat)
  /-- That walk ended in a fault: code, DETAIL, INFO (R379). -/
  | walkFault (page code detail info : Nat)
  /-- The reply to outbound entry `id` (R53, R247). -/
  | load (id : Nat)
  /-- The reply has come. -/
  | loaded (id v : Nat)
  /-- A weak load whose request is still to be served, while that of the weak load after it has read `v` (R75, R81, R83). -/
  | early (v : Nat)
  /-- Nothing; the weak load that comes next has read `v`. -/
  | ahead (v : Nat)
  /-- The reply was a refusal: code, DETAIL, INFO, and the virtual address (R68, R383). -/
  | refused (id code detail info va : Nat)
  /-- MWAIT: matrix job j (R292). -/
  | job (j : BitVec 32)
  /-- RWAITF (FILL) or RWAITE (FREE): handle h, count n (R304). -/
  | ring (h : Nat) (free : Bool) (n : Nat)
  /-- VWSYNC: view and target version (R326). -/
  | vsync (view ver : Nat)
  /-- WAITGE, or CQWAIT where `cell` is set: a write to the watched line, or the time limit (R256, R336): the location, its
  address and the threshold. -/
  | watch (loc : Loc) (va thr : Nat) (cell : Bool)
  /-- The same, and the time has come to read again (R256, R336). -/
  | again (loc : Loc) (va thr : Nat) (cell : Bool)
  /-- VWRD waits in its slot for a tag that its policy accepts: view, block, version, and how far below it the policy that its
  request found accepts (R138, R325, R350). -/
  | vread (view blk ver lag : Nat)
  /-- The reply to a barrier arrival (R262); XGATE: where its list goes and how many entries (R313). -/
  | barReply (group : Nat) (gate : Option (Nat × Nat))
  /-- BARA: the reply to its arrival, in its slot (R262, R390). -/
  | bara (group : Nat)
  /-- Episode e was given; waiting for it (R262). -/
  | barWait (group e : Nat) (gate : Option (Nat × Nat))
  /-- The completion of episode e reached the slot, with the least election rank (R262). -/
  | barDone (group e rank : Nat)
  /-- In the octet's claim queue (R267). -/
  | claim (w : Nat)
  /-- The claim was granted (R267). -/
  | granted (w : Nat)
  /-- XJOIN of step s has been sent to the Caddy of a die for an expert (R315). -/
  | join (die xid s : Nat)
  /-- A unit's reply is awaited (R308). -/
  | unit
  /-- A reply has come: a unit's, or that to BARA (R262, R308). -/
  | answer (v : Word)
  /-- A trap has been detected, and its release waits (R361, R362): instruction length, code, DETAIL, ADDR, INFO, and CYCLE at
  the detection (R364). -/
  | dying (len code detail addr info cyc : Nat)
  deriving DecidableEq, Repr

/-- A task record (R41), or a task created and not yet started, with its entry values (R30). -/
structure TaskRec where
  /-- Handler index. -/
  hix : Nat := 0
  /-- Class: 1 urgent, 2 normal, 3 background. -/
  cls : Nat := 2
  /-- May be stolen. -/
  steal : Bool := false
  /-- x10 to x15 at start (R30). -/
  x10 : Word := 0#64
  /-- x11. -/
  x11 : Word := 0#64
  /-- x12. -/
  x12 : Word := 0#64
  /-- x13. -/
  x13 : Word := 0#64
  /-- x14. -/
  x14 : Word := 0#64
  /-- x15. -/
  x15 : Word := 0#64
  /-- The handler entry found at the dispatch lookup of a direct message (R27, R28). -/
  entry : Option Word := none
  /-- The launch, TILES command or Trail entry that counts this task's DONE. -/
  grp : Option Nat := none
  /-- Clock at which it became ready (R40). -/
  since : Nat := 0
  /-- Core that pushed the record (R30). -/
  pusher : Nat := 0
  /-- Scope code of the acquire that its start makes (R85, R168, R172). -/
  acq : Nat := 0
  deriving DecidableEq, Repr

/-- An item of a ready queue (R38). -/
inductive ReadyItem where
  /-- A task that has not started. -/
  | fresh (t : TaskRec)
  /-- An evicted task that is ready again: its frame, and the clock at which it became ready. -/
  | resumed (frame since : Nat)
  deriving DecidableEq, Repr

/-- A thread slot (R15, R37). -/
structure Slot where
  /-- A task runs here. -/
  busy : Bool := false
  /-- Its frame (R29). -/
  frame : Nat := 0
  /-- Program counter: an LM offset (R180). -/
  pc : Word := 0#64
  /-- Handler index. -/
  hix : Nat := 0
  /-- Class. -/
  cls : Nat := 2
  /-- Stealable, as the record said (R45). -/
  steal : Bool := false
  /-- The handler entry in force at the dispatch lookup (R28). -/
  entry : Word := 0#64
  /-- FRM (R108). -/
  frm : BitVec 2 := 0#2
  /-- FFLAGS (R111). -/
  fflags : BitVec 5 := 0#5
  /-- SAFECNT (R48). -/
  safecnt : Nat := 0
  /-- What it waits for. -/
  wait : Wait := .none
  /-- The launch or stage that counts its DONE. -/
  grp : Option Nat := none
  /-- Clock at which the present wait began (R256, R390). -/
  since : Nat := 0
  /-- What the task's release fences have lent to its later strong writes: 0 nothing, else one more than the widest scope code
  (R77). -/
  lent : Nat := 0
  /-- Offset in its core's LM, size and value of the task's latest weak access, since which it has touched registers alone: a weak load
  of the same bytes may be satisfied from it (R75, R83, log 131). -/
  kept : Option (Nat × Nat × Nat) := none
  /-- Floating-point instructions whose flags FFLAGS holds as a later read sees it, and which may not have completed: the clock at which
  each completes, its flags, and FFLAGS before it (R222, R237; the model's own, log 136). -/
  late : List (Nat × BitVec 5 × BitVec 5) := []
  deriving DecidableEq, Repr

/-- One element of an outstanding vector memory instruction (R272, R273). -/
structure VElem where
  /-- Vector register. -/
  reg : Nat
  /-- Element index. -/
  j : Nat
  /-- Where the access lands; none for a permute. -/
  loc : Option Loc := none
  /-- Its virtual address. -/
  va : Nat := 0
  /-- The value to write: a store's data, a permute's result. -/
  val : Word32 := 0#32
  /-- Its request to another core's service slot is on its way, under this outbound entry (R247, R272). -/
  sent : Option Nat := none
  deriving DecidableEq, Repr

/-- An outstanding VMEM or VPERM instruction of a claim (R273). -/
structure VOp where
  /-- Loads and permutes write registers; stores write memory. -/
  store : Bool
  /-- Elements not yet performed. -/
  elems : List VElem
  /-- Lines its reads have already requested (R73). -/
  lines : List Loc := []
  deriving DecidableEq, Repr

/-- A frame of the frame pool and what the core keeps for its task (R29, R45). -/
structure Frame where
  /-- A task owns it. -/
  used : Bool := false
  /-- The task is evicted. -/
  evicted : Bool := false
  /-- The evicted task is ready again and stands in its ready queue. -/
  ready : Bool := false
  /-- Handler index. -/
  hix : Nat := 0
  /-- Class. -/
  cls : Nat := 2
  /-- The entry in force (R28). -/
  entry : Word := 0#64
  /-- MJOB (R284). -/
  mjob : BitVec 32 := 0#32
  /-- Width of the lane claim, 0 without one (R265). -/
  width : Nat := 0
  /-- BASE of the claim in the pool (R269). -/
  base : Nat := 0
  /-- The units of 256 register entries that the claim holds (R17). -/
  units : List Nat := []
  /-- Outstanding vector memory instructions, oldest first (R273). -/
  vops : List VOp := []
  /-- What the evicted task waits for. -/
  wait : Wait := .none
  /-- The launch or stage that counts its DONE. -/
  grp : Option Nat := none
  /-- Clock at which the wait began. -/
  since : Nat := 0
  /-- What release fences have lent (R77). -/
  lent : Nat := 0
  deriving DecidableEq, Repr

/-- A trigger counter (R31). -/
structure Counter where
  /-- Value. -/
  value : BitVec 32 := 0#32
  /-- Reload. -/
  reload : BitVec 32 := 0#32
  /-- Repeat. -/
  rep : Bool := false
  /-- 0 UNBOUND, 1 ARMED, 2 PENDING-FIRE, 3 DISABLED. -/
  state : BitVec 2 := 0#2
  /-- Binding; while DISABLED, the remembered one. -/
  bind : Option TaskRec := none
  /-- Pending count p. -/
  p : Nat := 0
  /-- Held decrements. -/
  held : Nat := 0
  /-- Fire count. -/
  fires : BitVec 32 := 0#32
  /-- Excess flag. -/
  exc : Bool := false
  /-- Overflow flag. -/
  ovf : Bool := false
  /-- A zero crossing remembered from an arm with value 0 while DISABLED (R33). -/
  zero : Bool := false
  /-- Held decrements still to be applied after an enable (R33). -/
  owed : Nat := 0
  deriving DecidableEq, Repr

/-- A ring handle (R303). -/
structure Ring where
  /-- LM offset of slot 0. -/
  base : Nat := 0
  /-- Slot size in 64-byte units. -/
  slotsz : Nat := 0
  /-- Number of slots; 0 is undefined. -/
  count : Nat := 0
  /-- Filled slots. -/
  fill : Nat := 0
  /-- Free slots. -/
  free : Nat := 0
  /-- Next slot to consume. -/
  head : Nat := 0
  /-- Next slot to fill. -/
  tail : Nat := 0
  deriving DecidableEq, Repr

/-- A message on its way (R23). -/
structure Msg where
  /-- Realm id that the header carries. -/
  rid : Nat := 0
  /-- Sending device. -/
  sdev : Nat := 0
  /-- Sending core id. -/
  score : Nat := 0
  /-- Destination device, 0xFFF for this one. -/
  ddev : Nat := 0xFFF
  /-- Header word 0. -/
  h0 : Word := 0#64
  /-- Header word 1. -/
  h1 : Word := 0#64
  /-- Arguments. -/
  a0 : Word := 0#64
  /-- A1. -/
  a1 : Word := 0#64
  /-- A2. -/
  a2 : Word := 0#64
  /-- A3. -/
  a3 : Word := 0#64
  /-- Payload bytes (R23). -/
  payload : List Byte := []
  /-- Which 8-byte words of the payload are poisoned (R383). -/
  marks : List Nat := []
  /-- A remote-write packet: offsets in the payload whose bytes are not to be written (R302, R408, log 36). -/
  holes : List Nat := []
  /-- Outbound entry that it frees on arrival (R247). -/
  out : Option Nat := none
  /-- Scope code of a descriptor's decrement, which its event acquires (R85, R93). -/
  scope : Nat := 0
  /-- A post between Trails: receiving die, phase, micro-batch, sending die (R172, R332). -/
  post : Option (Nat × Nat × Nat × Nat) := none
  deriving DecidableEq, Repr

/-- An entry of the outbound queue (R247). -/
structure OutEnt where
  /-- Its number. -/
  id : Nat
  /-- Frame of the task that made it. -/
  frame : Nat
  /-- Payload bytes it holds. -/
  size : Nat := 0
  /-- A posted remote store (awaited by releases). -/
  store : Bool := false
  /-- Address of a queued store and its bytes (R82). -/
  addr : Nat := 0
  /-- The bytes. -/
  bytes : List Byte := []
  /-- The store goes to another device: its answer comes from outside (R249). -/
  far : Bool := false
  deriving DecidableEq, Repr

/-- An atomic operation (R250, R252). -/
inductive AmoOp where
  /-- swap -/
  | swap
  /-- add -/
  | add
  /-- and -/
  | and
  /-- or -/
  | or
  /-- xor -/
  | xor
  /-- signed lesser -/
  | min
  /-- signed greater -/
  | max
  /-- unsigned lesser -/
  | minz
  /-- unsigned greater -/
  | maxz
  /-- FP32 sum -/
  | fadd
  /-- FP32 lesser -/
  | fmin
  /-- FP32 greater -/
  | fmax
  /-- compare with the second operand, store the first -/
  | cas
  /-- CQPOST: VALUE becomes the operand and SEQ rises by 1 (R336) -/
  | post
  deriving DecidableEq, Repr

/-- What a remote LM access does at the owner's service slot (R53, R59). -/
inductive RemOp where
  /-- A load. -/
  | load
  /-- A posted store of these bytes. -/
  | store (bytes : List Byte)
  /-- An atomic with its operands. -/
  | amo (op : AmoOp) (v w : Nat)
  deriving DecidableEq, Repr

/-- A remote LM access in the network (R53). -/
structure RemReq where
  /-- Realm. -/
  rid : Nat
  /-- Requesting core. -/
  src : Nat
  /-- Its frame. -/
  frame : Nat
  /-- Outbound entry. -/
  id : Nat
  /-- Target core and offset. -/
  core : Nat
  /-- Offset. -/
  off : Nat
  /-- Access size in bytes. -/
  size : Nat
  /-- Operation. -/
  op : RemOp
  /-- Bytes of queued stores that replace the owner's in the reply, by offset (R82). -/
  fwd : List (Nat × Byte) := []
  /-- Its data met an uncorrectable error on the way: the word is poisoned where it lands (R382). -/
  mark : Bool := false
  /-- A vector element asks (R272). -/
  elem : Bool := false
  deriving DecidableEq, Repr

/-- Who waits for a line that a unit has asked another device for: a unit's event, or the instruction of a slot (R66, R383, log 135). -/
structure Asker where
  /-- The event; none: an instruction. -/
  ev : Option Instr
  /-- Realm. -/
  rid : Nat
  /-- Core. -/
  core : Nat
  /-- Die. -/
  die : Nat
  /-- Which of the agent's items, or the slot. -/
  idx : Nat
  /-- The second choice of the turn, or the program counter. -/
  sub : Nat
  /-- The address of a host access. -/
  at_ : Nat
  deriving DecidableEq, Repr

/-- A line that another device has supplied to a unit, until the event that asked for it is done (R383, log 135). -/
structure UnitLine where
  /-- Who asked. -/
  ask : Asker
  /-- Line number in the home's memory (the address / 64). -/
  tag : Nat
  /-- 0, or the code of the refusal (R68). -/
  code : Nat := 0
  /-- The bytes. -/
  data : List Byte := []
  /-- Its poisoned 8-byte words (R383). -/
  marks : List Nat := []
  deriving DecidableEq, Repr

/-- A request to a REMOTE page, leaving through the scale-up ports (R66, R68). -/
structure FarReq where
  /-- Realm id. -/
  rid : Nat
  /-- Requesting core. -/
  core : Nat
  /-- Number that the answer names. -/
  id : Nat
  /-- Device, die, tier, offset and key id. -/
  loc : Loc
  /-- Virtual address. -/
  va : Nat
  /-- Access size in bytes. -/
  size : Nat
  /-- Operation. -/
  op : RemOp
  /-- The enabled bytes of a drained line, by offset; empty for other requests. -/
  bytes : List (Nat × Byte) := []
  /-- It has left through a port (R66, R402, R410). -/
  sent : Bool := false
  /-- A weak load asks for the whole line (R70); the value lies in it. -/
  line : Bool := false
  /-- The core's own bytes that replace the line's, by offset in the line (R71, R82). -/
  fwd : List (Nat × Byte) := []
  /-- Poisoned words of a drained line (R382). -/
  marks : List Nat := []
  /-- The copy request of the core's FIFO that asks, by the number of its place since the core's first (R299, R301). -/
  copy : Option Nat := none
  /-- The vector element that a load writes: register and element (R272). -/
  vel : Option (Nat × Nat) := none
  /-- Frame of the requesting task. -/
  frame : Nat := 0
  /-- An engine or a unit asked, by its number in UNITMEM (R377), or the host through an aperture (6): nobody waits for the value. -/
  unit : Option Nat := none
  /-- A unit's event, or an instruction's read through a unit, waits for the line (R66, log 135). -/
  ask : Option Asker := none
  deriving DecidableEq, Repr

/-- A reply to a remote access (R82). -/
structure Reply where
  /-- Realm. -/
  rid : Nat
  /-- Requesting core. -/
  core : Nat
  /-- Outbound entry. -/
  id : Nat
  /-- Value read. -/
  val : Nat := 0
  /-- 0, or the fault code of a refusal (R68, R383). -/
  code : Nat := 0
  /-- DETAIL of the refusal. -/
  detail : Nat := 0
  /-- A vector element asked: its frame (R272). -/
  elem : Option Nat := none
  deriving DecidableEq, Repr

/-- A line of the combining buffer (R71). -/
structure CbEnt where
  /-- Where the line lies (offset of its first byte). -/
  loc : Loc
  /-- Virtual address of the line. -/
  va : Nat
  /-- Enabled bytes by offset in the line. -/
  bytes : List (Nat × Byte)
  /-- Clock of its first store. -/
  born : Nat
  /-- Words that left poisoned (R382). -/
  marks : List Nat := []
  deriving DecidableEq, Repr

/-- A request on its way to a home memory agent (R88). -/
structure AgentReq where
  /-- Realm. -/
  rid : Nat
  /-- Sending core. -/
  core : Nat
  /-- Where the first byte lies. -/
  loc : Loc
  /-- Virtual address of the line. -/
  va : Nat
  /-- Enabled bytes by offset from the location. -/
  bytes : List (Nat × Byte)
  /-- Poisoned words of a drain. -/
  marks : List Nat := []
  deriving DecidableEq, Repr

/-- A leaf held in a TLB (R64, R65, R72). -/
structure TlbEnt where
  /-- First virtual address of the page. -/
  base : Nat
  /-- Page size in bytes. -/
  size : Nat
  /-- The leaf entry (for a 64 KiB group, its first). -/
  leaf : Word
  /-- Memory address of the leaf entry. -/
  pte : Nat
  /-- Parts (of a group) whose A bit this TLB knows to be set. -/
  aset : List Nat := []
  /-- Parts whose D bit it knows to be set. -/
  dset : List Nat := []
  deriving DecidableEq, Repr

/-- A line of the cluster cache (R70). -/
structure CLine where
  /-- Memory address of its first byte. -/
  addr : Nat
  /-- Its 64 bytes. -/
  data : List Byte
  /-- Words that came poisoned from another device (R383). -/
  marks : List Nat := []
  deriving DecidableEq, Repr

/-- A page walk in progress (R72). -/
structure Walk where
  /-- Virtual page. -/
  page : Nat
  /-- Clusters of the die whose misses it takes, by index. -/
  clusters : List Nat
  /-- The access of each miss: cluster index and kind, 1 read, 2 write, 3 both (R69, R379). -/
  kinds : List (Nat × Nat) := []
  /-- The leaf it has found, where a unit of the die has already taken its result (R379). -/
  leaf : Option TlbEnt := none
  /-- The fault it has found: code, DETAIL, INFO. -/
  fault : Option (Nat × Nat × Nat) := none
  deriving DecidableEq, Repr

/-- A matrix command in a core's queue (R283). -/
inductive MCmd where
  /-- MMA or MMAB: pair, accumulator format, tile, A base offset, control word, scale bits, block scaled. -/
  | mma (pair acc tile a : Nat) (ctl : Word) (sa sb : Nat) (blk : Bool)
  /-- ZCLR: form and tile. -/
  | zclr (form tile : Nat)
  /-- ZLD: form, tile, source offset. -/
  | zld (form tile src : Nat)
  /-- ZST: form, tile, destination offset, format, rounding code, saturating, seed. -/
  | zst (form tile dst dfmt rm : Nat) (sat : Bool) (seed : Word32)
  /-- WLD: kind 0 plain, 1 XPB-E4, 2 XPB-E5; buffer; source, offset array and scale offsets. -/
  | wld (kind buf src offs : Nat) (scale : Option Nat)
  deriving DecidableEq, Repr

/-- A matrix command with its job id and captured descriptors (R284, R296). -/
structure MJob where
  /-- Command. -/
  cmd : MCmd
  /-- Job id. -/
  job : BitVec 32
  /-- Completion descriptor, 0 where CEN is 0. -/
  cdesc : Word := 0#64
  /-- Operands-consumed descriptor, 0 where OEN is 0. -/
  odesc : Word := 0#64
  /-- Index of the completion descriptor. -/
  cix : Nat := 0
  /-- Index of the operands-consumed descriptor. -/
  oix : Nat := 0
  /-- Operands have been read. -/
  consumed : Bool := false
  /-- 64-byte chunks of LM that the engine has read for it so far: number, bytes, and which of their words are poisoned (R96). -/
  got : List (Nat × List Byte × List Nat) := []
  /-- The operand bytes read: A rows and A scales. -/
  aBytes : List Byte := []
  /-- Fault found while reading operands: cause and address. -/
  fail : Option (Nat × Nat) := none
  deriving DecidableEq, Repr

/-- A remote-write packet that a copy request is filling (R408). -/
structure Packet where
  /-- Home of its first byte, on another device. -/
  loc : Loc
  /-- Virtual address of its first byte. -/
  va : Nat
  /-- Chunk index of its first chunk. -/
  tag : Nat
  /-- Payload. -/
  bytes : List Byte
  /-- Poisoned 8-byte words of the payload. -/
  marks : List Nat := []
  /-- Offsets in the payload at which the request places no byte (R302). -/
  holes : List Nat := []
  deriving DecidableEq, Repr

/-- A copy request in a core's FIFO (R297, R298). -/
structure CopyReq where
  /-- w0. -/
  w0 : Word
  /-- w1. -/
  w1 : Word
  /-- w2. -/
  w2 : Word
  /-- w3. -/
  w3 : Word
  /-- Captured completion descriptor (R296). -/
  desc : Word := 0#64
  /-- The layout record, once read (R299). -/
  lay : Option (List Byte) := none
  /-- Every element move before this index has been taken. -/
  pos : Nat := 0
  /-- The 64-byte blocks whose chunks have been taken. -/
  blocks : List Nat := []
  /-- Chunks taken. -/
  chunks : Nat := 0
  /-- Every chunk has been taken, or the request was aborted. -/
  taken : Bool := false
  /-- It was aborted (R380). -/
  aborted : Bool := false
  /-- What the bytes that it has written held before, by memory address (R301). -/
  undo : List (Nat × Byte) := []
  /-- The open remote-write packet (R408). -/
  pkt : Option Packet := none
  /-- Remote-write packets not yet acknowledged: tag, virtual address, and the device that writes them (R408). -/
  unacked : List (Nat × Nat × Nat) := []
  /-- Its number among the core's requests. -/
  num : Nat := 0
  /-- Lines that another device has supplied for the chunk in hand: tag, bytes, poisoned words (R68, R301). -/
  got : List (Nat × List Byte × List Nat) := []
  /-- Lines that another device has refused: tag and code (R68). -/
  refused : List (Nat × Nat) := []
  /-- Lines asked for and not answered, by tag. -/
  asked : List Nat := []
  /-- Chunks that the unit has taken and whose reads are still to be performed: they are in flight (R16, R302). -/
  ahead : Nat := 0
  /-- Lines that the chunk in hand has requested (R73). -/
  counted : List Loc := []
  deriving DecidableEq, Repr

/-- Requests to a core's event port that wait behind a full creation hold (R39). -/
inductive PortEv where
  /-- One decrement of a counter. -/
  | dec (c : Nat)
  /-- A dispatch lookup of a direct message. -/
  | dispatch (m : Msg)
  /-- A ring advance by a descriptor: handle, consumer, descriptor index. -/
  | ring (h : Nat) (consumer : Bool) (dix : Nat)
  /-- A task of an event that has taken effect, whose creation waits for room. -/
  | create (t : TaskRec)
  deriving DecidableEq, Repr

/-- What a core holds beside its registers and tables (R15). -/
structure CoreSt where
  /-- INSTRET (R193). -/
  instret : Nat := 0
  /-- SRSEED (R193). -/
  srseed : Word32 := 0#32
  /-- Job counter (R284). -/
  jobs : BitVec 32 := 0#32
  /-- jdone (R284). -/
  jdone : BitVec 32 := 0#32
  /-- AJ, the abort id (R374). -/
  aj : BitVec 32 := 0#32
  /-- The abort flag (R374). -/
  ajSet : Bool := false
  /-- Fault records sent (R364). -/
  fseq : Nat := 0
  /-- Ready queue of class urgent (R38). -/
  urgent : List ReadyItem := []
  /-- Ready queue of class normal. -/
  normal : List ReadyItem := []
  /-- Ready queue of class background. -/
  backgr : List ReadyItem := []
  /-- The creation hold (R39). -/
  hold : List TaskRec := []
  /-- The unclaimed-message queue (R35, R411). -/
  unclaimed : List TaskRec := []
  /-- Task deque, owner end last (R42). -/
  deque : List TaskRec := []
  /-- Records in the spill area (R42). -/
  spilled : Nat := 0
  /-- The cores that pushed them, oldest first (R30, log 25). -/
  spillBy : List Nat := []
  /-- Combining buffer, oldest first (R71). -/
  cbuf : List CbEnt := []
  /-- Outbound queue, oldest first (R247). -/
  outq : List OutEnt := []
  /-- Number of the next outbound entry. -/
  outNext : Nat := 0
  /-- Events waiting at the event port (R39). -/
  evq : List PortEv := []
  /-- The counter whose held decrements are being applied after an enable (R33). -/
  owing : Option Nat := none
  /-- Matrix command queue, oldest first (R283). -/
  mq : List MJob := []
  /-- Copy-request FIFO, oldest first (R297). -/
  fifo : List CopyReq := []
  /-- A steal request is out: the victim's cluster position (R43). -/
  stealTo : Option Nat := none
  /-- Refusals in this rotation (R43). -/
  refusals : Nat := 0
  /-- Clock until which it waits after a full rotation (R43). -/
  backoff : Nat := 0
  /-- Watchdog: fenced (R390). -/
  fenced : Bool := false
  /-- The slot that issued last; 8 is the service slot (R37). -/
  issued : Nat := 7
  /-- Copy requests accepted so far. -/
  copies : Nat := 0
  /-- What the core's engines wait for: the engine's request, the virtual page whose walk it needs, and the kind of access (R72). -/
  engPend : List (Nat × Nat × Nat) := []
  /-- Requests whose walk ended in a fault: the request, the page, code, DETAIL, INFO (R379). -/
  engFault : List (Nat × Nat × Nat × Nat × Nat) := []
  deriving DecidableEq, Repr

/-- A waiting lane claim (R267). -/
structure ClaimReq where
  /-- Core. -/
  core : Nat
  /-- Frame. -/
  frame : Nat
  /-- Requested width. -/
  width : Nat
  deriving DecidableEq, Repr

/-- A request in the SFU queue, with its results (R280). -/
structure SfuReq where
  /-- Core. -/
  core : Nat
  /-- Frame. -/
  frame : Nat
  /-- Destination register. -/
  reg : Nat
  /-- Element and result. -/
  res : List (Nat × Word32)
  /-- The claim's task was killed: pass without writing (R371). -/
  dead : Bool := false
  /-- Width that returns to F when this request leaves: the claim of a killed task (R371). -/
  frees : Nat := 0
  /-- The units of register entries that return with it (R17). -/
  units : List Nat := []
  deriving DecidableEq, Repr

/-- The engines of an octet (R16). -/
structure OctetSt where
  /-- Claim queue (R267). -/
  claims : List ClaimReq := []
  /-- SFU queue, oldest first (R280). -/
  sfu : List SfuReq := []
  /-- Arbiter: octet position whose turn it is (R169). -/
  arb : Nat := 7
  /-- Commands taken in that turn (R169). -/
  arbTaken : Nat := 0
  /-- Arbitration weights by octet position (R169). -/
  weights : List Nat := [1, 1, 1, 1, 1, 1, 1, 1]
  /-- Octet position whose head command runs (R283). -/
  running : Option Nat := none
  /-- Copy unit: octet position served last (R302). -/
  copyLast : Nat := 7
  deriving DecidableEq, Repr

/-- A cluster's translation unit and cache (R18, R70, R72). -/
structure ClusterSt where
  /-- TLB. -/
  tlb : List TlbEnt := []
  /-- Cluster cache. -/
  cache : List CLine := []
  deriving DecidableEq, Repr

/-! ### Barriers (R175 to R177, R262) -/

/-- An entry of a gate list: FP32 score and expert id (R151). -/
structure GateEnt where
  /-- Score, FP32 bits. -/
  score : Nat
  /-- Expert id. -/
  xid : Nat
  deriving DecidableEq, Repr

/-- A barrier instance (R176). -/
structure BarInst where
  /-- Members counted. -/
  count : Nat := 0
  /-- Episode number. -/
  episode : BitVec 32 := 0#32
  /-- Least election rank. -/
  rank : Nat := 0xFFFFFF
  /-- N, read at the first arrival of the episode (R175). -/
  n : Nat := 0
  /-- PORT, of the same reading. -/
  port : Nat := 0
  /-- Merged gate list and the least K of the lists (R313). -/
  list : Option (Nat × List GateEnt) := none
  /-- Scope `.fab`: the arrive flit has been sent (R177). -/
  sent : Bool := false
  deriving DecidableEq, Repr

/-- An arrival on its way to its instance (R176). -/
structure BarArr where
  /-- Realm. -/
  rid : Nat
  /-- Arriving core. -/
  core : Nat
  /-- Its frame. -/
  frame : Nat
  /-- Group. -/
  group : Nat
  /-- Scope. -/
  scope : Nat
  /-- Rank of an election; none otherwise. -/
  elect : Option Nat := none
  /-- K and the contributed list of XGATE. -/
  gates : Option (Nat × List GateEnt) := none
  /-- The descriptor as the issuing core read it. -/
  desc : Nat := 0
  deriving DecidableEq, Repr

/-- The reply to an arrival (R262). -/
structure BarRep where
  /-- Realm. -/
  rid : Nat
  /-- Core. -/
  core : Nat
  /-- Frame. -/
  frame : Nat
  /-- Group. -/
  group : Nat
  /-- The arrival's episode. -/
  episode : BitVec 32
  deriving DecidableEq, Repr

/-- A completion on its way to the cores of its instance (R176). -/
structure BarDone where
  /-- Realm. -/
  rid : Nat
  /-- Group. -/
  group : Nat
  /-- Scope. -/
  scope : Nat
  /-- A core of the instance. -/
  at_ : Nat
  /-- Episode. -/
  episode : BitVec 32
  /-- Least election rank. -/
  rank : Nat
  /-- Merged gate list. -/
  list : List GateEnt := []
  /-- K of that list. -/
  k : Nat := 0
  /-- Cores that it has reached. -/
  served : List Nat := []
  deriving DecidableEq, Repr

/-! ### Views (R127 to R141) -/

/-- The settings of a view that a regeneration uses (R325). -/
structure ViewCfg where
  /-- Per-tensor scale, FP32 bits. -/
  scale : Nat := 0
  /-- RND: stochastic. -/
  sr : Bool := false
  /-- SEED. -/
  seed : Nat := 0
  deriving DecidableEq, Repr

/-- A registered view. -/
structure ViewSt where
  /-- The id names a view. -/
  used : Bool := false
  /-- Die, expert id and slot of the replica it serves, for a replica view (R140). -/
  replica : Option (Nat × Nat × Nat) := none
  /-- MASTER. -/
  master : Nat := 0
  /-- MFMT. -/
  mfmt : Nat := 0
  /-- VFMT. -/
  vfmt : Nat := 0
  /-- SMODE. -/
  smode : Nat := 0
  /-- POL. -/
  pol : Nat := 0
  /-- LAGK. -/
  lagk : Nat := 0
  /-- BLOG. -/
  blog : Nat := 0
  /-- TLC. -/
  tlc : Nat := 0
  /-- TAGS. -/
  tags : Nat := 0
  /-- PKIND. -/
  pkind : Nat := 0
  /-- PMAP; for a replica view PBASE. -/
  pmap : Nat := 0
  /-- Extents of the master's dimensions (R130). -/
  ext : List Nat := []
  /-- Strides of dimensions 1 to 3. -/
  span : List Word := []
  /-- Master dimension of each view dimension. -/
  perm : List Nat := []
  /-- SWZ. -/
  swz : Nat := 0
  /-- Number of blocks. -/
  nblk : Nat := 0
  /-- Settings in force. -/
  cfg : ViewCfg := {}
  /-- Publishes since registration whose timeline add is still to come, in publish order (R137). -/
  adds : List Nat := []
  /-- It is dropped as soon as no regeneration is in progress (R141, R153). -/
  dropping : Bool := false
  /-- Memory granules of 4 KiB that hold the master, with the virtual page of each (R132). -/
  marks : List (Nat × Nat) := []
  deriving DecidableEq, Repr

/-- State of a view block (R135). -/
inductive BlkSt where
  /-- UNSET. -/
  | unset
  /-- CLEAN. -/
  | clean
  /-- DIRTY. -/
  | dirty
  /-- REGEN. -/
  | regen
  /-- POISONED. -/
  | poisoned
  deriving DecidableEq, Repr

/-- A view block. -/
structure VBlock where
  /-- State. -/
  st : BlkSt := .unset
  /-- Target version. -/
  target : Nat := 0
  /-- again. -/
  again : Bool := false
  /-- Dirty bit of a POISONED block. -/
  dirty : Bool := false
  /-- Publishes whose regeneration sets it entered and that are not yet done. -/
  sets : List Nat := []
  /-- Version that is being regenerated. -/
  cur : Nat := 0
  /-- Settings of the target's publish. -/
  tcfg : ViewCfg := {}
  /-- Settings of the version that is being regenerated. -/
  ccfg : ViewCfg := {}
  /-- Its elements and scales have been written: whether that failed, and with what. -/
  wrote : Option (Option (Nat × Nat)) := none
  /-- Tag last stored. -/
  tag : Nat := 0xFFFFFFFE
  deriving DecidableEq, Repr

/-- A master tensor (R131). -/
structure MasterSt where
  /-- Logical die of the keeper; none: no view names it. -/
  keeper : Option Nat := none
  /-- Version. -/
  version : Nat := 0
  deriving DecidableEq, Repr

/-! ### Experts (R142 to R157) -/

/-- A replica slot (R145). -/
structure RepSlot where
  /-- 0 UNUSED, 1 CREATING, 2 READY, 3 RETIRING, 4 RETIRED. -/
  st : Nat := 0
  /-- Candidate index. -/
  cand : Nat := 0
  /-- View id. -/
  vid : Nat := 0
  /-- Version at creation. -/
  at_ : Nat := 0
  /-- Outstanding count. -/
  out : Nat := 0
  deriving DecidableEq, Repr

/-- A candidate entry (R143). -/
structure Cand where
  /-- CORE. -/
  core : Nat := 0
  /-- RING. -/
  ring : Nat := 0
  /-- PBASE. -/
  pbase : Nat := 0
  /-- TAGS. -/
  tags : Nat := 0
  /-- Tokens delivered to it since XREG (R148). -/
  sent : Nat := 0
  deriving DecidableEq, Repr

/-- A gradient partial that has arrived (R156). -/
structure Part where
  /-- VA of its array. -/
  va : Nat
  /-- Tile index or token count. -/
  ix : Nat
  deriving DecidableEq, Repr

/-- A directory entry of a Caddy (R145). -/
structure Expert where
  /-- The entry is installed. -/
  used : Bool := false
  /-- DMODE. -/
  det : Bool := false
  /-- CHOICE. -/
  hash : Bool := false
  /-- OVF. -/
  ovfNext : Bool := false
  /-- CTN. -/
  ctn : Nat := 0
  /-- PLEN. -/
  plen : Nat := 0
  /-- CAP. -/
  cap : Nat := 0
  /-- WIN of the window that runs, and of the next. -/
  win : Nat := 0
  /-- WIN of the windows after it. -/
  winNext : Nat := 0
  /-- RTH. -/
  rth : Nat := 0
  /-- CTH. -/
  cth : Nat := 0
  /-- NEXTX. -/
  nextx : Nat := 0
  /-- SEED. -/
  seed : Nat := 0
  /-- TLC. -/
  tlc : Nat := 0
  /-- TLIST. -/
  tlist : Nat := 0
  /-- TREC. -/
  trec : Nat := 0
  /-- GBUF. -/
  gbuf : Nat := 0
  /-- The view registration record, as read (R144). -/
  vrec : List Byte := []
  /-- Number of master elements (R156). -/
  nel : Nat := 0
  /-- Candidate table. -/
  cands : List Cand := []
  /-- V. -/
  v : Nat := 0
  /-- Version changes of the keeper on their way, in publish order. -/
  vq : List Nat := []
  /-- Load of the window. -/
  load : Nat := 0
  /-- Clock at which the window began. -/
  winAt : Nat := 0
  /-- Routing for V is closed. -/
  closed : Bool := false
  /-- The join of V is complete. -/
  joined : Bool := false
  /-- Replica slots 0 to 15. -/
  slots : List RepSlot := []
  /-- Tokens delivered in step V: token id, k-rank, slot. -/
  toks : List (Nat × Nat × Nat) := []
  /-- N of step V, once closed. -/
  tiles : Nat := 0
  /-- Partials kept for step V, in arrival order. -/
  parts : List Part := []
  /-- XJOIN requests: core, frame, step (R315). -/
  waiters : List (Nat × Nat × Nat) := []
  deriving DecidableEq, Repr

/-- A token (R146). -/
structure Token where
  /-- Expert id. -/
  xid : Nat
  /-- TID. -/
  tid : Nat
  /-- GW. -/
  gw : Nat
  /-- KRANK. -/
  krank : Nat
  /-- USER. -/
  user : Word
  /-- Payload, with the poisoned words. -/
  data : List Byte
  /-- Poisoned words of the payload. -/
  marks : List Nat := []
  /-- Sending core. -/
  core : Nat
  /-- ROFF. -/
  roff : Nat
  /-- RCTR. -/
  rctr : Nat
  /-- Overflow hops. -/
  hops : Nat := 0
  deriving DecidableEq, Repr

/-- A request on its way to a Caddy (R308). -/
inductive CadReq where
  /-- A token. -/
  | token (t : Token) (out : Nat)
  /-- A partial: expert, core, VA, step, index or count. -/
  | part (xid core va step ix : Nat) (out : Nat)
  deriving DecidableEq, Repr

/-! ### The Trail (R170 to R174) -/

/-- A Trail. -/
structure TrailSt where
  /-- An STGDEF has succeeded. -/
  defined : Bool := false
  /-- RUNNING. -/
  running : Bool := false
  /-- It was RUNNING at the HALT (R352), or it was stopped by the watchdog (R390). -/
  again : Bool := false
  /-- Stopped by the watchdog until the next RESUME (R390). -/
  stopped : Bool := false
  /-- LOOP. -/
  loop : Bool := false
  /-- FREE0. -/
  free0 : Nat := 0
  /-- FREE. -/
  free : Nat := 0
  /-- PF. -/
  pf : Nat := 0
  /-- NENT. -/
  nent : Nat := 0
  /-- NSLOT. -/
  nslot : Nat := 0
  /-- SLOTB. -/
  slotb : Nat := 0
  /-- STASH. -/
  stash : Nat := 0
  /-- Stage entries: low word and ARG. -/
  entries : List (Word × Word) := []
  /-- Stage core sets. -/
  sets : List Nat := []
  /-- GRAD: the micro-batches whose bit is set, in rising order. -/
  grad : List Nat := []
  /-- Occupied stash slots, in rising order. -/
  occ : List Nat := []
  /-- Head position. -/
  head : Nat := 0
  /-- Entries started since the last STGDEF. -/
  started : List Nat := []
  /-- Entries posted since their start. -/
  posted : List Nat := []
  /-- Entries started and not complete: entry and task group. -/
  open_ : List (Nat × Nat) := []
  /-- F entries started since STGGO (R173). -/
  fcount : Nat := 0
  /-- Slots that an F entry since STGGO has filled. -/
  filled : List Nat := []
  /-- Event counts of WAIT_INPUT, WAIT_FREE, WAIT_STASH. -/
  evs : List Nat := [0, 0, 0]
  /-- Their cycle counts. -/
  cycs : List Nat := [0, 0, 0]
  /-- Cycles the head entry has waited, by reason. -/
  waits : List Nat := [0, 0, 0]
  /-- Records written to the bubble log since STGGO. -/
  logn : Nat := 0
  /-- The bubble log, by ring position. -/
  log : Tab Nat := []
  deriving DecidableEq, Repr

/-! ### The die command processor (R160 to R168) -/

/-- A LAUNCH request on its way to a DCP (R335). -/
structure DcqReq where
  /-- Core. -/
  core : Nat
  /-- Frame. -/
  frame : Nat
  /-- The 64 bytes. -/
  data : List Byte
  deriving DecidableEq, Repr

/-- A die command queue. -/
structure DcqSt where
  /-- Next position to reserve. -/
  tail : Nat := 0
  /-- Next position to issue. -/
  head : Nat := 0
  /-- Positions committed as consumed entries (R161). -/
  dead : List Nat := []
  /-- Reservations that have not reached the DCP. -/
  reqs : List DcqReq := []
  /-- The entry at the head, as read at issue. -/
  cur : Option (List Byte) := none
  /-- How far its issue has come: cores or records done. -/
  prog : Nat := 0
  /-- How many writes of the load of its image are done (R221). -/
  loaded : Nat := 0
  /-- The task group of that entry. -/
  grp : Nat := 0
  /-- It waits for the completion of a flushing read (R90). -/
  flush : Bool := false
  /-- Entries that a BRANCH still consumes (R167). -/
  skip : Nat := 0
  /-- Stopped by the watchdog until the next RESUME (R390). -/
  stopped : Bool := false
  /-- The host queue's tail, as the last doorbell gave it (R345). -/
  htail : Nat := 0
  /-- That doorbell's entries have not all been fetched (R345). -/
  bell : Bool := false
  deriving DecidableEq, Repr

/-! ### Scale-up ports (R178, R396 to R403) -/

/-- A scale-up port. -/
structure PortSt where
  /-- 0 DOWN, 1 TRAINING, 2 UP. -/
  state : Nat := 0
  /-- MODE: ESQ. -/
  esq : Bool := false
  /-- LANES. -/
  lanes : Nat := 0
  /-- FAILED. -/
  failed : Nat := 0
  /-- VEC. -/
  vec : Nat := 0
  /-- HOLD. -/
  hold : Bool := false
  /-- CRCERR. -/
  crcerr : Word := 0#64
  /-- NAKTX. -/
  naktx : Word := 0#64
  /-- NAKRX. -/
  nakrx : Word := 0#64
  /-- REPLAYS. -/
  replays : Word := 0#64
  /-- RETRAINS. -/
  retrains : Word := 0#64
  /-- NEXT: the next sequence number to send. -/
  next : Nat := 0
  /-- E: the next sequence number expected. -/
  e : Nat := 0
  /-- Retry buffer: sequence number, KIND and data bytes, oldest first. -/
  buf : List (Nat × Nat × List Byte) := []
  /-- In NAK state since this clock. -/
  nak : Option Nat := none
  /-- Flits accepted since the last acknowledgement. -/
  fresh : Nat := 0
  /-- Clock of the first of them. -/
  ackAt : Nat := 0
  /-- Replays begun at the oldest flit's number without an acknowledgement advancing. -/
  tries : Nat := 0
  /-- The number at which they began. -/
  triesAt : Nat := 0
  /-- Clock since which the oldest flit has been unacknowledged. -/
  since : Nat := 0
  /-- After a retraining: the partner's NAK has not arrived (R401). -/
  await : Bool := false
  /-- The port was DOWN before the training that runs (R402). -/
  wasDown : Bool := true
  /-- The training that runs was asked for by PCTL[0] (R401). -/
  asked : Bool := false
  /-- Clock at which it went DOWN, or at which the training began. -/
  at_ : Nat := 0
  /-- Single flits (KIND 5) that wait to be sent. -/
  singles : List (Nat × List Byte) := []
  /-- Bytes of a message accepted in part (R409). -/
  rx : List Byte := []
  /-- Words of those bytes that carry a poison mark (R383). -/
  rxMarks : List Nat := []
  /-- Sequenced flits of what the port has begun to send, which have not left yet: KIND, NDATA and data (R396, R409). -/
  tx : List (Nat × Nat × List Byte) := []
  /-- The message whose flits those are (R68, R409). -/
  txMsg : Option Msg := none
  /-- Flits at the end of the retry buffer that the replay in progress has still to send again (R399). -/
  back : Nat := 0
  /-- The number named by the NAK that began the replay in progress (R399). -/
  backAt : Option Nat := none
  /-- It has accepted a sequenced flit since module reset (R403). -/
  heard : Bool := false
  /-- It has sent a sequenced flit since module reset. -/
  begun : Bool := false
  /-- It has been UP since module reset: its mode is chosen (R178, R401). -/
  wasUp : Bool := false
  /-- Data words that carry a poison mark in the sequenced flits last sent, by number: they cross the link beside the flit (R382,
  R383, log 44). -/
  marks : List (Nat × List Nat) := []
  deriving DecidableEq, Repr

/-- An answer that leaves toward another device (R68): a format that the manual does not give. -/
structure FarAns where
  /-- Device. -/
  dev : Nat
  /-- Realm. -/
  rid : Nat
  /-- The asking core. -/
  core : Nat
  /-- 0 performed; refused: 1 key, 2 no realm, 3 no such die or core, 4 poisoned. -/
  code : Nat
  /-- The value read. -/
  val : Nat := 0
  /-- Words of a line read that carry a poison mark (R383). -/
  marks : List Nat := []
  /-- It has left through a port (R402, R410). -/
  sent : Bool := false
  deriving DecidableEq, Repr

/-- A read of host memory that the device has issued (R90, R345, R406). -/
structure HostRd where
  /-- The flushing read of a DCP; otherwise a host-queue fetch. -/
  flush : Bool
  /-- Realm. -/
  rid : Nat
  /-- Logical die. -/
  die : Nat
  /-- Clock of its issue. -/
  at_ : Nat
  /-- It has been issued again. -/
  again : Bool := false
  deriving DecidableEq, Repr

/-- Per-die state of a realm: memory counters, page walks and the units of R14. -/
structure DieSt where
  /-- Clock at the realm's creation on the die: CYCLE counts from here (R193). -/
  base : Nat := 0
  /-- CYCLE as a restored image brought it (R352). -/
  carry : Nat := 0
  /-- CYCLE stands still: the realm was restored and has not been resumed (R352). -/
  frozen : Bool := false
  /-- MEMRD_LOCAL (R73). -/
  rdLocal : Word := 0#64
  /-- MEMRD_REMOTE. -/
  rdRemote : Word := 0#64
  /-- MEMRD_SERVED. -/
  rdServed : Word := 0#64
  /-- MEMWR_SERVED. -/
  wrServed : Word := 0#64
  /-- Page walks in progress, at most 64 of them at a walker (R72). -/
  walks : List Walk := []
  /-- Walks that wait for a walker, in arrival order (R72). -/
  walkQ : List Walk := []
  /-- The Trail (R170). -/
  trail : TrailSt := {}
  /-- The die command queue and its processor (R160). -/
  dcq : DcqSt := {}
  /-- Requests on their way to the Caddy (R308). -/
  creqs : List CadReq := []
  /-- The XDROP that the Caddy is performing while a replica view's regeneration is in progress: the task's core and frame, and the expert
  (R141, R308, R318). -/
  xdrop : Option (Nat × Nat × Nat) := none
  /-- The Caddy's hold queue (R146). -/
  hold : List Token := []
  /-- The watchdog's stall count (R389). -/
  stall : Nat := 0
  /-- The watchdog's stage: 0 quiet, 1 PREEMPT, 2 KILL (R390). -/
  wstage : Nat := 0
  /-- Clock at which it entered the stage. -/
  wat : Nat := 0
  /-- Kills of that stage that are not complete: core and frame. -/
  kills : List (Nat × Nat) := []
  deriving DecidableEq, Repr

/-- A die command queue or host queue of a realm's control page (R346). -/
structure QueueReg where
  /-- Base address. -/
  base : Word := 0#64
  /-- Size code. -/
  k : Nat := 0
  /-- HEAD. -/
  head : Nat := 0
  deriving DecidableEq, Repr

/-- A realm's control page (R346), and what the hardware keeps with it. -/
structure RealmSt where
  /-- RSTATE[2:0] (R347): 0 FREE, 1 ACTIVE, 2 HALTING, 3 HALTED, 4 SAVING, 5 RESTORING. -/
  state : Nat := 0
  /-- RSTATE[15:8], error of the last command. -/
  err : Nat := 0
  /-- RSTATE[16] DBERR. -/
  dberr : Bool := false
  /-- RSTATE[17] DLOVF. -/
  dlovf : Bool := false
  /-- NDIE. -/
  n : Nat := 0
  /-- ROOT. -/
  root : Word := 0#64
  /-- KBASE. -/
  kbase : Nat := 0
  /-- KCNT. -/
  kcnt : Nat := 0
  /-- TRAPC: the trap handler core (R363). -/
  trapc : Nat := 0
  /-- WDOGCFG. -/
  wdogcfg : Word := 0#64
  /-- BART: the barrier table (R175). -/
  bart : Word := 0#64
  /-- SIGPOL. -/
  sigpol : Word := 0#64
  /-- SIGKEYS. -/
  sigkeys : Word := 0#64
  /-- WBASE. -/
  wbase : Word := 0#64
  /-- DLBASE. -/
  dlbase : Word := 0#64
  /-- DLCTL. -/
  dlctl : Word := 0#64
  /-- DLHEAD[31:0], records written. -/
  dlhead : BitVec 32 := 0#32
  /-- DLHEAD[63:32], records the host has read. -/
  dlread : BitVec 32 := 0#32
  /-- INVVA. -/
  invva : Word := 0#64
  /-- INVCTL[1]: an invalidation started by the host is in progress. -/
  inving : Bool := false
  /-- The address such an invalidation names, as INVVA stood at its start. -/
  invAt : Word := 0#64
  /-- TLBINV[0]: an invalidation started by a task is in progress (R193). -/
  tlbinving : Bool := false
  /-- Its value. -/
  tlbinvAt : Word := 0#64
  /-- IMGLIST. -/
  imglist : Word := 0#64
  /-- DMAP: physical die behind each logical die (R9, R160). -/
  dmap : List Nat := []
  /-- DCQT. -/
  dcqt : Tab QueueReg := []
  /-- HQT. -/
  hqt : Tab QueueReg := []
  /-- MSI-X vector of the command in progress (R346). -/
  vec : Nat := 0
  /-- What RSTATE[15:8] gives when the realm is HALTED: 0, or why the device halts it (R412). -/
  reason : Nat := 0
  /-- Vector of the CREATE or RESUME that last made the realm ACTIVE (R412). -/
  vecUp : Nat := 0
  /-- The device itself halts the realm (R412). -/
  devHalt : Bool := false
  /-- Clock at which it began (R393). -/
  cmdAt : Nat := 0
  /-- WDOGCFG as the last CREATE or RESUME found it (R391). -/
  wdogOn : Word := 0#64
  /-- A halt limit has left the realm inconsistent (R393). -/
  torn : Bool := false
  /-- A core of the realm is fenced (R390). -/
  fenced : Bool := false
  /-- The extents of the scatter list that a SAVE has read: host address, length in 4 KiB units (R346, R351). -/
  extents : List (Nat × Nat) := []
  /-- The measurement of its registers, as last created or restored (R359). -/
  meas : List Byte := []
  deriving DecidableEq, Repr

/-- What counts the DONE of a set of tasks: a LAUNCH or TILES command (R164, R165), or a Trail entry (R171). -/
structure Grp where
  /-- Logical die of the unit. -/
  die : Nat := 0
  /-- Tasks created and not yet DONE. -/
  left : Nat := 0
  /-- Every task of the command has been created. -/
  closed : Bool := false
  /-- Timeline counter to add 1 to, 0 for none (R164). -/
  tlc : Nat := 0
  /-- Queue position of the command; of a Trail entry, its phase × 256 + stash slot. -/
  pos : Nat := 0
  /-- The group belongs to a Trail entry. -/
  trail : Bool := false
  deriving DecidableEq, Repr

/-- Everything that belongs to realms, by realm id in the upper part of each key. -/
structure Hw where
  /-- Thread slots, by slot key. -/
  slots : Tab Slot := []
  /-- Frames, by frame key. -/
  frames : Tab Frame := []
  /-- x registers, by slot key × 32. -/
  xregs : Tab Word := []
  /-- f registers. -/
  fregs : Tab Word32 := []
  /-- Predicate registers, by slot key × 8. -/
  pregs : Tab Word := []
  /-- Vector register elements, by (frame key × 32 + register) × 64 + element. -/
  vregs : Tab Word32 := []
  /-- Trigger counters, by core key × 256. -/
  counters : Tab Counter := []
  /-- Handler tables, by core key × 256. -/
  handlers : Tab Word := []
  /-- Ring handles, by core key × 16. -/
  rings : Tab Ring := []
  /-- Completion descriptors, by core key × 16. -/
  cdescs : Tab Word := []
  /-- done(g) of each core, by core key × 256 (R262). -/
  doneTab : Tab (BitVec 32) := []
  /-- Cores. -/
  cores : Tab CoreSt := []
  /-- Octets. -/
  octets : Tab OctetSt := []
  /-- Clusters. -/
  clusters : Tab ClusterSt := []
  /-- Dies. -/
  dies : Tab DieSt := []
  /-- Accumulator slices, weight buffers and scale stores, by core key × 65536 (R60, R288). -/
  emem : Tab Byte := []
  /-- Poisoned 8-byte words of those stores, by address / 8 (R382). -/
  epoison : Tab Bool := []
  /-- Task groups by number, under realm × 2^32. -/
  groups : Tab Grp := []
  /-- Fault records sent by each unit (R364): by die key × 8 + unit. -/
  unitSeq : Tab Nat := []
  /-- Barrier instances, by ((realm × 256 + group) × 8 + scope) × 2^20 + place (R175). -/
  barInsts : Tab BarInst := []
  /-- Views, by realm × 2^16 + id (R128). -/
  views : Tab ViewSt := []
  /-- View blocks, by that key × 2^32 + block (R135). -/
  vblocks : Tab VBlock := []
  /-- Masters, by realm × 2^64 + address of the first element (R131). -/
  masters : Tab MasterSt := []
  /-- Directory entries, by die key × 2^24 + expert id (R145). -/
  experts : Tab Expert := []
  deriving DecidableEq, Repr

/-- An access of another device to this device's memory (R68). -/
structure FarIn where
  /-- Device. -/
  dev : Nat
  /-- Realm id. -/
  rid : Nat
  /-- Asking core. -/
  core : Nat
  /-- FDIE. -/
  die : Nat
  /-- Tier. -/
  tier : Nat
  /-- Tier offset. -/
  off : Nat
  /-- KEY. -/
  key : Nat
  /-- Bytes. -/
  size : Nat
  /-- Operation. -/
  op : RemOp
  /-- Words of a store's bytes that carry a poison mark (R383). -/
  marks : List Nat := []
  deriving DecidableEq, Repr

/-- A section record of a realm image (R351). -/
structure SecRec where
  /-- Kind. -/
  kind : Nat
  /-- Logical die. -/
  die : Nat
  /-- Core position in die-grid order. -/
  pos : Nat
  /-- Image offset. -/
  off : Nat
  /-- Size. -/
  size : Nat
  deriving DecidableEq, Repr

/-- A realm image (R351): its header, its section records, and what the sections hold. The manual lays out the bytes of header and
records, and gives of the sections the content alone (log 17). -/
structure Image where
  /-- Bytes 0 to 3. -/
  magic : Nat := 0
  /-- Layout version. -/
  version : Nat := 0
  /-- MSTEP of the saving module. -/
  mstep : Nat := 0
  /-- n. -/
  n : Nat := 0
  /-- Image size. -/
  size : Nat := 0
  /-- Section count. -/
  count : Nat := 0
  /-- Digest. -/
  digest : List Byte := []
  /-- The directory as it was read or written: the bytes of the section records, reserved bits included. -/
  dir : List Byte := []
  /-- Section records. -/
  secs : List SecRec := []
  /-- Bytes after the directory that no section covers, by image offset. -/
  gaps : Tab Byte := []
  /-- Kind 1: the control page's registers. -/
  regs : RealmSt := {}
  /-- Kinds 2 to 6, by key without the realm id. -/
  hw : Hw := {}
  /-- LM, by address without the realm id. -/
  lm : Memory := []
  /-- Poison marks of LM. -/
  lmPoison : Tab Bool := []
  /-- Kind 7: key serials in key-id order. -/
  keys : List Nat := []
  /-- CYCLE of each logical die. -/
  cycles : List Nat := []
  deriving DecidableEq, Repr

/-- What the device sends to the host: a posted write, a completion, a vector (R90, R344, R346). -/
inductive HostOut where
  /-- A posted write to host memory. -/
  | write (addr : Nat) (bytes : List Byte)
  /-- An MSI-X vector. -/
  | msi (vec : Nat)
  /-- Completion of a host read: data, poisoned (EP), or Unsupported Request. -/
  | reply (bytes : List Byte) (ep ur : Bool)
  /-- A read request to host memory: address and length. -/
  | read (addr len : Nat)
  /-- A flushing read (R90). -/
  | flush
  /-- A reply of the management port (R357, R359). -/
  | mgmt (bytes : List Byte)
  /-- A realm image, written to host memory (R351). -/
  | image (img : Image)
  deriving DecidableEq, Repr

/-- An entry of the MSI-X table, as PCI Express lays it out (R342). -/
structure MsixEnt where
  /-- Message address. -/
  addr : Word := 0#64
  /-- Message data. -/
  data : Word32 := 0#32
  /-- Its vector control masks it, as after reset. -/
  masked : Bool := true
  deriving DecidableEq, Repr

/-- What an outside agent supplies with a turn: the payload of a flit, a host access, a management command, and the like. -/
structure Input where
  /-- First number: an address, an offset, a command. -/
  a : Nat := 0
  /-- Second number: a value, a length. -/
  b : Nat := 0
  /-- Third number. -/
  c : Nat := 0
  /-- Bytes. -/
  data : List Byte := []
  /-- An access of another device. -/
  far : Option FarIn := none
  /-- A realm image, as the host holds it. -/
  img : Option Image := none
  deriving DecidableEq, Repr

/-- One turn of the schedule: which agent moves next and, where several of its kind could, which (log 1). -/
structure Turn where
  /-- Realm. -/
  rid : Nat := 0
  /-- Core id (R20). -/
  core : Nat := 0
  /-- Thread slot 0 to 7, where an instruction issues. -/
  slot : Nat := 0
  /-- Logical or physical die, or port, of a unit's event. -/
  die : Nat := 0
  /-- Which of the agent's pending items: a message, a request, a slot, an element. -/
  idx : Nat := 0
  /-- A second choice: the frame a starting task takes. -/
  sub : Nat := 0
  /-- What the outside supplies. -/
  inp : Input := {}
  /-- The unit's event; none: the slot issues its next instruction. -/
  ev : Option Instr := none
  deriving DecidableEq, Repr

/-- A watched line: the waiting slot's core and frame (R256). -/
structure Watch where
  /-- Realm. -/
  rid : Nat
  /-- Core. -/
  core : Nat
  /-- Frame. -/
  frame : Nat
  /-- Memory address of the watched line. -/
  line : Nat
  deriving DecidableEq, Repr

/-- An atomic that was performed at a home memory agent in a step: one that meets it in a switch may have been combined with
it (R89, log 26). -/
structure Meeting where
  /-- The step, by the fresh counter. -/
  at_ : Nat
  /-- Address. -/
  addr : Nat
  /-- Operation. -/
  op : AmoOp
  /-- Operand size. -/
  size : Nat
  /-- Order and scope, as the instruction encodes them (R245). -/
  order : BitVec 5
  deriving DecidableEq, Repr

/-- The whole machine. -/
structure State extends Hw where
  /-- LM of every core and device memory of every die (R19), one table of bytes; device memory as it is stored, so that what a
  key has encrypted stands here as ciphertext (R67, R360). -/
  mem : Memory := []
  /-- Poisoned 8-byte words of memory, by address / 8 (R382). -/
  poison : Tab Bool := []
  /-- Serial of the key each key id names now (R360). -/
  keySer : Tab Nat := []
  /-- Next key serial. -/
  keyNext : Nat := 1
  /-- Core clock cycles since module reset. -/
  clock : Nat := 0
  /-- Steps taken: the index of the free values (the model's own, log 11). -/
  fresh : Nat := 0
  /-- The agents that move next, in order (the model's own, log 1). -/
  sched : List Turn := []
  /-- The turn being taken. -/
  cur : Turn := {}
  /-- FABID: this device's number in the fabric (R343). -/
  fabid : Nat := 0
  /-- Number of the next task group. -/
  grpNext : Nat := 0
  /-- Realms by id. -/
  realms : Tab RealmSt := []
  /-- Messages on their way. -/
  net : List Msg := []
  /-- Remote LM accesses on their way (R53). -/
  rnet : List RemReq := []
  /-- Replies on their way (R82). -/
  replies : List Reply := []
  /-- Requests on their way to home memory agents (R88). -/
  agentQ : List AgentReq := []
  /-- Requests to other devices, until they are answered (R68, R249). -/
  farQ : List FarReq := []
  /-- Lines of other devices' memory that have come for reads by units (R66, R383; the model's own, log 135). -/
  unitLines : List UnitLine := []
  /-- The atomic that the last step performed on device memory (R89). -/
  meeting : Option Meeting := none
  /-- Watched lines (R256). -/
  watches : List Watch := []
  /-- What has been sent to the host, oldest first. -/
  hostOut : List HostOut := []
  /-- Reports of writes to watched lines on their way (R256). -/
  reports : List Watch := []
  /-- Barrier arrivals on their way (R176). -/
  barNet : List BarArr := []
  /-- Replies to arrivals on their way (R262). -/
  barReps : List BarRep := []
  /-- Completions on their way (R176). -/
  barDones : List BarDone := []
  /-- Data of the barrier done flits that ports have accepted (R177). -/
  doneFlits : List (List Byte) := []
  /-- Slot returns on their way: realm, sending and receiving die, micro-batch (R172). -/
  slotRets : List (Nat × Nat × Nat × Nat) := []
  /-- Messages to other devices that have left and are not answered (R68). -/
  sentMsgs : List Msg := []
  /-- Scale-up ports. -/
  ports : Tab PortSt := []
  /-- Device route table (R410). -/
  route : Tab Nat := []
  /-- Flits sent, by port, oldest first. -/
  wire : List (Nat × List Byte) := []
  /-- Answers to other devices. -/
  farAns : List FarAns := []
  /-- Module stepping MSTEP (R343). -/
  mstep : Nat := 0
  /-- LTOL (R355). -/
  ltol : Nat := 0
  /-- Power state D0 to D4 (R355). -/
  power : Nat := 0
  /-- The host link is up (R406). -/
  hostUp : Bool := true
  /-- Device-to-host traffic held while it is down (R406). -/
  hostHeld : List HostOut := []
  /-- MSI-X pending bits (R406). -/
  pend : List Nat := []
  /-- Reads of host memory that are not complete. -/
  hostRds : List HostRd := []
  /-- HLDOWN (R406). -/
  hldown : Word := 0#64
  /-- The host port has been disabled through the management port (R407). -/
  hostOff : Bool := false
  /-- Module-fabric hops that cannot be retrained (R404). -/
  hopDown : Bool := false
  /-- Replays of module-fabric hops, by physical die, as the die telemetry counts them (R404). -/
  hopReplays : Tab Nat := []
  /-- Corrected errors, by physical die (R382). -/
  corrected : Tab Nat := []
  /-- Physical dies that a failed module-fabric hop cuts off from the host port (R404). -/
  cutDies : List Nat := []
  /-- The MSI-X table, by vector (R342, R343). -/
  msix : Tab MsixEnt := []
  /-- SHA-256 digest of the firmware key, fused at test (R358). -/
  fuse : List Byte := []
  /-- Public part of the identity key pair, made at test (R359). -/
  identity : List Byte := []
  /-- The certificate chain, received at test (R359). -/
  chain : List Byte := []
  /-- Boot firmware (R359). -/
  boot : List Byte := []
  /-- Runtime firmware (R358). -/
  firm : List Byte := []
  /-- Firmware accepted for the next module reset (R358). -/
  firmNext : Option (List Byte) := none
  /-- The fused rollback counter (R358). -/
  rollback : Nat := 0
  deriving DecidableEq, Repr

/-- Why a step stops for good. The manual's faults are traps and records, which are next states; nothing of the manual
stops the machine, so no meaning raises this. -/
inductive Fault where
  /-- Raised by nobody: the machine has no state from which it cannot go on (safe). -/
  | stuck
  deriving DecidableEq, Repr

/-- Why an instruction has no meaning. -/
inductive Refusal where
  /-- Raised by exec's arm of an instruction that has no meaning yet (safe: the run ends). -/
  | notModelled (mnemonic : String)
  deriving DecidableEq, Repr

/-- The module right after reset: no realm exists (R347), and every table is at its reset content. -/
def State.reset : State := {}

end Sys2Proof.Machine
end

