-- ==== Sys2Proof/Machine/Regs.lean ====
section
/-! DEFINITION. Keys of the tables, and the named operations over registers and control state of the issuing slot
(R191 to R194, R222). Every read and write of a register goes through these. -/

namespace Sys2Proof.Machine

/-- Key of a core of a realm (R20). -/
def coreKey (rid core : Nat) : Nat := rid * 2 ^ 20 + core
/-- Key of a frame or of a thread slot of a core. -/
def unitKey (rid core i : Nat) : Nat := coreKey rid core * 16 + i
/-- Key of a logical die of a realm. -/
def dieKey (rid die : Nat) : Nat := rid * 64 + die

/-- Logical die of a core id (R20). -/
def coreDie (core : Nat) : Nat := core / 2 ^ 14
/-- Grid row of a core id. -/
def coreRow (core : Nat) : Nat := core / 2 ^ 7 % 128
/-- Grid column of a core id. -/
def coreCol (core : Nat) : Nat := core % 2 ^ 7
/-- Core id from die, row and column (R20). -/
def mkCore (die row col : Nat) : Nat := die * 2 ^ 14 + row * 2 ^ 7 + col
/-- Cluster index within the die (R13). -/
def clusterIx (core : Nat) : Nat := 16 * (coreRow core / 4) + coreCol core / 8
/-- Octet index within the die (R13). -/
def octetIx (core : Nat) : Nat := 4 * clusterIx core + coreRow core % 4
/-- Octet position (R13). -/
def octetPos (core : Nat) : Nat := coreCol core % 8
/-- Cluster position (R13). -/
def clusterPos (core : Nat) : Nat := 8 * (coreRow core % 4) + coreCol core % 8
/-- Key of a cluster by die and index. -/
def clusterKeyOf (rid die ix : Nat) : Nat := dieKey rid die * 320 + ix
/-- Key of the cluster of a core. -/
def clusterKey (rid core : Nat) : Nat := clusterKeyOf rid (coreDie core) (clusterIx core)
/-- Key of the octet of a core. -/
def octetKey (rid core : Nat) : Nat := dieKey rid (coreDie core) * 1280 + octetIx core
/-- The core at a cluster position of the cluster of `core` (R13). -/
def coreAtClusterPos (core p : Nat) : Nat :=
  mkCore (coreDie core) (coreRow core / 4 * 4 + p / 8) (coreCol core / 8 * 8 + p % 8)
/-- The core at an octet position of the octet of `core` (R13). -/
def coreAtOctetPos (core p : Nat) : Nat := mkCore (coreDie core) (coreRow core) (coreCol core / 8 * 8 + p)
/-- Whether two cores share a cluster. -/
def sameCluster (a b : Nat) : Bool := coreDie a == coreDie b && clusterIx a == clusterIx b

/-- A wait that follows this one is new, and its time counts from now. -/
def Wait.begins : Wait → Bool
  | .none | .again .. => true
  | _ => false

namespace Slot

/-- FFLAGS with the flags of an instruction that completes `lat` cycles from now (R112, R222, R237). -/
def addFlags (t : Slot) (clock lat : Nat) (fl : Flags) : Slot :=
  if fl = 0#5 then t
  else { t with fflags := t.fflags ||| fl
                late := (if t.late.all (·.1 ≤ clock) then [] else t.late) ++ [(clock + lat, fl, t.fflags)] }
/-- FFLAGS as the instructions that have completed by now leave it. -/
def doneFlags (t : Slot) (clock : Nat) : BitVec 5 :=
  match t.late with
  | [] => t.fflags
  | e :: _ => t.late.foldl (fun v x => if x.1 ≤ clock then v ||| x.2.1 else v) e.2.2
/-- A write of FFLAGS: the flags of an instruction that completes after it are ORed into the written value (R237). -/
def putFlags (t : Slot) (clock : Nat) (v : BitVec 5) : Slot :=
  let open_ := (t.late.filter (clock < ·.1)).map fun x => (x.1, x.2.1, v)
  { t with fflags := open_.foldl (fun w x => w ||| x.2.1) v, late := open_ }

end Slot

namespace State

/-- The realm record (R346). -/
def realm (s : State) (rid : Nat) : RealmSt := s.realms.get {} rid
/-- Change a realm record. -/
def modRealm (s : State) (rid : Nat) (f : RealmSt → RealmSt) : State :=
  { s with realms := s.realms.set {} rid (f (s.realm rid)) }
/-- A core's state. -/
def coreSt (s : State) (k : Nat) : CoreSt := s.cores.get {} k
/-- Change a core's state. -/
def modCore (s : State) (k : Nat) (f : CoreSt → CoreSt) : State :=
  { s with cores := s.cores.set {} k (f (s.coreSt k)) }
/-- An octet's state. -/
def octetSt (s : State) (k : Nat) : OctetSt := s.octets.get {} k
/-- Change an octet's state. -/
def modOctet (s : State) (k : Nat) (f : OctetSt → OctetSt) : State :=
  { s with octets := s.octets.set {} k (f (s.octetSt k)) }
/-- A cluster's state. -/
def clusterSt (s : State) (k : Nat) : ClusterSt := s.clusters.get {} k
/-- Change a cluster's state. -/
def modCluster (s : State) (k : Nat) (f : ClusterSt → ClusterSt) : State :=
  { s with clusters := s.clusters.set {} k (f (s.clusterSt k)) }
/-- A die's state. -/
def dieSt (s : State) (k : Nat) : DieSt := s.dies.get {} k
/-- Change a die's state. -/
def modDie (s : State) (k : Nat) (f : DieSt → DieSt) : State :=
  { s with dies := s.dies.set {} k (f (s.dieSt k)) }
/-- A thread slot by key. -/
def slotSt (s : State) (k : Nat) : Slot := s.slots.get {} k
/-- Change a thread slot. -/
def modSlot (s : State) (k : Nat) (f : Slot → Slot) : State :=
  { s with slots := s.slots.set {} k (f (s.slotSt k)) }
/-- A frame by key. -/
def frameSt (s : State) (k : Nat) : Frame := s.frames.get {} k
/-- Change a frame. -/
def modFrame (s : State) (k : Nat) (f : Frame → Frame) : State :=
  { s with frames := s.frames.set {} k (f (s.frameSt k)) }
/-- A trigger counter by key. -/
def counter (s : State) (k : Nat) : Counter := s.counters.get {} k
/-- Set a trigger counter. -/
def setCounter (s : State) (k : Nat) (c : Counter) : State := { s with counters := s.counters.set {} k c }
/-- A ring handle by key. -/
def ring (s : State) (k : Nat) : Ring := s.rings.get {} k
/-- Set a ring handle. -/
def setRing (s : State) (k : Nat) (r : Ring) : State := { s with rings := s.rings.set {} k r }

/-- Key of view `vid` of a realm. -/
def viewKey (rid vid : Nat) : Nat := rid * 2 ^ 16 + vid
/-- A view. -/
def view (s : State) (k : Nat) : ViewSt := s.views.get {} k
/-- Change a view. -/
def modView (s : State) (k : Nat) (f : ViewSt → ViewSt) : State := { s with views := s.views.set {} k (f (s.view k)) }
/-- A view block. -/
def vblock (s : State) (k j : Nat) : VBlock := s.vblocks.get {} (k * 2 ^ 32 + j)
/-- Change a view block. -/
def modBlock (s : State) (k j : Nat) (f : VBlock → VBlock) : State :=
  { s with vblocks := s.vblocks.set {} (k * 2 ^ 32 + j) (f (s.vblock k j)) }
/-- A master. -/
def masterSt (s : State) (rid va : Nat) : MasterSt := s.masters.get {} (rid * 2 ^ 64 + va)
/-- Set a master. -/
def setMaster (s : State) (rid va : Nat) (m : MasterSt) : State := { s with masters := s.masters.set {} (rid * 2 ^ 64 + va) m }
/-- Key of a directory entry. -/
def expertKey (rid die xid : Nat) : Nat := dieKey rid die * 2 ^ 24 + xid
/-- A directory entry. -/
def expert (s : State) (k : Nat) : Expert := s.experts.get {} k
/-- Change a directory entry. -/
def modExpert (s : State) (k : Nat) (f : Expert → Expert) : State := { s with experts := s.experts.set {} k (f (s.expert k)) }
/-- Change a die's Trail. -/
def modTrail (s : State) (k : Nat) (f : TrailSt → TrailSt) : State := s.modDie k fun d => { d with trail := f d.trail }
/-- Change a die's command queue. -/
def modDcq (s : State) (k : Nat) (f : DcqSt → DcqSt) : State := s.modDie k fun d => { d with dcq := f d.dcq }
/-- A scale-up port. -/
def port (s : State) (p : Nat) : PortSt := s.ports.get {} p
/-- Change a scale-up port. -/
def modPort (s : State) (p : Nat) (f : PortSt → PortSt) : State := { s with ports := s.ports.set {} p (f (s.port p)) }
/-- A task group of a realm, by its number in the realm. -/
def group (s : State) (rid g : Nat) : Grp := s.groups.get {} (rid * 2 ^ 32 + g)
/-- Change a task group. -/
def modGroup (s : State) (rid g : Nat) (f : Grp → Grp) : State :=
  { s with groups := s.groups.set {} (rid * 2 ^ 32 + g) (f (s.group rid g)) }
/-- A die makes progress: its stall count returns to zero, and a watchdog in PREEMPT to quiet (R389, R390). -/
def progress (s : State) (k : Nat) : State :=
  s.modDie k fun d => { d with stall := 0, wstage := if d.wstage = 1 then 0 else d.wstage }

/-- Key of the issuing core. -/
def ck (s : State) : Nat := coreKey s.cur.rid s.cur.core
/-- Key of the issuing slot. -/
def sk (s : State) : Nat := unitKey s.cur.rid s.cur.core s.cur.slot
/-- The issuing slot. -/
def me (s : State) : Slot := s.slotSt s.sk
/-- Key of the frame of the issuing slot's task. -/
def fk (s : State) : Nat := unitKey s.cur.rid s.cur.core s.me.frame
/-- The frame of the issuing slot's task. -/
def myFrame (s : State) : Frame := s.frameSt s.fk
/-- Key of the issuing core's octet. -/
def octk (s : State) : Nat := octetKey s.cur.rid s.cur.core
/-- Key of the issuing core's cluster. -/
def clk (s : State) : Nat := clusterKey s.cur.rid s.cur.core
/-- Key of the issuing core's die. -/
def dk (s : State) : Nat := dieKey s.cur.rid (coreDie s.cur.core)
/-- The issuing core's realm. -/
def myRealm (s : State) : RealmSt := s.realm s.cur.rid

/-- x[r]; x0 reads as zero (R192). -/
def rx (s : State) (r : BitVec 5) : Word :=
  if r = 0#5 then 0#64 else s.xregs.get 0#64 (s.sk * 32 + r.toNat)
/-- Write x[r]; a write to x0 is discarded (R192). -/
def wx (s : State) (r : BitVec 5) (v : Word) : State :=
  if r = 0#5 then s else { s with xregs := s.xregs.set 0#64 (s.sk * 32 + r.toNat) v }
/-- f[r] (R191). -/
def rf (s : State) (r : BitVec 5) : Word32 := s.fregs.get 0#32 (s.sk * 32 + r.toNat)
/-- Write f[r]. -/
def wrf (s : State) (r : BitVec 5) (v : Word32) : State :=
  { s with fregs := s.fregs.set 0#32 (s.sk * 32 + r.toNat) v }
/-- p[r]; p0 is all-true (R265). -/
def rp (s : State) (r : Nat) : Word :=
  if r = 0 then BitVec.allOnes 64 else s.pregs.get 0#64 (s.sk * 8 + r)
/-- Write p[r]; no instruction writes p0 (R265). -/
def wp (s : State) (r : Nat) (v : Word) : State :=
  if r = 0 then s else { s with pregs := s.pregs.set 0#64 (s.sk * 8 + r) v }
/-- Element j of v[r] of a frame's claim. -/
def rvAt (s : State) (fk r j : Nat) : Word32 := s.vregs.get 0#32 ((fk * 32 + r) * 64 + j)
/-- Write element j of v[r] of a frame's claim. -/
def wvAt (s : State) (fk r j : Nat) (v : Word32) : State :=
  { s with vregs := s.vregs.set 0#32 ((fk * 32 + r) * 64 + j) v }
/-- Element j of v[r] (R265). -/
def rv (s : State) (r j : Nat) : Word32 := s.rvAt s.fk r j
/-- VLEN: the width of the task's claim, 0 without one (R265). -/
def vlen (s : State) : Nat := s.myFrame.width

/-- OR flags into FFLAGS of the issuing task (R112, R237): those of an instruction that completes `lat` cycles after its issue (R222, R270). -/
def orFlags (s : State) (fl : Flags) (lat : Nat) : State := s.modSlot s.sk fun t => t.addFlags s.clock lat fl
/-- Every floating-point instruction of the issuing task has completed: what a read of FFLAGS waits for (R237), and a safe point (R222). -/
def settleFlags (s : State) : State := if s.me.late.isEmpty then s else s.modSlot s.sk fun t => { t with late := [] }
/-- The rounding mode a code names: FRM for 7, else the code itself (R107, R108). -/
def rnd (s : State) (code : Nat) : Rnd := if code = 7 then Rnd.ofCode s.me.frm.toNat else Rnd.ofCode code

/-- Program counter of the issuing slot. -/
def pc (s : State) : Word := s.me.pc

/-- An instruction of `len` bytes that is no safe point has completed: the program counter moves on, SAFECNT and INSTRET
count it (R48, R193), and the slot waits for nothing. -/
def retire (s : State) (len : Nat) : State :=
  (s.modSlot s.sk fun t => { t with pc := t.pc + BitVec.ofNat 64 len, safecnt := t.safecnt + 1, wait := .none }).modCore s.ck
    fun c => { c with instret := c.instret + 1 }
/-- A jump has completed. -/
def retireTo (s : State) (target : Word) : State :=
  (s.modSlot s.sk fun t => { t with pc := target, safecnt := t.safecnt + 1, wait := .none }).modCore s.ck
    fun c => { c with instret := c.instret + 1 }
/-- A safe point has completed: SAFECNT returns to zero (R47, R48), and the die has made progress (R389). -/
def retireSafe (s : State) (len : Nat) : State :=
  ((s.modSlot s.sk fun t => { t with pc := t.pc + BitVec.ofNat 64 len, safecnt := 0, wait := .none, late := [] }).modCore s.ck
    fun c => { c with instret := c.instret + 1 }).progress s.dk
/-- The instruction cannot finish yet: it is issued again later, and nothing else changes. The time of a wait counts from its last
read (R256). -/
def waitFor (s : State) (w : Wait) : State :=
  s.modSlot s.sk fun t => { t with wait := w, since := if t.wait.begins then s.clock else t.since }

/-- Whether the units and cores of a realm act: it is ACTIVE or on its way to HALTED (R347, R349). -/
def acts (s : State) (rid : Nat) : Bool := (s.realm rid).state == 1 || (s.realm rid).state == 2

/-- CYCLE of a die: core clock cycles since the realm's creation on it; after a RESTORE it continues with RESUME from its saved value
(R193, R352). -/
def cycle (s : State) (dk : Nat) : Nat :=
  let d := s.dieSt dk
  if d.frozen then d.carry else s.clock - d.base + d.carry

end State
end Sys2Proof.Machine
end

