-- ==== Sys2Proof/Machine/ViewMap.lean ====
section
/-! DEFINITION. The geometry of master tensors and views (06_views.md, R129, R130), and what a write to a master page does to
the blocks of its views (R132, R135). -/

namespace Sys2Proof.Machine

/-- Size of a master element in bytes (R127). -/
def masterSize (mfmt : Nat) : Nat := if mfmt = 0 then 4 else 2

namespace ViewSt

/-- Extent of master dimension i (R130). -/
def extAt (v : ViewSt) (i : Nat) : Nat := v.ext[i]?.getD 1
/-- Number of master elements. -/
def total (v : ViewSt) : Nat := v.extAt 0 * v.extAt 1 * v.extAt 2 * v.extAt 3
/-- Master dimension of view dimension i. -/
def dimAt (v : ViewSt) (i : Nat) : Nat := v.perm[i]?.getD i
/-- The index in master dimension d of the master element behind view element e (R130). -/
def masterIndex (v : ViewSt) (e d : Nat) : Nat :=
  let x (i : Nat) : Nat := v.extAt (v.dimAt i)
  let j (i : Nat) : Nat := match i with
    | 0 => e % x 0
    | 1 => e / x 0 % x 1
    | 2 => e / (x 0 * x 1) % x 2
    | _ => e / (x 0 * x 1 * x 2)
  match (List.range 4).find? fun i => v.dimAt i == d with
  | some i => j i
  | none => 0
/-- Address of a master element by its indices (R130). -/
def masterAddr (v : ViewSt) (m0 m1 m2 m3 : Nat) : Nat :=
  let st (i m : Nat) : Word := BitVec.ofNat 64 m * v.span[i]?.getD 0#64
  (BitVec.ofNat 64 v.master + BitVec.ofNat 64 (masterSize v.mfmt) * (BitVec.ofNat 64 m0 + st 0 m1 + st 1 m2 + st 2 m3)).toNat
/-- Address of the master element behind view element e. -/
def elemAddr (v : ViewSt) (e : Nat) : Nat :=
  v.masterAddr (v.masterIndex e 0) (v.masterIndex e 1) (v.masterIndex e 2) (v.masterIndex e 3)
/-- Linear index of the master element behind view element e (R130). -/
def linear (v : ViewSt) (e : Nat) : Nat :=
  v.masterIndex e 0 + v.extAt 0 * (v.masterIndex e 1 + v.extAt 1 * (v.masterIndex e 2 + v.extAt 2 * v.masterIndex e 3))
/-- The view elements of block j (R129). -/
def blockElems (v : ViewSt) (j : Nat) : List Nat := (List.range (2 ^ v.blog)).map fun i => j * 2 ^ v.blog + i
/-- Whether the master block of block j holds a byte at an address. -/
def blockHolds (v : ViewSt) (j va : Nat) : Bool :=
  (v.blockElems j).any fun e => v.elemAddr e ≤ va && va < v.elemAddr e + masterSize v.mfmt
/-- The 4 KiB pages of the master's elements, row by row of dimension 0 (R128, R132). -/
def masterPages (v : ViewSt) : List Nat :=
  let rows := (List.range (v.extAt 1 * v.extAt 2 * v.extAt 3)).map fun r =>
    v.masterAddr 0 (r % v.extAt 1) (r / v.extAt 1 % v.extAt 2) (r / (v.extAt 1 * v.extAt 2))
  (rows.map fun a =>
    let last := (a + v.extAt 0 * masterSize v.mfmt - 1) / 4096
    (List.range (last + 1 - a / 4096)).map (a / 4096 + ·)).flatten.eraseDups

end ViewSt

/-- A master write to a block (R135). -/
def VBlock.written (b : VBlock) : VBlock :=
  match b.st with
  | .unset => b
  | .clean => { b with st := .dirty }
  | .dirty => b
  | .regen => { b with again := true }
  | .poisoned => { b with dirty := true }

namespace State

/-- A memory agent reports a write to the keeper: every view block whose master block holds a written byte is marked
(R132). The agent knows a master granule by its home location. -/
def noteMaster (s : State) (a : Nat) (bs : List (Nat × Byte)) : State :=
  s.views.foldl (fun t q =>
    let v := q.2
    let vas := (bs.map fun p => (v.marks.filter fun m => m.1 == (a + p.1) / 4096).map fun m =>
      m.2 * 4096 + (a + p.1) % 4096).flatten
    if vas.isEmpty then t
    else (List.range v.nblk).foldl (fun u j => if vas.any (v.blockHolds j) then u.modBlock q.1 j VBlock.written else u) t) s

end State
end Sys2Proof.Machine
end

