-- ==== Sys2Proof/Machine/Mem.lean ====
section
/-! DEFINITION. Storage (03_memory.md): where an address lies, the page walk, and the named operations over the one table of
bytes that holds every LM and all device memory. Byte order (R4), keys (R360), poison (R382, R383), the memory counters
(R73) and the reports of written lines (R256) are decided here once. -/

namespace Sys2Proof.Machine

/-- Address in the table of bytes of an LM location (the model's own layout). -/
def lmAddr (rid core off : Nat) : Nat := 2 ^ 50 + (coreKey rid core * 2 ^ 18 + off)
/-- Address in the table of bytes of a device-memory location: physical die, tier, offset. -/
def devAddr (pdie tier off : Nat) : Nat := (pdie * 2 + tier) * 2 ^ 38 + off

/-- Little-endian bytes of a number (R4). -/
def toBytes : Nat → Nat → List Byte
  | 0, _ => []
  | n + 1, v => BitVec.ofNat 8 v :: toBytes n (v / 256)
/-- The number that little-endian bytes hold (R4). -/
def ofBytes : List Byte → Nat
  | [] => 0
  | b :: bs => b.toNat + 256 * ofBytes bs
/-- Bytes with their offsets. -/
def enumBytes : Nat → List Byte → List (Nat × Byte)
  | _, [] => []
  | i, b :: bs => (i, b) :: enumBytes (i + 1) bs
/-- Bits [hi:lo] of a number (R4). -/
def bitsOf (v hi lo : Nat) : Nat := (v >>> lo) % 2 ^ (hi + 1 - lo)

/-- A fault of an access: code, DETAIL, ADDR, INFO (R365, R377). -/
structure Flt where
  /-- Code. -/
  code : Nat
  /-- DETAIL. -/
  detail : Nat := 0
  /-- ADDR. -/
  addr : Nat := 0
  /-- INFO. -/
  info : Nat := 0
  deriving DecidableEq, Repr

/-- The number by which caches and watches name a byte of another device's memory; the table of bytes holds none there. -/
def farAddr (device fdie tier off : Nat) : Nat := 2 ^ 80 + (((device * 64 + fdie) * 2 + tier) * 2 ^ 38 + off)
/-- Address of a location in the table of bytes, or its number where it lies on another device. -/
def locAddr (rid : Nat) : Loc → Nat
  | .lm core off => lmAddr rid core off
  | .dev pdie tier off _ _ => devAddr pdie tier off
  | .far d f t off _ => farAddr d f t off
/-- Key of a location: its serial × 64 + the logical die of its tweak (R360); 0 for plaintext, and for LM, which is not encrypted
(R19). -/
def locKey : Loc → Nat
  | .dev _ _ _ key _ => key
  | _ => 0
/-- The location k bytes further on. -/
def Loc.plus (l : Loc) (k : Nat) : Loc :=
  match l with
  | .lm core off => .lm core (off + k)
  | .dev p t off key m => .dev p t (off + k) key m
  | .far d f t off key => .far d f t (off + k) key

namespace State

/-- The tweak of the line of a device-memory address under a key: logical die, tier, offset >> 6; and the place of the address's 16-byte
block in the line (R360). -/
def tweak (a key : Nat) : Nat := key % 64 * 2 ^ 35 + a / 16 % 2 ^ 35
/-- The stored bits of the 16-byte block that an address lies in. -/
def blockAt (s : State) (a : Nat) : BitVec 128 :=
  BitVec.ofNat 128 (ofBytes ((List.range 16).map fun i => s.mem.get memDefault (a / 16 * 16 + i)))
/-- The block of an address as a key decrypts it. -/
def plainBlock (s : State) (a key : Nat) : List Byte :=
  toBytes 16 ((Config.blockCipher (key / 64) (tweak a key)).dec (s.blockAt a)).toNat
/-- A byte as an access under a key reads it: 0 is plaintext access, another number names the key's serial and the logical die of
the tweak (R67, R360, log 88). -/
def rdByte (s : State) (a key : Nat) : Byte :=
  if key = 0 then s.mem.get memDefault a else (s.plainBlock a key).getD (a % 16) 0#8
/-- n bytes from address a on. -/
def rdBytes (s : State) (a key : Nat) : Nat → List Byte
  | 0 => []
  | n + 1 => s.rdByte a key :: rdBytes s (a + 1) key n
/-- n bytes at a location. -/
def rdLoc (s : State) (rid : Nat) (l : Loc) (n : Nat) : List Byte := s.rdBytes (locAddr rid l) (locKey l) n
/-- A little-endian number at a location. -/
def rdNum (s : State) (rid : Nat) (l : Loc) (n : Nat) : Nat := ofBytes (s.rdLoc rid l n)

/-- Whether an 8-byte word of the n bytes from a on is poisoned. -/
def poisoned (s : State) (a n : Nat) : Bool :=
  s.poison.any fun p => a / 8 ≤ p.1 && p.1 ≤ (a + n - 1) / 8 && p.2

/-- The first poisoned word among the n bytes from a on. -/
def poisonedWord (s : State) (a n : Nat) : Option Nat :=
  (s.poison.find? fun p => a / 8 ≤ p.1 && p.1 ≤ (a + n - 1) / 8 && p.2).map (·.1 * 8)

/-- Write one byte as it is stored. -/
def wrByte (s : State) (a : Nat) (b : Byte) : State := { s with mem := s.mem.set memDefault a b }
/-- Write bytes as they are stored, at their offsets from a. -/
def wrRaw (s : State) (a : Nat) (bs : List (Nat × Byte)) : State := bs.foldl (fun t p => t.wrByte (a + p.1) p.2) s
/-- Write one byte under a key: its block is decrypted, changed and encrypted again (R67, R360). -/
def wrKeyed (s : State) (a key : Nat) (b : Byte) : State :=
  if key = 0 then s.wrByte a b
  else
    let block := (Config.blockCipher (key / 64) (tweak a key)).enc
      (BitVec.ofNat 128 (ofBytes ((s.plainBlock a key).set (a % 16) b)))
    s.wrRaw (a / 16 * 16) (enumBytes 0 (toBytes 16 block.toNat))
/-- Write bytes under a key, at their offsets from a. -/
def wrBytes (s : State) (a key : Nat) (bs : List (Nat × Byte)) : State := bs.foldl (fun t p => t.wrKeyed (a + p.1) key p.2) s

/-- Clear the poison marks of the words that a write covers whole (R383). -/
def clearPoison (s : State) (a : Nat) (bs : List (Nat × Byte)) : State :=
  { s with poison := s.poison.filter fun p => !(List.range 8).all fun i => bs.any fun q => a + q.1 == p.1 * 8 + i }
/-- Mark the word at a poisoned. -/
def markPoison (s : State) (a : Nat) : State := { s with poison := s.poison.set false (a / 8) true }

/-- The owner's report of a write to a watched line goes out after the write (R256): for every line that a written byte lies
in. -/
def noteWrite (s : State) (a : Nat) (bs : List (Nat × Byte)) : State :=
  { s with reports := s.reports ++ s.watches.filter fun w =>
      bs.any (fun p => (a + p.1) / 64 == w.line) && !s.reports.contains w }

/-- The logical die of a physical die: the realm that holds it and its place in the realm's die map (R9, R21). -/
def dieOwner (s : State) (pdie : Nat) : Option (Nat × Nat) :=
  s.realms.findSome? fun r => if (r.2.dmap.take r.2.n).contains pdie && r.2.state != 0 then some (r.1, r.2.dmap.idxOf pdie) else none

/-- Change the memory counters of the die behind a physical die. -/
def modOwnerDie (s : State) (pdie : Nat) (f : DieSt → DieSt) : State :=
  match s.dieOwner pdie with
  | some (rid, d) => s.modDie (dieKey rid d) f
  | none => s

/-- Count a read request of a die's clusters, and its service at the home (R73). -/
def countRead (s : State) (dk : Nat) (l : Loc) : State :=
  match l with
  | .lm .. => s
  | .far .. => s.modDie dk fun d => { d with rdRemote := d.rdRemote + 1 }
  | .dev pdie .. =>
    let local' := match s.dieOwner pdie with
      | some (rid, d) => dieKey rid d == dk
      | none => false
    (s.modDie dk fun d => if local' then { d with rdLocal := d.rdLocal + 1 } else { d with rdRemote := d.rdRemote + 1 }).modOwnerDie
      pdie fun d => { d with rdServed := d.rdServed + 1 }
/-- Count a read request served at the home that no cluster sent, or an atomic's, which counts at its owner alone (R73, log 31). -/
def countServed (s : State) (l : Loc) : State :=
  match l with
  | .dev pdie .. => s.modOwnerDie pdie fun d => { d with rdServed := d.rdServed + 1 }
  | _ => s
/-- Count a write request served at the home (R73). -/
def countWrite (s : State) (l : Loc) : State :=
  match l with
  | .dev pdie .. => s.modOwnerDie pdie fun d => { d with wrServed := d.wrServed + 1 }
  | _ => s

/-- Write bytes at their offsets from a location of one line or of LM: the one operation that changes memory. -/
def wrLoc (s : State) (rid : Nat) (l : Loc) (bs : List (Nat × Byte)) : State :=
  let a := locAddr rid l
  (((s.wrBytes a (locKey l) bs).clearPoison a bs).noteMaster a bs).noteWrite a bs
/-- Write a little-endian number of n bytes at a location. -/
def wrNum (s : State) (rid : Nat) (l : Loc) (n v : Nat) : State := s.wrLoc rid l (enumBytes 0 (toBytes n v))

/-- n bytes of LM of a core. -/
def rdLm (s : State) (rid core off n : Nat) : List Byte := s.rdBytes (lmAddr rid core off) 0 n
/-- A number in LM. -/
def rdLmNum (s : State) (rid core off n : Nat) : Nat := ofBytes (s.rdLm rid core off n)
/-- Write bytes to LM of a core. -/
def wrLm (s : State) (rid core off : Nat) (bs : List Byte) : State := s.wrLoc rid (.lm core off) (enumBytes 0 bs)

/-- The key that a key id names, for the memory of a logical die (R360). -/
def keyOf (s : State) (kid die : Nat) : Nat :=
  let k := s.keySer.get 0 kid
  if k = 0 then 0 else k * 64 + die % 64
/-- The physical die behind a logical die of a realm (R9). -/
def pdieOf (s : State) (rid die : Nat) : Nat := ((s.realm rid).dmap[die]?).getD 0

/-- Whether a core id names a core of the realm (R21). -/
def coreExists (s : State) (rid core : Nat) : Bool :=
  core < 2 ^ 20 && coreDie core < (s.realm rid).n && coreRow core < 80

end State

/-! ### Page entries (R62) -/

/-- FDIE. -/
def pteDie (e : Word) : Nat := bitsOf e.toNat 63 58
/-- FRAME. -/
def pteFrame (e : Word) : Nat := bitsOf e.toNat 57 32
/-- KEY. -/
def pteKey (e : Word) : Nat := bitsOf e.toNat 31 24
/-- PARG. -/
def pteArg (e : Word) : Nat := bitsOf e.toNat 23 12
/-- PMODE. -/
def pteMode (e : Word) : Nat := bitsOf e.toNat 11 10
/-- L. -/
def pteLeaf (e : Word) : Bool := e.getLsbD 9
/-- T. -/
def pteTier (e : Word) : Nat := bitsOf e.toNat 7 7
/-- FRAME lies within its tier (R62). -/
def pteFrameOk (e : Word) : Bool := pteFrame e < if pteTier e = 0 then 0xC00000 else 0x3000000

/-- A table-pointing entry that R62 and R63 allow, in a realm of n dies: PARG is none of the fields that R63 ignores. -/
def pteTableOk (n : Nat) (e : Word) : Bool :=
  e.getLsbD 0 && !pteLeaf e && pteMode e == 0 && pteArg e == 0 && pteDie e < n && pteFrameOk e
/-- Size of the page of a leaf at a level (R61). -/
def levelSize (level : Nat) : Nat := 2 ^ (12 + 9 * (level - 1))
/-- A leaf that R62 allows at a level, in a realm of n dies (R378, log 30). -/
def pteLeafOk (n level : Nat) (e : Word) : Bool :=
  e.getLsbD 0 && pteLeaf e && level ≤ 3 && pteMode e != 3 && pteFrameOk e
    && pteFrame e % 2 ^ (9 * (level - 1)) == 0
    && (pteMode e == 2 || pteArg e == 0) && !(pteMode e == 2 && pteArg e == 0xFFF)
    && !(pteMode e == 0 && n ≤ pteDie e) && !(pteMode e == 1 && pteDie e != 0)
    && !(level != 1 && e.getLsbD 1)

/-- The home of an INTERLEAVE granule (R66). -/
def interleaveHome (va n : Nat) : Nat :=
  let g := va >>> 12
  (bitsOf g 5 0 ^^^ bitsOf g 11 6 ^^^ bitsOf g 17 12 ^^^ bitsOf g 23 18) % 64 % n

namespace State

/-- Address of the table that a table-pointing entry names (R63). -/
def tableAddr (s : State) (rid : Nat) (e : Word) : Nat :=
  devAddr (s.pdieOf rid (pteDie e)) (pteTier e) (pteFrame e * 4096)
/-- A page entry; tables are never encrypted (R63, log 89). -/
def rdPte (s : State) (a : Nat) : Word := BitVec.ofNat 64 (ofBytes (s.rdBytes a 0 8))

/-- The 16 entries of a 64 KiB group agree as R64 asks; `a` is the address of the first. -/
def groupOk (s : State) (a : Nat) : Bool :=
  let e0 := s.rdPte a
  (List.range 16).all fun i =>
    let e := s.rdPte (a + 8 * i)
    let same := ~~~(0x60#64 ||| (0xF#64 <<< 32))
    (e &&& same) == (e0 &&& same) && pteFrame e % 16 == i

/-- The walk from a level down, with the entry that names that level's table (R61 to R64, R378): the leaf as a TLB holds
it, or the fault. A group is one leaf here; whether a TLB takes it as one entry or by its 4 KiB parts is the schedule's, in `endWalk`
(R64, log 6). -/
def walkFrom (s : State) (rid va : Nat) : Nat → Word → Except Flt TlbEnt
  | 0, _ => .error { code := 0x14, detail := 0, addr := va }
  | l + 1, tbl =>
    let level := l + 1
    let a := s.tableAddr rid tbl + 8 * (va >>> (12 + 9 * l) % 512)
    let e := s.rdPte a
    let n := (s.realm rid).n
    if pteTableOk n e && level != 1 then walkFrom s rid va l e
    else if !pteLeafOk n level e then .error { code := 0x14, detail := level, addr := va }
    else
      let grp := e.getLsbD 1
      let first := a - 8 * (va >>> 12 % 16)
      if grp && !s.groupOk first then .error { code := 0x14, detail := 1, addr := va }
      else if pteMode e != 2 && !((s.realm rid).kbase ≤ pteKey e && pteKey e < (s.realm rid).kbase + (s.realm rid).kcnt) then
        .error { code := 0x20, detail := level, addr := va, info := pteKey e }
      else
        let size := if grp then 65536 else levelSize level
        .ok { base := va / size * size, size := size, leaf := if grp then s.rdPte first else e, pte := if grp then first else a }

/-- The entries' addresses that the walk reads, level by level, one for each line: what it counts as read requests (R73). A
leaf with C = 1 makes it read all 16 entries of its group, which fill two lines (R378). -/
def walkReads (s : State) (rid va : Nat) : Nat → Word → List Nat
  | 0, _ => []
  | l + 1, tbl =>
    let a := s.tableAddr rid tbl + 8 * (va >>> (12 + 9 * l) % 512)
    let e := s.rdPte a
    a :: if pteTableOk (s.realm rid).n e && l != 0 then walkReads s rid va l e
      else if l == 0 && pteLeafOk (s.realm rid).n 1 e && e.getLsbD 1 then [a / 128 * 128 + (64 - a / 64 % 2 * 64)]
      else []

/-- The whole walk: its result, with its reads counted for the walking die (R73, R378, log 31). -/
def pageWalk (s : State) (rid die va : Nat) : Except Flt TlbEnt × State :=
  let root := (s.realm rid).root
  (s.walkFrom rid va 5 root,
    (s.walkReads rid va 5 root).foldl (fun t a => t.countRead (dieKey rid die) (.dev (a / 2 ^ 39) (a / 2 ^ 38 % 2) (a % 2 ^ 38) 0 false)) s)

/-- The leaf of the 4 KiB part that holds va: a group keeps A and D by part (R65). -/
def partOf (e : TlbEnt) (va : Nat) : Nat := if e.size = 65536 then va / 4096 % 16 else 0

/-- The atomic OR into a page entry at the home of its table (R65); it counts as an atomic (R73). -/
def orPte (s : State) (a : Nat) (m : Word) : State :=
  let l : Loc := .dev (a / 2 ^ 39) (a / 2 ^ 38 % 2) (a % 2 ^ 38) 0 false
  let t := (s.modOwnerDie (a / 2 ^ 39) fun d => { d with rdServed := d.rdServed + 1 }).countWrite l
  t.wrNum 0 l 8 ((s.rdPte a ||| m).toNat)

/-- The page size code of INVVA (R346). -/
def sizeCode (size : Nat) : Nat := if size = 4096 then 0 else if size = 65536 then 1 else if size = 2 ^ 21 then 2 else 3

/-- A vector can leave now: the host link is up and the MSI-X table does not mask it (R342, R406, log 103). -/
def vecOn (s : State) (v : Nat) : Bool := s.hostUp && !(s.msix.get {} v).masked
/-- A request toward the host: while the link is down, requests are held in order; a vector that cannot leave sets its pending bit
(R406, log 103). -/
def toHost (s : State) (o : HostOut) : State :=
  match o with
  | .msi v => if s.vecOn v then { s with hostOut := s.hostOut ++ [o] }
      else { s with pend := if s.pend.contains v then s.pend else s.pend ++ [v] }
  | _ => if s.hostUp then { s with hostOut := s.hostOut ++ [o] } else { s with hostHeld := s.hostHeld ++ [o] }

/-- A set D bit is logged while logging is enabled (R353): the record is posted to host memory; a record that would
overwrite an unread one, and one that meets a host link that is down, sets DLOVF instead and stops the logging (R406). -/
def dirtyLog (s : State) (rid : Nat) (e : TlbEnt) (va : Nat) : State :=
  let r := s.realm rid
  if !r.dlctl.getLsbD 4 || r.dlovf then s
  else
    let size := 2 ^ (r.dlctl.toNat % 16 + 9)
    if size ≤ (r.dlhead - r.dlread).toNat || !s.hostUp then s.modRealm rid fun q => { q with dlovf := true }
    else
      let page := if e.size = 65536 then va / 4096 * 4096 else e.base
      let code := if e.size = 65536 then 0 else sizeCode e.size
      let t := s.toHost (.write (r.dlbase.toNat + 8 * (r.dlhead.toNat % size)) (toBytes 8 (page + code)))
      t.modRealm rid fun q => { q with dlhead := q.dlhead + 1 }

/-- A and D of the part that an access touches (R65): set where the TLB does not know them set, with the dirty-page record
before the store; answers the entry with what it now knows. -/
def markLeaf (s : State) (rid : Nat) (e : TlbEnt) (va : Nat) (write : Bool) : TlbEnt × State :=
  let p := partOf e va
  let needA := !e.aset.contains p
  let needD := write && !e.dset.contains p
  let old := s.rdPte (e.pte + 8 * p)
  let t := if needD && !old.getLsbD 6 then s.dirtyLog rid e va else s
  let m : Word := (if needA then 0x20#64 else 0#64) ||| (if needD then 0x40#64 else 0#64)
  let t := if needA || needD then t.orPte (e.pte + 8 * p) m else t
  ({ e with aset := if needA then p :: e.aset else e.aset, dset := if needD then p :: e.dset else e.dset }, t)

/-- The location that a leaf gives an address (R66, log 49). -/
def leafLoc (s : State) (rid : Nat) (e : TlbEnt) (va : Nat) : Loc :=
  let off := pteFrame e.leaf * 4096 + va % e.size
  let t := pteTier e.leaf
  match pteMode e.leaf with
  | 2 => .far (pteArg e.leaf) (pteDie e.leaf) t off (pteKey e.leaf)
  | 1 =>
    let die := interleaveHome va (s.realm rid).n
    .dev (s.pdieOf rid die) t off (s.keyOf (pteKey e.leaf) die) (e.leaf.getLsbD 8)
  | _ => .dev (s.pdieOf rid (pteDie e.leaf)) t off (s.keyOf (pteKey e.leaf) (pteDie e.leaf)) (e.leaf.getLsbD 8)

/-- The permission of an access (R69). -/
def leafPerm (e : TlbEnt) (va : Nat) (write : Bool) : Option Flt :=
  if write then (if e.leaf.getLsbD 3 then none else some { code := 0x15, detail := 1, addr := va })
  else (if e.leaf.getLsbD 2 then none else some { code := 0x15, detail := 0, addr := va })
/-- The permissions of an access by its kind, 1 read, 2 write, 3 both: the first that fails (R69, R379). -/
def kindPerm (e : TlbEnt) (va kind : Nat) : Option Flt :=
  if kind.testBit 0 && !e.leaf.getLsbD 2 then leafPerm e va false
  else if kind.testBit 1 then leafPerm e va true
  else none

/-- The TLB entry of a cluster that translates va (R72). -/
def tlbFind (s : State) (ck va : Nat) : Option TlbEnt :=
  (s.clusterSt ck).tlb.find? fun e => e.base ≤ va && va < e.base + e.size
/-- The entry of the 4 KiB part of a group that holds va; another leaf as it is (R64). -/
def partLeaf (e : TlbEnt) (va : Nat) : TlbEnt :=
  if e.size = 65536 then
    let p := va / 4096 % 16
    { base := va / 4096 * 4096, size := 4096, leaf := e.leaf ||| (BitVec.ofNat 64 p <<< 32), pte := e.pte + 8 * p }
  else e
/-- Whether a leaf that a TLB holds is superseded: the tables as they stand give its address another, or none (R72). -/
def superseded (s : State) (rid : Nat) (e : TlbEnt) : Bool :=
  let said (x : TlbEnt) : Nat × Word := (x.size, x.leaf &&& ~~~0x60#64)
  match s.walkFrom rid e.base 5 (s.realm rid).root with
  | .ok x => said (if e.size = 4096 then partLeaf x e.base else x) != said e
  | .error _ => true
/-- A cluster's TLB drops its entry i where that is superseded: it may keep such a leaf until the invalidation completes, and need not
(R6, R72, log 6). -/
def tlbForget (s : State) (rid ck i : Nat) : State :=
  match (s.clusterSt ck).tlb[i]? with
  | some e => if s.superseded rid e then s.modCluster ck fun c => { c with tlb := c.tlb.eraseIdx i } else s
  | none => s
/-- Install a leaf: A is set at the part that missed; a full TLB replaces an entry of its own choice. A TLB that holds a leaf for
the address keeps it, superseded or not (R65, R72, R338). -/
def tlbInstall (s : State) (rid ck : Nat) (e : TlbEnt) (va : Nat) : State :=
  match s.tlbFind ck va with
  | some _ => s
  | none =>
    let (e', t) := s.markLeaf rid e va false
    t.modCluster ck fun c =>
      let l := if 512 ≤ c.tlb.length then c.tlb.eraseIdx (Config.tlbVictim s.fresh % c.tlb.length) else c.tlb
      { c with tlb := e' :: l }
/-- Use a TLB entry for an access. -/
def tlbUse (s : State) (rid ck : Nat) (e : TlbEnt) (va : Nat) (write : Bool) : State :=
  let (e', t) := s.markLeaf rid e va write
  if e' = e then t
  else t.modCluster ck fun c => { c with tlb := c.tlb.map fun x => if x.base == e.base && x.size == e.size then e' else x }

/-- What the checks before an access give. -/
inductive Xl where
  /-- The location. -/
  | ok (l : Loc)
  /-- The cluster's TLB holds no leaf for it. -/
  | miss
  /-- A fault. -/
  | bad (f : Flt)
  deriving DecidableEq, Repr

/-- The checks that need no translation: canonical form, LM window hole, core id (R51 to R53, R361). -/
def checkForm (s : State) (rid va maj : Nat) : Option (Except Flt Loc) :=
  if 2 ^ 56 ≤ va then some (.error { code := 0x11, addr := va })
  else if va >>> 48 = 0xFE then
    let core := bitsOf va 37 18
    let off := va % 2 ^ 18
    if bitsOf va 47 38 ≠ 0 then some (.error { code := 0x12, addr := va })
    else if 0x30000 ≤ off then some (.error { code := 0x12, addr := va })
    else if !s.coreExists rid core then some (.error { code := 0x13, detail := maj, addr := va })
    else some (.ok (.lm core off))
  else none

/-- The address checks of R361 in their order for an access of `size` bytes by a core or an engine of a cluster. -/
def checkVa (s : State) (rid ck va size maj : Nat) (write : Bool) : Xl :=
  if va % size ≠ 0 then .bad { code := 0x10, detail := size, addr := va }
  else match s.checkForm rid va maj with
    | some (.error f) => .bad f
    | some (.ok l) => .ok l
    | none => match s.tlbFind ck va with
      | none => .miss
      | some e => match leafPerm e va write with
        | some f => .bad f
        | none => .ok (s.leafLoc rid e va)

/-- The checks of an access that reads and writes (R361). -/
def checkBoth (s : State) (rid ck va size maj : Nat) : Xl :=
  match s.checkVa rid ck va size maj false with
  | .ok _ => s.checkVa rid ck va size maj true
  | x => x

/-- What waits in a cluster of a die for the walk of a page goes on: slots and frames are issued again, or with the fault of the walk, and so do the
engines of its cores (R72, R379). -/
def endWalkWaits (s : State) (rid die page cl : Nat) (f : Option Flt) : State :=
  let here (core : Nat) : Bool := coreDie core == die && clusterIx core == cl
  let ours (key : Nat) : Bool := key / 16 / 2 ^ 20 == rid && here (key / 16 % 2 ^ 20)
  let next (x : Wait) : Wait :=
    if x = .walk page then
      match f with
      | none => .none
      | some e => .walkFault page e.code e.detail e.info
    else x
  let eng (c : CoreSt) : CoreSt :=
    let (mine, rest) := c.engPend.partition (·.2.1 == page)
    if mine.isEmpty then c
    else
      { c with engPend := rest
               engFault := match f with
                 | none => c.engFault
                 | some e => (mine.map fun p => (p.1, page, e.code, e.detail, e.info)) ++ c.engFault }
  let t := (s.slots.filter fun p => ours p.1).foldl (fun u p => u.modSlot p.1 fun x => { x with wait := next x.wait }) s
  let t := (s.frames.filter fun p => ours p.1).foldl (fun u p => u.modFrame p.1 fun x => { x with wait := next x.wait }) t
  (s.cores.filter fun p => p.1 / 2 ^ 20 == rid && here (p.1 % 2 ^ 20)).foldl (fun u p => u.modCore p.1 eng) t

/-- A walk has found a leaf: a cluster of which some access is permitted by it takes it into its TLB; one of which none is takes the
permission's fault, and no leaf (R69, R72, R379, log 111). -/
def endWalkOk (s : State) (rid die : Nat) (w : Walk) (e : TlbEnt) (cl : Nat) : State :=
  let va := w.page * 4096
  let kinds := (w.kinds.filter (·.1 == cl)).map (·.2)
  match kinds.mapM (kindPerm e va) with
  | some (f :: _) => s.endWalkWaits rid die w.page cl (some { f with detail := if e.leaf.getLsbD 2 then 1 else 0 })
  | _ => (s.tlbInstall rid (clusterKeyOf rid die cl) e va).endWalkWaits rid die w.page cl none

/-- What a walk has found already. -/
def walkFound (w : Walk) : Option (Except Flt TlbEnt) :=
  match w.leaf, w.fault with
  | some e, _ => some (.ok e)
  | none, some (code, detail, info) => some (.error { code := code, detail := detail, info := info })
  | none, none => none
/-- Walks that hold a walker (R72). -/
def atWalker (d : DieSt) : Nat := (d.walks.filter fun w => (walkFound w).isNone).length
/-- Where a walker is free, the walk that has waited longest begins (R72). -/
def nextWalk (s : State) (dk : Nat) : State :=
  s.modDie dk fun d => match d.walkQ with
    | [] => d
    | w :: rest => if atWalker d < 64 then { d with walks := d.walks ++ [w], walkQ := rest } else d
/-- The result of the walk with number `i` of a die: read now, and kept for the clusters that wait, unless it has been (R72, R379). -/
def readWalk (s : State) (rid die i : Nat) (w : Walk) : Except Flt TlbEnt × State :=
  match walkFound w with
  | some r => (r, s)
  | none =>
    let dk := dieKey rid die
    let (r, t) := s.pageWalk rid die (w.page * 4096)
    let w' : Walk := match r with
      | .ok e => { w with leaf := some e }
      | .error f => { w with fault := some (f.code, f.detail, f.info) }
    (r, (t.modDie dk fun d => { d with walks := d.walks.set i w' }).nextWalk dk)
/-- The n walks at a walker that began first have their results. -/
def readWalks (s : State) (rid die : Nat) : Nat → State
  | 0 => s
  | n + 1 =>
    let ws := (s.dieSt (dieKey rid die)).walks
    match ws.findIdx? fun w => (walkFound w).isNone with
    | some i => (s.readWalk rid die i (ws.getD i { page := 0, clusters := [] })).2.readWalks rid die n
    | none => s
/-- A walk of the die ends, the one with number `i`: its leaf enters the TLBs of the clusters that missed, or every request takes its fault;
then the next walk that waits begins (R72, R378, R379). A 64 KiB group enters them as one entry, or, `split`, only the entry of the part
that missed (R6, R64, log 6). -/
def endWalk (s : State) (rid die i : Nat) (w : Walk) (split : Bool) : State :=
  let dk := dieKey rid die
  let (r, t) := s.readWalk rid die i w
  let t := (t.modDie dk fun d => { d with walks := d.walks.eraseIdx i }).nextWalk dk
  match r with
  | .error f => w.clusters.foldl (fun x cl => x.endWalkWaits rid die w.page cl (some f)) t
  | .ok e => w.clusters.foldl (fun x cl => x.endWalkOk rid die w (if split then partLeaf e (w.page * 4096) else e) cl) t
/-- How many walks have a walker before a unit's request for a page: none where the page is being walked or a walker is free (R72). -/
def walksAhead (d : DieSt) (page : Nat) : Nat :=
  match d.walkQ.findIdx? (·.page == page) with
  | some i => i + 1
  | none => if d.walks.any (·.page == page) || atWalker d < 64 then 0 else d.walkQ.length + 1
/-- The leaf that a unit of a die finds for an address: a request for a page whose walk is in progress takes that walk's result; else the
unit's own walk gives it, after the walks ahead of it where every walker is busy (R72, R379, log 55). -/
def unitLeaf (s : State) (rid die va : Nat) : Except Flt TlbEnt × State :=
  let dk := dieKey rid die
  let page := va / 4096
  let t := s.readWalks rid die (walksAhead (s.dieSt dk) page)
  let ws := (t.dieSt dk).walks
  match ws.findIdx? (·.page == page) with
  | some i =>
    match t.readWalk rid die i (ws.getD i { page := page, clusters := [] }) with
    | (.error f, u) => (.error { f with addr := va }, u)
    | r => r
  | none => t.pageWalk rid die va

/-- An access of a unit of a die translates in the step of its event (R72, R379, log 55). -/
def unitXlate (s : State) (rid die va size maj : Nat) (write : Bool) : Except Flt Loc × State :=
  if va % size ≠ 0 then (.error { code := 0x10, detail := size, addr := va }, s)
  else match s.checkForm rid va maj with
    | some r => (r, s)
    | none => match s.unitLeaf rid die va with
      | (.error f, t) => (.error f, t)
      | (.ok e, t) => match leafPerm e va write with
        | some f => (.error f, t)
        | none => (.ok (t.leafLoc rid e va), (t.markLeaf rid e va write).2)

/-- A miss of a cluster joins the walk of its page, or begins one at a free walker, or waits for one behind the walks that wait
already (R72). -/
def startWalk (s : State) (rid core va kind : Nat) : State :=
  let page := va / 4096
  let cl := clusterIx core
  let put (w : Walk) : Walk :=
    if w.page == page then
      { w with clusters := if w.clusters.contains cl then w.clusters else w.clusters ++ [cl]
               kinds := if w.kinds.contains (cl, kind) then w.kinds else w.kinds ++ [(cl, kind)] }
    else w
  let new : Walk := { page := page, clusters := [cl], kinds := [(cl, kind)] }
  s.modDie (dieKey rid (coreDie core)) fun d =>
    if d.walks.any (·.page == page) then { d with walks := d.walks.map put }
    else if d.walkQ.any (·.page == page) then { d with walkQ := d.walkQ.map put }
    else if atWalker d < 64 then { d with walks := d.walks ++ [new] }
    else { d with walkQ := d.walkQ ++ [new] }

/-- What the walk that a request of an engine waited for has given it: a fault, which it takes whatever the TLB holds by now (R379). -/
def engFaultOf (s : State) (k who page : Nat) : Option Flt :=
  ((s.coreSt k).engFault.find? fun p => p.1 == who && p.2.1 == page).map fun p =>
    { code := p.2.2.1, detail := p.2.2.2.1, info := p.2.2.2.2 }
/-- The address checks of an access by an engine of a core, through its cluster's TLB (R72): a miss waits for its walk, whose
fault is the access's (R379). `who` numbers the request of the core's engines that makes the access: a copy request, or the action of a
command. Beside the answer, the state: of a miss with the walk begun, of a hit with A and D set. -/
def engXlate (s : State) (rid core who va size maj : Nat) (write : Bool) : Xl × State :=
  let k := coreKey rid core
  let ck := clusterKey rid core
  let kind := if write then 2 else 1
  let page := va / 4096
  match s.engFaultOf k who page with
  | some f =>
    (.bad { f with detail := if f.code = 0x15 then (if write then 1 else 0) else f.detail, addr := va },
      s.modCore k fun c => { c with engFault := c.engFault.filter fun p => !(p.1 == who && p.2.1 == page) })
  | none => match s.checkVa rid ck va size maj write with
    | .bad f => (.bad f, s)
    | .miss =>
      if (s.coreSt k).engPend.contains (who, page, kind) then (.miss, s)
      else (.miss, (s.startWalk rid core va kind).modCore k fun c => { c with engPend := c.engPend ++ [(who, page, kind)] })
    | .ok l => (.ok l, match l with
      | .lm .. => s
      | _ => match s.tlbFind ck va with
        | some e => s.tlbUse rid ck e va write
        | none => s)

end State
end Sys2Proof.Machine
end

