-- ==== Sys2Proof/Machine/Access.lean ====
section
/-! DEFINITION. How accesses travel (04_ordering.md, R70, R71, R75 to R98): the combining buffer, the cluster cache, requests
to home memory agents, posted remote stores, and what a release and an acquire do. Every access is performed at one step, at
its owner; what only another processor could observe of the order in between is left to the schedule (log 1, log 12). -/

namespace Sys2Proof.Machine

/-- The line that holds a location. -/
def Loc.line (l : Loc) : Loc :=
  match l with
  | .lm core off => .lm core (off / 64 * 64)
  | .dev p t off key m => .dev p t (off / 64 * 64) key m
  | .far d f t off key => .far d f t (off / 64 * 64) key
/-- Offset of a location in its line. -/
def Loc.inLine : Loc → Nat
  | .lm _ off => off % 64
  | .dev _ _ off _ _ => off % 64
  | .far _ _ _ off _ => off % 64
/-- Whether two locations are the same place, whatever key they name. -/
def Loc.same (a b : Loc) : Bool :=
  match a, b with
  | .lm c o, .lm c' o' => c == c' && o == o'
  | .dev p t o _ _, .dev p' t' o' _ _ => p == p' && t == t' && o == o'
  | .far d f t o _, .far d' f' t' o' _ => d == d' && f == f' && t == t' && o == o'
  | _, _ => false

/-- Lay later bytes over earlier ones, by offset (R71: a later byte overwrites an earlier one). -/
def mergeBytes (old new : List (Nat × Byte)) : List (Nat × Byte) :=
  old.filter (fun p => !new.any (fun q => q.1 == p.1)) ++ new

/-- The marked words of a line that bytes, by offset in the line, do not cover whole (R383). -/
def keptMarks (marks : List Nat) (bs : List (Nat × Byte)) : List Nat :=
  marks.filter fun w => !(List.range 8).all fun i => bs.any fun p => p.1 == 8 * w + i

/-- The n bytes from offset `from_` on, each from the list where it holds one, else from `base`. -/
def overlay (fwd : List (Nat × Byte)) (from_ : Nat) : Nat → List Byte → List Byte
  | _, [] => []
  | i, b :: bs => ((fwd.find? (fun p => p.1 == from_ + i)).map (·.2)).getD b :: overlay fwd from_ (i + 1) bs

/-- n bytes from offset `off` of a line on. -/
def lineBytes (data : List Byte) (off n : Nat) : List Byte := (List.range n).map fun i => (data[off + i]?).getD 0#8

/-- The cause of an access that another device refused (R68): code 1 for a key, 4 for a poisoned word, else a die, a core or a
realm that does not exist there. -/
def refusal (code va : Nat) : Flt := { code := if code = 1 then 0x20 else if code = 4 then 0x21 else 0x13, addr := va }

/-- The new value of an atomic (R250, R252, R336): operand width n bytes, old value, operand, second operand. -/
def AmoOp.apply (op : AmoOp) (n old v w : Nat) : Nat :=
  let m : Nat := 2 ^ (8 * n)
  let sg (x : Nat) : Int := if 2 ^ (8 * n - 1) ≤ x then (x : Int) - m else x
  match op with
  | .swap => v
  | .add => (old + v) % m
  | .and => old &&& v
  | .or => old ||| v
  | .xor => old ^^^ v
  | .min => if sg v < sg old then v else old
  | .max => if sg old < sg v then v else old
  | .minz => if v < old then v else old
  | .maxz => if old < v then v else old
  | .fadd => (fAdd .f32 .rne old v).1
  | .fmin => (fMinMax .f32 false old v).1
  | .fmax => (fMinMax .f32 true old v).1
  | .cas => if old = w then v else old
  | .post => v + (old / 2 ^ 64 + 1) % 2 ^ 64 * 2 ^ 64

namespace State

/-- A cluster's cache takes the bytes of a store that drains from a buffer of the cluster, if it holds the line, with the words of it
that are poisoned (R70, R382); a word that the store covers whole is poisoned no longer than that (R383). -/
def cacheUpdate (s : State) (ck addr : Nat) (bs : List (Nat × Byte)) (marks : List Nat) : State :=
  if (s.clusterSt ck).cache.any (·.addr == addr) then
    let put (l : CLine) : CLine :=
      if l.addr == addr then { l with data := overlay bs 0 0 l.data, marks := keptMarks l.marks bs ++ marks } else l
    s.modCluster ck fun c => { c with cache := c.cache.map put }
  else s

/-- A cluster's cache drops the line of a location that the cluster has written at its home without its combining buffers: a
strong access, an atomic, a copy unit's write. The cache may evict any line at any time, and no access of the cluster then finds
older bytes than the cluster's own (R70, R81, R87, log 110). -/
def dropLine (s : State) (rid ck : Nat) (l : Loc) : State :=
  let la := locAddr rid l / 64 * 64
  if (s.clusterSt ck).cache.any (·.addr == la) then
    s.modCluster ck fun c => { c with cache := c.cache.filter (·.addr != la) }
  else s

/-- A home memory agent performs a request: one write of the enabled bytes (R71, R88). -/
def performAgent (s : State) (r : AgentReq) : State :=
  let t := (s.wrLoc r.rid r.loc r.bytes).countWrite r.loc
  let t := r.marks.foldl (fun u w => u.markPoison (locAddr r.rid r.loc + 8 * w)) t
  t.cacheUpdate (clusterKey r.rid r.core) (locAddr r.rid r.loc) r.bytes r.marks

/-- Perform those queued requests that `p` picks, in order. -/
def flushAgent (s : State) (p : AgentReq → Bool) : State :=
  (s.agentQ.filter p).foldl performAgent { s with agentQ := s.agentQ.filter fun r => !p r }

/-- A combining-buffer entry leaves for its home (R71). For another device's memory its address is that of its lowest enabled
byte: a refusal names it as the address of the store (R377, log 108). -/
def postDrain (s : State) (rid core : Nat) (e : CbEnt) : State :=
  match e.loc with
  | .far .. =>
    let id := (s.coreSt (coreKey rid core)).outNext
    let r : FarReq :=
      { rid := rid, core := core, id := id, loc := e.loc, va := e.va + e.bytes.foldl (fun m p => min m p.1) 63, size := 64,
        op := .store [], bytes := e.bytes, marks := e.marks }
    { s with farQ := s.farQ ++ [r] }.modCore (coreKey rid core) fun c => { c with outNext := c.outNext + 1 }
  | _ => { s with agentQ := s.agentQ ++ [{ rid := rid, core := core, loc := e.loc, va := e.va, bytes := e.bytes, marks := e.marks }] }

/-- The buffer entry of a line drains, if there is one (R71). -/
def drainLine (s : State) (rid core : Nat) (l : Loc) : State :=
  let ck := coreKey rid core
  match (s.coreSt ck).cbuf.find? (fun e => e.loc.same l.line) with
  | some e => (s.modCore ck fun c => { c with cbuf := c.cbuf.filter fun x => !x.loc.same l.line }).postDrain rid core e
  | none => s
/-- Every buffer entry of a core drains. -/
def drainAll (s : State) (rid core : Nat) : State :=
  let ck := coreKey rid core
  (s.coreSt ck).cbuf.foldl (fun t e => t.postDrain rid core e) (s.modCore ck fun c => { c with cbuf := [] })

/-- The core's own queued writes to a line are performed at the home (R82). -/
def flushLine (s : State) (rid core : Nat) (l : Loc) : State :=
  s.flushAgent fun r => r.rid == rid && r.core == core && r.loc.line.same l.line

/-- A weak store to device memory enters the combining buffer (R71); a word that it covers whole is no longer poisoned there (R382,
R383). -/
def bufferStore (s : State) (rid core : Nat) (l : Loc) (va : Nat) (bs : List Byte) : State :=
  let ck := coreKey rid core
  let new := enumBytes l.inLine bs
  let buf := (s.coreSt ck).cbuf
  let s1 : State := match buf.find? (fun e => e.loc.same l.line) with
    | some _ =>
      let put (e : CbEnt) : CbEnt := if e.loc.same l.line then { e with bytes := mergeBytes e.bytes new, marks := keptMarks e.marks new } else e
      s.modCore ck fun c => { c with cbuf := c.cbuf.map put }
    | none =>
      let t := match buf with
        | e :: rest => if 8 ≤ buf.length then (s.modCore ck fun c => { c with cbuf := rest }).postDrain rid core e else s
        | [] => s
      t.modCore ck fun c => { c with cbuf := c.cbuf ++ [{ loc := l.line, va := va / 64 * 64, bytes := new, born := s.clock }] }
  if ((s1.coreSt ck).cbuf.find? (fun e => e.loc.same l.line)).any (fun e => 64 ≤ e.bytes.length) then s1.drainLine rid core l else s1

/-- A read request for a location's line by an instruction or chunk that has requested the lines `sent` already: a line
counts once for it (R73). -/
def countLine (s : State) (dk : Nat) (l : Loc) (sent : List Loc) : List Loc × State :=
  if sent.any (·.same l.line) then (sent, s) else (l.line :: sent, s.countRead dk l)

/-- Whether n bytes from offset `off` of a line touch one of its marked words. -/
def touches (marks : List Nat) (off n : Nat) : Bool := marks.any fun w => off / 8 ≤ w && w ≤ (off + n - 1) / 8
/-- The line of a cluster's cache that serves a weak read of n bytes from offset `off` of the line at `la`: none where the cache does
not hold it, or has dropped it by now, or holds it with a poisoned word among those bytes (R70, R383, log 5). -/
def cacheHit (s : State) (ck la off n : Nat) : Option CLine :=
  match (s.clusterSt ck).cache.find? (fun c => c.addr == la) with
  | some c => if Config.cacheDrop (s.fresh * 2 ^ 46 + la % 2 ^ 46) || touches c.marks off n then none else some c
  | none => none
/-- The words of a line that are poisoned at home. -/
def lineMarks (s : State) (la : Nat) : List Nat := (List.range 8).filter fun w => s.poisoned (la + 8 * w) 8

/-- A weak read of device memory on this device by a core or an engine of a cluster: from the cluster cache, or the whole
line from the home, which the cache may install (R70, R73). Beside the bytes, the lines requested so far. -/
def cachedRead (s : State) (rid dk ck : Nat) (l : Loc) (n : Nat) (sent : List Loc) : List Byte × List Loc × State :=
  let a := locAddr rid l
  let la := a / 64 * 64
  match s.cacheHit ck la (a % 64) n with
  | some c => (lineBytes c.data (a % 64) n, sent, s)
  | none =>
    let (sent', t) := s.countLine dk l sent
    let line := t.rdBytes la (locKey l) 64
    let held := (t.clusterSt ck).cache.filter (·.addr != la)
    let new := if Config.cacheInstall (s.fresh * 2 ^ 46 + la % 2 ^ 46) then
        { addr := la, data := line, marks := t.lineMarks la } :: held.take 8191 else held
    (lineBytes line (a % 64) n, sent', t.modCluster ck fun x => { x with cache := new })

/-- The enabled bytes that a core's combining buffer holds of a location's line (R71). -/
def bufBytes (s : State) (rid core : Nat) (l : Loc) : List (Nat × Byte) :=
  (((s.coreSt (coreKey rid core)).cbuf.find? (fun e => e.loc.same l.line)).map (·.bytes)).getD []
/-- Whether bytes by offset in a line hold all n from a location on. -/
def covers (fwd : List (Nat × Byte)) (l : Loc) (n : Nat) : Bool := (List.range n).all fun i => fwd.any fun p => p.1 == l.inLine + i

/-- A weak load of device memory on this device by a core (R70, R71, R82). Beside the bytes, the lines requested so far. -/
def weakLoad (s : State) (rid core : Nat) (l : Loc) (n : Nat) (sent : List Loc) : List Byte × List Loc × State :=
  let t := s.flushLine rid core l
  let fwd := t.bufBytes rid core l
  if covers fwd l n then (overlay fwd l.inLine 0 (List.replicate n 0#8), sent, t)
  else
    let (bs, sent', u) := t.cachedRead rid (dieKey rid (coreDie core)) (clusterKey rid core) l n sent
    (overlay fwd l.inLine 0 bs, sent', u)
/-- Whether a weak load of a core meets a poisoned word: what its own stores or the cluster cache serve is not poisoned (R383). -/
def weakPoison (s : State) (rid core : Nat) (l : Loc) (n : Nat) : Bool :=
  let t := s.flushLine rid core l
  let a := locAddr rid l
  !covers (t.bufBytes rid core l) l n && (t.cacheHit (clusterKey rid core) (a / 64 * 64) (a % 64) n).isNone && t.poisoned a n
/-- Whether a strong access of a core meets a poisoned word, once its own stores to the line are performed (R71, R383). -/
def strongPoison (s : State) (rid core : Nat) (l : Loc) (n : Nat) : Bool :=
  match l with
  | .lm .. => s.poisoned (locAddr rid l) n
  | _ => ((s.drainLine rid core l).flushLine rid core l).poisoned (locAddr rid l) n

/-- A strong read at the home (R76, R249). A `quiet` one is none of the cluster's read requests (R73, log 31). -/
def strongRead (s : State) (rid core : Nat) (quiet : Bool) (l : Loc) (n : Nat) : Nat × State :=
  match l with
  | .lm .. => (s.rdNum rid l n, s)
  | _ =>
    let t := (s.drainLine rid core l).flushLine rid core l
    let t := if quiet then t.countServed l else t.countRead (dieKey rid (coreDie core)) l
    (t.rdNum rid l n, t)

/-- A strong write at the owner (R76, R249). -/
def strongWrite (s : State) (rid core : Nat) (l : Loc) (n v : Nat) : State :=
  match l with
  | .lm .. => s.wrNum rid l n v
  | _ => ((((s.drainLine rid core l).flushLine rid core l).wrNum rid l n v).countWrite l).dropLine rid (clusterKey rid core) l

/-- Whether a switch may combine an operation: integer fetch-and-add, and integer and FP32 min and max (R89). -/
def combinable (op : AmoOp) : Bool :=
  match op with
  | .add | .min | .max | .minz | .maxz | .fmin | .fmax => true
  | _ => false
/-- Whether an atomic on a location has been combined with the one that the step before performed there: same address,
operation, size, order and scope, both from other dies than the home's; whether they met is free (R89, log 26). -/
def combines (s : State) (rid core : Nat) (m : Meeting) : Bool :=
  match s.meeting with
  | some p => p.at_ + 1 == s.fresh && { p with at_ := m.at_ } == m && combinable m.op && Config.switchCombine s.fresh
      && s.dieOwner (m.addr / 2 ^ 39) != some (rid, coreDie core)
  | none => false

/-- An atomic at the owner, as one indivisible step (R67, R78, R251): the old value. A poisoned word is left unchanged by
its caller (R383). A failed compare and swap writes nothing (R252). One that a switch has combined with the atomic before it
counts at the home with that one alone (R73, R89). -/
def atomicAt (s : State) (rid core : Nat) (l : Loc) (n : Nat) (op : AmoOp) (v w : Nat)
    (order : BitVec 5 := 0#5) : Nat × State :=
  match l with
  | .lm .. =>
    let old := s.rdNum rid l n
    if op = .cas ∧ old ≠ w then (old, s) else (old, s.wrNum rid l n (op.apply n old v w))
  | _ =>
    let t := (s.drainLine rid core l).flushLine rid core l
    let old := t.rdNum rid l n
    let m : Meeting := { at_ := s.fresh, addr := locAddr rid l, op := op, size := n, order := order }
    let t := if t.combines rid core m then t else (t.countServed l).countWrite l
    let t := { t with meeting := if s.dieOwner (m.addr / 2 ^ 39) = some (rid, coreDie core) then none else some m }
    let t := if op = .cas ∧ old ≠ w then t else t.wrNum rid l n (op.apply n old v w)
    (old, t.dropLine rid (clusterKey rid core) l)

/-- The owner's service slot performs a remote access: value read, new state (R53, R59). In the reply to a weak load the bytes of the
core's queued stores replace the owner's (R82). -/
def performRemote (s : State) (r : RemReq) : Nat × State :=
  let l : Loc := .lm r.core r.off
  match r.op with
  | .load => (ofBytes (overlay r.fwd 0 0 (s.rdLoc r.rid l r.size)), s)
  | .store bs =>
    let t := s.wrLoc r.rid l (enumBytes 0 bs)
    (0, if r.mark then t.markPoison (locAddr r.rid l) else t)
  | .amo op v w => s.atomicAt r.rid r.src l r.size op v w

/-- Perform those queued remote stores that `p` picks, in order; their outbound entries are acknowledged (R82). A fenced core
takes none (R390), and a vector element waits for its answer (R272). -/
def flushRemote (s : State) (p : RemReq → Bool) : State :=
  let isStore (r : RemReq) : Bool := match r.op with
    | .store _ => p r && !r.elem && !(s.coreSt (coreKey r.rid r.core)).fenced
    | _ => false
  (s.rnet.filter isStore).foldl
    (fun t r => (t.performRemote r).2.modCore (coreKey r.rid r.src) fun c => { c with outq := c.outq.filter (·.id != r.id) })
    { s with rnet := s.rnet.filter fun r => !isStore r }

/-- Acknowledgements that the owners have sent already reach the core: the entries that `p` picks of its posted stores are free, and
loads are no longer answered from them (R82, R247). -/
def takeAcks (s : State) (rid core : Nat) (p : OutEnt → Bool) : State :=
  let k := coreKey rid core
  let mine := (s.coreSt k).outq.filter fun e => e.store && p e
  let acked (r : Reply) : Bool := r.rid == rid && r.core == core && r.elem.isNone && mine.any (·.id == r.id)
  let ids := (s.replies.filter acked).map (·.id)
  if ids.isEmpty then s
  else { s with replies := s.replies.filter (!acked ·) }.modCore k fun c => { c with outq := c.outq.filter fun e => !ids.contains e.id }
/-- Whether a core's LM lies within the instance of a scope that a release of core `core` has, for a store that is posted there (R22,
R77). -/
def within (core owner scope : Nat) : Bool := coreDie owner == coreDie core && 3 ≤ scope || 4 ≤ scope

/-- Queued store bytes that cover LM of another core, newest last, by absolute LM-window offset (R82). -/
def queuedStores (s : State) (ck core off n : Nat) : List (Nat × Byte) :=
  (s.coreSt ck).outq.foldl (fun acc e =>
    if e.store then mergeBytes acc ((enumBytes 0 e.bytes).filterMap fun p =>
      let at_ := e.addr + p.1
      if core * 2 ^ 18 + off ≤ at_ && at_ < core * 2 ^ 18 + off + n then some (at_ - (core * 2 ^ 18 + off), p.2) else none)
    else acc) []

/-- The bytes of a line on another device that the core's own stores hold: in requests that are not answered, then in the
combining buffer (R71, R82). -/
def farOwn (s : State) (rid core : Nat) (l : Loc) : List (Nat × Byte) :=
  let sent := (s.farQ.filter fun r => r.rid == rid && r.core == core && r.unit.isNone && r.loc.line.same l.line).foldl
    (fun acc r => match r.op with
      | .store bs => mergeBytes acc (if r.bytes.isEmpty then enumBytes r.loc.inLine bs else r.bytes)
      | _ => acc) []
  match (s.coreSt (coreKey rid core)).cbuf.find? (fun e => e.loc.same l.line) with
  | some e => mergeBytes sent e.bytes
  | none => sent

/-- What a weak read of another device's memory finds on this one: the bytes, where the core's own stores or the cluster cache
hold them all, else that the line must be asked for (R70, R71, R82). A word that came poisoned is asked for again. -/
def farHeld (s : State) (rid core : Nat) (l : Loc) (n : Nat) : Option (List Byte) × State :=
  let fwd := s.farOwn rid core l
  if covers fwd l n then (some (overlay fwd l.inLine 0 (List.replicate n 0#8)), s)
  else match s.cacheHit (clusterKey rid core) (locAddr rid l / 64 * 64) l.inLine n with
    | some c => (some (overlay fwd l.inLine 0 (lineBytes c.data l.inLine n)), s)
    | none => (none, s.dropLine rid (clusterKey rid core) l)

/-- A line that another device has supplied may enter the cluster cache, with what the cluster's cores have stored to it since
(R70). -/
def farInstall (s : State) (rid ck : Nat) (l : Loc) (data : List Byte) (marks : List Nat) : State :=
  let la := locAddr rid l / 64 * 64
  let mine (r : FarReq) : Bool := r.rid == rid && clusterKey rid r.core == ck && r.unit.isNone && r.loc.line.same l.line
  if Config.cacheInstall (s.fresh * 2 ^ 46 + la % 2 ^ 46) && !(s.clusterSt ck).cache.any (·.addr == la) then
    let (line, ms) := (s.farQ.filter mine).foldl (fun p r => match r.op with
      | .store new =>
        let bs := if r.bytes.isEmpty then enumBytes r.loc.inLine new else r.bytes
        (overlay bs 0 0 p.1, keptMarks p.2 bs ++ r.marks)
      | _ => p) (data, marks)
    s.modCluster ck fun x => { x with cache := { addr := la, data := line, marks := ms } :: x.cache.take 8191 }
  else s

/-- Perform one element of a vector memory instruction or permute of a core's frame (R272, R273, R277), and the lines that the
instruction has requested then. An element that `awaits` is performed by its answer alone. -/
def performElem (rid core fk : Nat) (store : Bool) (p : List Loc × State) (e : VElem) : List Loc × State :=
  let (sent, s) := p
  match e.loc with
  | none => (sent, s.wvAt fk e.reg e.j e.val)
  | some l =>
    if store then
      match l with
      | .lm .. => (sent, s.wrLoc rid l (enumBytes 0 (toBytes 4 e.val.toNat)))
      | _ => (sent, s.bufferStore rid core l e.va (toBytes 4 e.val.toNat))
    else
      match l with
      | .dev .. =>
        let (bs, sent', u) := s.weakLoad rid core l 4 sent
        (sent', u.wvAt fk e.reg e.j (BitVec.ofNat 32 (ofBytes bs)))
      | .lm .. => (sent, s.wvAt fk e.reg e.j (BitVec.ofNat 32 (s.rdNum rid l 4)))
      | .far .. => (sent, s)

/-- Perform elements of an outstanding instruction, in order (R273): the lines it has requested then, and the state. -/
def performElems (s : State) (rid core fk : Nat) (o : VOp) (es : List VElem) : List Loc × State :=
  es.foldl (performElem rid core fk o.store) (o.lines, s)

end State

/-- An element of an instruction of core `core` that another device or another cluster's core performs: a load of another
device's memory, an access to LM outside the cluster (R247, R272). -/
def VElem.awaits (core : Nat) (store : Bool) (e : VElem) : Bool := match e.loc with
  | some (.far ..) => !store
  | some (.lm c _) => !sameCluster core c
  | _ => false

/-- Whether an outstanding vector memory instruction touches one of n bytes at a location (R273). -/
def vopsTouch (rid : Nat) (ops : List VOp) (l : Loc) (n : Nat) : Bool :=
  ops.any fun o => o.elems.any fun e =>
    e.loc.any fun x => locAddr rid x < locAddr rid l + n && locAddr rid l < locAddr rid x + 4

namespace State

/-- The oldest k outstanding vector memory instructions of a frame are performed, in issue order (R273); elements that others
perform stay outstanding. -/
def flushSome (s : State) (rid core frame k : Nat) : State :=
  let fk := unitKey rid core frame
  let ops := (s.frameSt fk).vops
  let todo := ops.take k
  let rest := todo.filterMap fun o =>
    let left := o.elems.filter (·.awaits core o.store)
    if left.isEmpty then none else some { o with elems := left }
  todo.foldl (fun t o => (t.performElems rid core fk o (o.elems.filter (!·.awaits core o.store))).2)
    (s.modFrame fk fun f => { f with vops := rest ++ ops.drop k })
/-- Every outstanding vector memory instruction of a frame is performed, as far as the core performs it. -/
def flushVops (s : State) (rid core frame : Nat) : State := s.flushSome rid core frame 16

/-- Answers from other devices that a release of a core's task still waits for: the core's drained lines, and the task's own
stores and vector loads (R77, R247, R249, R273). -/
def farPending (s : State) (rid core frame : Nat) : Bool :=
  s.farQ.any fun r => r.rid == rid && r.core == core && r.unit.isNone && (!r.bytes.isEmpty || r.frame == frame && (r.vel.isSome || match r.op with
    | .store _ => true
    | _ => false))
/-- Vector elements of a task that other cores or devices perform, and that are outstanding. -/
def elemPending (s : State) (rid core frame : Nat) : Bool :=
  (s.frameSt (unitKey rid core frame)).vops.any fun o => o.elems.any (·.awaits core o.store)
/-- Vector loads of a task whose values are outstanding at other cores (R253). -/
def loadPending (s : State) (rid core frame : Nat) : Bool :=
  (s.frameSt (unitKey rid core frame)).vops.any fun o => !o.store && o.elems.any (·.awaits core o.store)
/-- Lines of other devices' memory that a release would drain and then wait for: those in the combining buffer, and those that the
task's vector stores will put there (R71, R77). -/
def farHeldBack (s : State) (rid core frame : Nat) : Bool :=
  let far (l : Loc) : Bool := match l with
    | .far .. => true
    | _ => false
  (s.coreSt (coreKey rid core)).cbuf.any (fun e => far e.loc)
    || (s.frameSt (unitKey rid core frame)).vops.any fun o => o.store && o.elems.any fun e => e.loc.any far
/-- A posted store of a task, to a core within the scope, that a fenced core will not acknowledge (R77, R253, R390). -/
def lostStore (s : State) (rid core frame scope : Nat) : Bool :=
  (s.coreSt (coreKey rid core)).outq.any fun e =>
    e.frame == frame && e.store && (s.coreSt (coreKey rid (e.addr / 2 ^ 18))).fenced && within core (e.addr / 2 ^ 18) scope
      && !s.replies.any fun r => r.rid == rid && r.core == core && r.id == e.id

/-- Every access of a task that has left the core or can leave it is performed, as a release does (R77): its vector memory
instructions, with `drain` the core's combining buffer, and its posted stores to cores within the scope, which are acknowledged
then. -/
def performEarlier (s : State) (rid core frame scope : Nat) (drain : Bool) : State :=
  let t := s.flushVops rid core frame
  let t := if drain then t.drainAll rid core else t
  let t := if 2 ≤ scope then t.flushAgent (fun r => r.rid == rid && r.core == core) else t
  (t.flushRemote fun r => r.rid == rid && r.src == core && r.frame == frame && within core r.core scope).takeAcks rid core
    fun e => e.frame == frame && within core (e.addr / 2 ^ 18) scope
/-- A release of scope code `scope` by a task of a core (R77): every earlier access of the task is performed with respect to
the scope's agents. The caller has made sure that no answer from elsewhere is missing (`canReleaseBy`). -/
def releaseBy (s : State) (rid core frame scope : Nat) : State := s.performEarlier rid core frame scope (2 ≤ scope)
/-- Whether a release of the scope by a task can be performed now: nothing that it must wait for is outstanding (log 32). -/
def canReleaseBy (s : State) (rid core frame scope : Nat) : Bool :=
  scope < 2 && !s.elemPending rid core frame
    || !s.farPending rid core frame && !s.elemPending rid core frame && !s.farHeldBack rid core frame
      && !s.lostStore rid core frame scope
/-- An acquire: one of scope die or wider empties the cluster cache (R70). Stores of the core that their owners have performed answer no
later load, which might otherwise miss a write that follows them (R81, R82, log 132). -/
def acquireBy (s : State) (rid core scope : Nat) : State :=
  let t := s.takeAcks rid core fun _ => true
  if 3 ≤ scope then t.modCluster (clusterKey rid core) fun c => { c with cache := [] } else t

/-- Whether a release of the scope can be performed now by the issuing task (log 32). -/
def canRelease (s : State) (scope : Nat) : Bool := s.canReleaseBy s.cur.rid s.cur.core s.me.frame scope
/-- The issuing task's release waits (R77): what it can send on its way leaves now, and the instruction is issued again. -/
def awaitRelease (s : State) (scope : Nat) (w : Wait) : State :=
  (s.releaseBy s.cur.rid s.cur.core s.me.frame scope).waitFor w
/-- The issuing task waits for its vector memory instructions: those that the core performs are performed now, and the instruction is
issued again. -/
def awaitVops (s : State) (w : Wait) : State := (s.flushVops s.cur.rid s.cur.core s.me.frame).waitFor w
/-- The release that the issue of an engine command is (R92): scope .oct, but the command follows every earlier access of the
task; what the combining buffer holds is not seen by the engine. -/
def engineRelease (s : State) : State := s.performEarlier s.cur.rid s.cur.core s.me.frame 4 false
/-- Whether that release can be performed now. -/
def canEngine (s : State) : Bool :=
  !s.farPending s.cur.rid s.cur.core s.me.frame && !s.elemPending s.cur.rid s.cur.core s.me.frame
    && !s.lostStore s.cur.rid s.cur.core s.me.frame 4
/-- The scope of a strong write's release part: its own, or what the task's release fences have lent to it (R77). -/
def relScope (s : State) (own : Option Nat) : Option Nat :=
  match own, s.me.lent with
  | some sc, n => some (max sc (n - 1))
  | none, 0 => none
  | none, n + 1 => some n
/-- A release by the issuing task. -/
def release (s : State) (scope : Nat) : State := s.releaseBy s.cur.rid s.cur.core s.me.frame scope
/-- An acquire by the issuing task. -/
def acquire (s : State) (scope : Nat) : State := s.acquireBy s.cur.rid s.cur.core scope

/-- The narrowest scope that covers two cores of one device (R74). -/
def cover (a b : Nat) : Nat :=
  if a = b then 0
  else if coreDie a ≠ coreDie b then 4
  else if octetIx a = octetIx b then 1
  else if clusterIx a = clusterIx b then 2
  else 3

end State
end Sys2Proof.Machine
end

