-- ==== Sys2Proof/Machine/Power.lean ====
section
/-! DEFINITION. Module reset, the boot that ends power state D4, and the return to D0 (21_host_realms_power.md, R356, R358;
25_link_recovery.md, R407). -/

namespace Sys2Proof.Machine

/-- First address of a realm's LM in the table of bytes, and the bytes from there that are its own. -/
def lmFirst (rid : Nat) : Nat := lmAddr rid 0 0
/-- Bytes of the table that a realm's LM takes. -/
def lmSpan : Nat := 2 ^ 38

namespace State

/-- A module reset ends every realm and boots the firmware accepted last (R358, R407). Device memory keeps its bytes, every key is
lost, what was made at test stays, and what the module has sent stays sent (log 102). -/
def moduleReset (s : State) : State :=
  { State.reset with
    mem := s.mem.clear (lmFirst 0) (lmFirst 64), poison := s.poison.clear (lmFirst 0 / 8) (lmFirst 64 / 8)
    keyNext := s.keyNext, fresh := s.fresh, sched := s.sched, cur := s.cur, grpNext := s.grpNext
    hostOut := s.hostOut, wire := s.wire, farAns := s.farAns, mstep := s.mstep, boot := s.boot
    firm := s.firmNext.getD s.firm, rollback := s.rollback, fuse := s.fuse, identity := s.identity, chain := s.chain }

/-- Leaving D4 boots the firmware as at reset (R356); the host's side of its port stays as it is (log 102). -/
def bootUp (s : State) : State :=
  { s.moduleReset with
    hostUp := s.hostUp, hostOff := s.hostOff, hostHeld := s.hostHeld, pend := s.pend, hldown := s.hldown, msix := s.msix }

/-- Whether the device may take the host's next access: the link is up, and every write of the host that is on its way to another device has
been performed: host posted writes happen before later ones, and a host read is performed after them (R90). -/
def hostReady (s : State) : Bool := s.hostUp && !s.farQ.any (·.unit == some 6)

/-- The module returns to D0 (R356). -/
def wake (s : State) : State := if s.power = 4 then s.bootUp else { s with power := 0 }

end State
end Sys2Proof.Machine
end

