-- ==== Sys2Proof/Machine/Links.lean ====
section
/-! DEFINITION. Scale-up framing and sending (08_scheduling.md, R178; 25_link_recovery.md, R396 to R402; 26_prog_lane_loss.md,
R410): flits, their CRC, the retry buffer, and how a message leaves through a port. -/

namespace Sys2Proof.Machine

/-! ### Header fields (R23) -/

/-- LEN. -/
def h0Len (h : Word) : Nat := bitsOf h.toNat 57 51
/-- CLASS. -/
def h0Class (h : Word) : Nat := bitsOf h.toNat 50 49
/-- DIRECT. -/
def h0Direct (h : Word) : Bool := h.getLsbD 48
/-- CTR. -/
def h0Ctr (h : Word) : Nat := bitsOf h.toNat 47 40
/-- HIX. -/
def h0Hix (h : Word) : Nat := bitsOf h.toNat 39 32
/-- DDEV. -/
def h0Ddev (h : Word) : Nat := bitsOf h.toNat 31 20
/-- DCORE. -/
def h0Dcore (h : Word) : Nat := bitsOf h.toNat 19 0
/-- ORD. -/
def h1Ord (h : Word) : Bool := h.getLsbD 57
/-- RPLY. -/
def h1Rply (h : Word) : Bool := h.getLsbD 56
/-- POFF. -/
def h1Poff (h : Word) : Nat := bitsOf h.toNat 17 0
/-! ### Flits -/

/-- One bit of the CRC (IEEE 802.3 polynomial, least significant bit first; log 18). -/
def crcBit (c : Nat) : Nat := if c % 2 = 1 then c / 2 ^^^ 0xEDB88320 else c / 2
/-- One byte of the CRC. -/
def crcByte (c : Nat) (b : Byte) : Nat :=
  crcBit (crcBit (crcBit (crcBit (crcBit (crcBit (crcBit (crcBit (c ^^^ b.toNat))))))))
/-- CRC-32 of bytes under a seed (R178). -/
def crc32 (seed : Nat) (bs : List Byte) : Nat := (bs.foldl crcByte seed) ^^^ 0xFFFFFFFF

/-- Flits that take a sequence number (R396). -/
def sequenced (kind : Nat) : Bool := kind == 1 || kind == 2 || kind == 5 || kind == 6
/-- The CRC seed of a flit (R178, R396). -/
def flitSeed (esq : Bool) (kind seq : Nat) : Nat :=
  if esq || !sequenced kind then 0xFFFFFFFF else 0xFFFFFFFF ^^^ seq
/-- A flit: header, 248 data bytes of which `n` are valid, CRC (R178). -/
def mkFlit (esq : Bool) (kind seq n : Nat) (data : List Byte) : List Byte :=
  let body := toBytes 4 ((if esq then seq * 2 ^ 20 else 0) + kind * 2 ^ 16 + n * 2 ^ 8) ++ data
  body ++ toBytes 4 (crc32 (flitSeed esq kind seq) body)

/-- The 48 bytes of header and arguments, and the payload: what a message is on a link (R23, log 44). -/
def msgBytes (m : Msg) : List Byte :=
  toBytes 8 m.h0.toNat ++ toBytes 8 m.h1.toNat ++ toBytes 8 m.a0.toNat ++ toBytes 8 m.a1.toNat ++ toBytes 8 m.a2.toNat
    ++ toBytes 8 m.a3.toNat ++ m.payload
/-- Pieces of 248 bytes. -/
def flitPieces : Nat → List Byte → List (List Byte)
  | 0, _ => []
  | n + 1, bs => if bs.isEmpty then [] else bs.take 248 :: flitPieces n (bs.drop 248)

namespace State

/-- Data bytes of a flit: the valid ones, then bytes that the manual leaves open (log 11, log 45). -/
def padFlit (s : State) (p : Nat) (data : List Byte) : List Byte :=
  data ++ (List.range (248 - data.length)).map fun i => Config.freeByte s.fresh (p * 256 + i)
/-- Put a flit on the wire of a port. -/
def putWire (s : State) (p : Nat) (flit : List Byte) : State := { s with wire := s.wire ++ [(p, flit)] }
/-- Send an unsequenced flit: under ESQ it carries the next number without taking it (R396). -/
def sendPlain (s : State) (p kind n : Nat) (data : List Byte) : State :=
  s.putWire p (mkFlit (s.port p).esq kind (s.port p).next n (s.padFlit p data))
/-- ASEQ of an acknowledge or negative-acknowledge flit (R396). -/
def aseqBytes (v : Nat) : List Byte := toBytes 2 (v % 4096)
/-- Acknowledge everything accepted (R398). -/
def sendAck (s : State) (p : Nat) : State :=
  (s.sendPlain p 3 2 (aseqBytes ((s.port p).e + 4095))).modPort p fun x => { x with fresh := 0 }
/-- Send NAK(E − 1) (R397). -/
def sendNak (s : State) (p : Nat) : State :=
  (s.sendPlain p 4 2 (aseqBytes ((s.port p).e + 4095))).modPort p fun x => { x with naktx := x.naktx + 1 }
/-- Send a sequenced flit: it takes the next number and enters the retry buffer (R396); the poison marks of its data words go with it
(R382, R383, log 44). -/
def sendSeq (s : State) (p kind n : Nat) (data : List Byte) (marks : List Nat) : State :=
  let x := s.port p
  let full := s.padFlit p data
  (s.putWire p (mkFlit x.esq kind x.next n full)).modPort p fun y =>
    let kept := y.marks.filter (·.1 != y.next)
    { y with next := (y.next + 1) % 4096, begun := true, buf := y.buf ++ [(y.next, kind * 256 + n, full)],
             since := if y.buf.isEmpty then s.clock else y.since
             marks := if marks.isEmpty then kept else (y.next, marks) :: kept }
/-- Whether a port may send a new sequenced flit: it is UP, no replay is in progress, its partner's NAK has come after a retraining,
and its retry buffer has room (R396, R399, R401, R402). -/
def maySend (s : State) (p : Nat) : Bool :=
  let x := s.port p
  x.state == 2 && x.back == 0 && !x.await && x.buf.length < 512

/-- The port for a device: none where the route table names none (R410). -/
def routeOf (s : State) (dev : Nat) : Option Nat :=
  let e := s.route.get 0 dev
  if e.testBit 15 then some (e % 32) else none

/-- Whether a device's memory can be reached: the route table names a port for it, and that port is UP (R402, R410). -/
def linked (s : State) (l : Loc) : Bool :=
  match l with
  | .far dev .. => (s.routeOf dev).any fun p => (s.port p).state == 2
  | _ => true

/-- A message can come from a device: the port that leads there is UP (R402, R410). -/
def hears (s : State) (dev : Nat) : Bool := (s.routeOf dev).any fun p => (s.port p).state == 2

/-- The flits of a message (R178): KIND 1 for the first, 2 for the others. -/
def msgFlits (m : Msg) : List (Nat × Nat × List Byte) :=
  ((flitPieces 20 (msgBytes m)).zipIdx).map fun d => (if d.2 = 0 then 1 else 2, d.1.length, d.1)
/-- Words of the data of piece k of a message that carry a poison mark: a flit holds 31 words, and the header and the arguments
take the first six (R23, R178, R383). -/
def pieceMarks (m : Msg) (k : Nat) : List Nat :=
  (m.marks.filter fun w => (w + 6) / 31 == k).map fun w => (w + 6) % 31
/-- Whether what goes to a device leaves through a port (R410). -/
def goesBy (s : State) (p dev : Nat) : Bool := s.routeOf dev == some p

/-- A port takes the next thing that waits for it: a single flit, a request to another device, an answer, a message. Requests and
answers have no format in the manual: one flit with bytes that it leaves open (R66, R68, R402, R410, log 45). -/
def takeOne (s : State) (p : Nat) : State :=
  let put (t : State) (l : List (Nat × Nat × List Byte)) : State := t.modPort p fun x => { x with tx := l }
  match (s.port p).singles with
  | (kind, data) :: rest => (s.modPort p fun x => { x with singles := rest, tx := [(kind, data.length, data)] })
  | [] =>
    let far (r : FarReq) : Bool := !r.sent && match r.loc with
      | .far dev .. => s.goesBy p dev
      | _ => false
    match s.farQ.findIdx? far with
    | some i => put { s with farQ := s.farQ.modify i fun r => { r with sent := true } } [(1, 248, [])]
    | none =>
      match s.farAns.findIdx? fun a => !a.sent && s.goesBy p a.dev with
      | some i => put { s with farAns := s.farAns.modify i fun a => { a with sent := true } } [(1, 248, [])]
      | none =>
        match s.net.findIdx? fun m => m.ddev != 0xFFF && s.goesBy p m.ddev with
        | none => s
        | some i =>
          match s.net[i]? with
          | none => s
          | some m => ({ s with net := s.net.eraseIdx i }).modPort p fun x => { x with tx := msgFlits m, txMsg := some m }

/-- The last flit of a message has left: one that a destination core answers is kept until the answer (R68, log 46). -/
def msgLeft (s : State) (p : Nat) : State :=
  match (s.port p).txMsg with
  | none => s
  | some m =>
    let t := s.modPort p fun x => { x with txMsg := none }
    if h0Class m.h0 = 0 then t else { t with sentMsgs := t.sentMsgs ++ [{ m with payload := [], marks := [] }] }

/-- A port sends one flit, if it may and something waits: in a replay the next flit of the retry buffer, else a new one
(R396, R399, R401, R402). -/
def sendFlit (s : State) (p : Nat) : State :=
  let x := s.port p
  if x.state = 2 ∧ 0 < x.back then
    match x.buf[x.buf.length - x.back]? with
    | none => s.modPort p fun y => { y with back := 0 }
    | some e => (s.putWire p (mkFlit x.esq (e.2.1 / 256) e.1 (e.2.1 % 256) e.2.2)).modPort p fun y =>
        { y with back := y.back - 1, replays := y.replays + 1 }
  else if s.maySend p then
    let t := if x.tx.isEmpty then s.takeOne p else s
    match (t.port p).tx with
    | [] => t
    | (kind, n, data) :: rest =>
      let marks := match (t.port p).txMsg with
        | some m => pieceMarks m ((msgFlits m).length - (rest.length + 1))
        | none => []
      let u := (t.modPort p fun y => { y with tx := rest }).sendSeq p kind n data marks
      if rest.isEmpty then u.msgLeft p else u
  else s
/-- n flits, one after another. -/
def sendFlits (s : State) (p : Nat) : Nat → State
  | 0 => s
  | n + 1 => (s.sendFlit p).sendFlits p n

/-- Cycles that a flit takes about: 1 at 16 lanes, 2 at 8, 4 at 4 (R401). -/
def flitCycles (lanes : Nat) : Nat := if lanes = 0 then 1 else if lanes ≤ 2 then 2 else 4
/-- What the ports do while n cycles pass: an acknowledgement that is due within 256 cycles of an acceptance leaves (R398), and each port sends
as many flits as the cycles carry, at least one (R401, log 116). -/
def linkTime (s : State) (n : Nat) : State :=
  (s.ports.map (·.1)).foldl (fun t p =>
    let x := t.port p
    let t := if x.state = 2 ∧ 0 < x.fresh ∧ x.ackAt + 256 ≤ t.clock then t.sendAck p else t
    t.sendFlits p (max 1 (n / flitCycles x.lanes))) s

end State
end Sys2Proof.Machine
end

