-- ==== Sys2Proof/Machine/Ops.lean ====
section
/-! DEFINITION. Tasks, messages, counters and traps: the operations that instructions and units share. Creating a task (R38,
R39), the event port and its counters (R33, R34), starting, evicting, resuming and ending a task (R29, R30, R45 to R49,
R242), sending a message (R23, R258), and TAKING A TRAP, written once from R361 to R371. -/

namespace Sys2Proof.Machine

/-! ### Messages and fault records (R23, R363, R364) -/

/-- H0 from its fields (R23). -/
def mkH0 (len cls : Nat) (direct : Bool) (ctr hix ddev dcore : Nat) : Word :=
  BitVec.ofNat 64 (len * 2 ^ 51 + cls * 2 ^ 49 + (if direct then 2 ^ 48 else 0) + ctr * 2 ^ 40 + hix * 2 ^ 32 + ddev * 2 ^ 20 + dcore)
/-- H1 with the sender filled in by hardware (R24). -/
def mkH1 (ord rply : Bool) (rid sdev score poff : Nat) : Word :=
  BitVec.ofNat 64 ((if ord then 2 ^ 57 else 0) + (if rply then 2 ^ 56 else 0) + rid * 2 ^ 50 + sdev * 2 ^ 38 + score * 2 ^ 18 + poff)
/-- The source word of a started task (R30). -/
def sourceWord (m : Msg) : Word :=
  BitVec.ofNat 64 (m.score + m.sdev * 2 ^ 20 + (if h1Rply m.h1 then 2 ^ 32 else 0))

/-- SCORE of a unit's record: row 127, column 127 of its die (R363). -/
def unitCore (die : Nat) : Nat := mkCore die 127 127
/-- SCORE of an I/O die's record (R363). -/
def ioCore : Nat := mkCore 0 127 125

/-- A0 of a fault record (R364). -/
def recA0 (hix frame slot pc : Nat) (cmp async : Bool) (detail code : Nat) : Word :=
  BitVec.ofNat 64 (hix * 2 ^ 43 + frame * 2 ^ 39 + slot * 2 ^ 36 + pc % 2 ^ 18 * 2 ^ 18 + (if cmp then 2 ^ 17 else 0)
    + (if async then 2 ^ 16 else 0) + detail % 256 * 2 ^ 8 + code)

namespace State

/-- A message leaves (R258); one for another device waits for its port (R402, R410). -/
def send (s : State) (m : Msg) : State :=
  if m.ddev = 0xFFF ∨ m.ddev = s.fabid then { s with net := s.net ++ [{ m with ddev := 0xFFF }] }
  else { s with net := s.net ++ [m] }

/-- The message that carries a fault record to the trap handler core: class 1, ORD 1, system handler 0xF0 (R363). -/
def recordMsg (s : State) (rid score : Nat) (a0 a1 a2 a3 : Word) : Msg :=
  { rid := rid, sdev := s.fabid, score := score, h0 := mkH0 0 1 true 0 0xF0 0xFFF (s.realm rid).trapc,
    h1 := mkH1 true false rid s.fabid score 0, a0 := a0, a1 := a1, a2 := a2, a3 := a3 }

/-- An asynchronous report of a core (R366, R377): its number is the core's FSEQ. -/
def coreReport (s : State) (rid core code detail addr info w2 : Nat) : State :=
  let k := coreKey rid core
  let seq := (s.coreSt k).fseq
  let m := s.recordMsg rid core (recA0 0 0 0 0 false true detail code) (BitVec.ofNat 64 addr)
    (BitVec.ofNat 64 (info % 2 ^ 32 * 2 ^ 32 + w2 % 2 ^ 32))
    (BitVec.ofNat 64 (seq % 2 ^ 32 * 2 ^ 32 + s.cycle (dieKey rid (coreDie core)) % 2 ^ 32))
  (s.send m).modCore k fun c => { c with fseq := c.fseq + 1 }

/-- An asynchronous report of a die's unit (R363, R366): unit 0 Caddy, 1 Infuser, 2 Trail, 3 DCP, 7 I/O die 0. -/
def unitReport (s : State) (rid die unit code detail addr info w2 : Nat) : State :=
  let k := dieKey rid die * 8 + unit
  let seq := s.unitSeq.get 0 k
  let m := s.recordMsg rid (if unit = 7 then ioCore else unitCore die) (recA0 0 0 0 0 false true detail code)
    (BitVec.ofNat 64 addr) (BitVec.ofNat 64 (info % 2 ^ 32 * 2 ^ 32 + w2 % 2 ^ 32))
    (BitVec.ofNat 64 (seq % 2 ^ 32 * 2 ^ 32 + s.cycle (dieKey rid die) % 2 ^ 32))
  { s.send m with unitSeq := s.unitSeq.set 0 k (seq + 1) }

/-- UNITMEM of a unit (R377, R383). -/
def unitMem (s : State) (rid die unit : Nat) (f : Flt) : State := s.unitReport rid die unit 0x29 f.code f.addr unit 0

/-! ### Creating tasks (R38, R39) -/

/-- Tasks in the ready queues that have not started (R38). -/
def freshCount (s : State) (k : Nat) : Nat :=
  let c := s.coreSt k
  ((c.urgent ++ c.normal ++ c.backgr).filter fun i => match i with
    | .fresh _ => true
    | .resumed .. => false).length
/-- Whether the core can take one more created task (R39). -/
def hasRoom (s : State) (k : Nat) : Bool := (s.coreSt k).hold.length < 64
/-- Append an item to the ready queue of a class. -/
def pushReady (s : State) (k cls : Nat) (i : ReadyItem) : State :=
  s.modCore k fun c => match cls with
    | 1 => { c with urgent := c.urgent ++ [i] }
    | 3 => { c with backgr := c.backgr ++ [i] }
    | _ => { c with normal := c.normal ++ [i] }
/-- Create a task: into the ready queue of its class, or behind the creation hold (R38, R39). -/
def createTask (s : State) (k : Nat) (t : TaskRec) : State :=
  let t := { t with since := s.clock }
  if (s.coreSt k).hold.isEmpty && s.freshCount k < 64 then s.pushReady k t.cls (.fresh t)
  else s.modCore k fun c => { c with hold := c.hold ++ [t] }
/-- The tasks of one event, in order; those that find no room wait at the event port (R39). -/
def createTasks (s : State) (k : Nat) (ts : List TaskRec) : State :=
  ts.foldl (fun u t => if u.hasRoom k && (u.coreSt k).evq.isEmpty then u.createTask k t
    else u.modCore k fun c => { c with evq := c.evq ++ [.create t] }) s

end State

/-! ### Task records and the deque (R41, R42) -/

/-- LM offset of the spill area (R42). -/
def spillBase : Nat := 0x27000
/-- A task record (R41). -/
def recordOf (w a0 a1 : Word) (pusher : Nat) : TaskRec :=
  { hix := bitsOf w.toNat 7 0, cls := bitsOf w.toNat 9 8, steal := w.getLsbD 10, x10 := a0, x11 := a1,
    x14 := BitVec.ofNat 64 pusher, pusher := pusher }

/-- The 32 bytes of a task record (R41, log 25). -/
def recordBytes (t : TaskRec) : List Byte :=
  toBytes 8 (t.hix + t.cls * 2 ^ 8 + (if t.steal then 2 ^ 10 else 0)) ++ toBytes 8 t.x10.toNat ++ toBytes 8 t.x11.toNat ++ toBytes 8 0

namespace State

/-- The record that the spill area of a core holds at place i, oldest first: the 32 bytes, and the core that pushed it (R30). -/
def spilledAt (s : State) (rid core i : Nat) : TaskRec :=
  let w (k : Nat) : Word := BitVec.ofNat 64 (s.rdLmNum rid core (spillBase + 32 * i + 8 * k) 8)
  recordOf (w 0) (w 1) (w 2) (((s.coreSt (coreKey rid core)).spillBy[i]?).getD core)
/-- The record at the owner end of a core's deque (R42). -/
def ownerEnd (s : State) (rid core : Nat) : Option TaskRec :=
  let c := s.coreSt (coreKey rid core)
  match c.deque.getLast? with
  | some t => some t
  | none => if 0 < c.spilled then some (s.spilledAt rid core (c.spilled - 1)) else none

end State

/-! ### Trigger counters (R31, R33) -/

namespace Counter

/-- One fire: the fire count rises and a task is created from the binding, with the counter's index in x12 and the new
fire count in x13 (R33). -/
def fire (c : Counter) (ix : Nat) : Counter × List TaskRec :=
  match c.bind with
  | none => (c, [])
  | some b =>
    let n := c.fires + 1#32
    ({ c with fires := n }, [{ b with x12 := BitVec.ofNat 64 ix, x13 := n.zeroExtend 64, x14 := 0#64, x15 := 0#64 }])
/-- n fires in order. -/
def fireN (c : Counter) (ix : Nat) : Nat → Counter × List TaskRec
  | 0 => (c, [])
  | n + 1 =>
    let (c1, t) := c.fire ix
    let (c2, ts) := fireN c1 ix n
    (c2, t ++ ts)
/-- A zero crossing (R33). -/
def cross (c : Counter) (ix : Nat) : Counter × List TaskRec :=
  let v := if c.rep then c.reload else 0#32
  match c.state.toNat with
  | 1 =>
    let (d, ts) := c.fire ix
    if c.rep then ({ d with value := v }, ts) else ({ d with value := v, state := 0#2, bind := none }, ts)
  | 2 => if c.p < 255 then ({ c with p := c.p + 1, value := v }, []) else ({ c with ovf := true, value := v }, [])
  | _ => ({ c with state := 2#2, p := 1, value := v }, [])
/-- One decrement (R33). -/
def dec (c : Counter) (ix : Nat) : Counter × List TaskRec :=
  if c.state = 3#2 then
    if c.held < 65535 then ({ c with held := c.held + 1 }, []) else ({ c with ovf := true }, [])
  else if c.value = 0#32 then ({ c with exc := true }, [])
  else if c.value = 1#32 then c.cross ix
  else ({ c with value := c.value - 1#32 }, [])
/-- Bind (R33). -/
def bindTo (c : Counter) (ix : Nat) (b : TaskRec) : Counter × List TaskRec :=
  match c.state.toNat with
  | 2 =>
    let (d, ts) := fireN { c with bind := some b } ix c.p
    if c.rep then ({ d with state := 1#2, p := 0 }, ts) else ({ d with state := 0#2, p := 0, bind := none }, ts)
  | 3 => ({ c with bind := some b }, [])
  | _ => ({ c with state := 1#2, bind := some b }, [])
/-- Unbind (R33). -/
def unbind (c : Counter) : Counter :=
  match c.state.toNat with
  | 1 => { c with state := 0#2, bind := none }
  | 3 => { c with bind := none }
  | _ => c
/-- Arm (R33). -/
def arm (c : Counter) (ix : Nat) (v reload : BitVec 32) (rep : Bool) : Counter × List TaskRec :=
  let d := { c with p := 0, fires := 0#32, value := v, reload := reload, rep := rep }
  if c.state = 3#2 then ({ d with held := 0, zero := v == 0#32 }, [])
  else
    let d := { d with state := if c.bind.isSome then 1#2 else 0#2 }
    if v = 0#32 then d.cross ix else (d, [])
/-- Disable (R33). -/
def disable (c : Counter) : Counter := if c.state = 3#2 then c else { c with state := 3#2, zero := false }
/-- Enable (R33): the state that the remembered binding and p give, then a remembered zero crossing; the held decrements
are owed from then on. -/
def enable (c : Counter) (ix : Nat) : Counter × List TaskRec :=
  if c.state ≠ 3#2 then (c, [])
  else
    let (d, ts) := if c.bind.isSome then
        let (e, us) := fireN c ix c.p
        if c.p = 0 then ({ e with state := 1#2 }, us)
        else if c.rep then ({ e with state := 1#2, p := 0 }, us)
        else ({ e with state := 0#2, p := 0, bind := none }, us)
      else ({ c with state := if 0 < c.p then 2#2 else 0#2 }, [])
    let (d, us) := if c.zero then { d with zero := false }.cross ix else (d, [])
    ({ d with owed := c.held, held := 0 }, ts ++ us)
/-- Clear the sticky flags (R259). -/
def clearFlags (c : Counter) : Counter := { c with exc := false, ovf := false }

end Counter

/-- The creation of a task of an event that has taken effect already. -/
def PortEv.isCreate : PortEv → Bool
  | .create _ => true
  | _ => false
/-- A decrement or a dispatch lookup: what a message's delivery does at the port (R27). -/
def PortEv.isMessage : PortEv → Bool
  | .dec _ | .dispatch _ => true
  | _ => false

namespace State

/-- Store a counter after an event, report a flag that changed from 0 to 1 (R373), and create the event's tasks. -/
def setCtr (s : State) (rid core ix : Nat) (c : Counter) (ts : List TaskRec) : State :=
  let k := coreKey rid core
  let old := s.counter (k * 256 + ix)
  let t := s.setCounter (k * 256 + ix) c
  let t := if c.exc && !old.exc then t.coreReport rid core 0x81 0 0 ix 0 else t
  let t := if c.ovf && !old.ovf then t.coreReport rid core 0x82 (if old.state = 3#2 then 1 else 0) 0 ix 0 else t
  t.createTasks k ts

/-- The event port takes no new event now: earlier ones wait there, or held decrements are being applied (R33, R39). -/
def portBusy (s : State) (k : Nat) : Bool := !(s.coreSt k).evq.isEmpty || (s.coreSt k).owing.isSome
/-- Whether an event that creates the given tasks can be applied now (R39). -/
def portTakes (s : State) (k : Nat) (ts : List TaskRec) : Bool := !s.portBusy k && (ts.isEmpty || s.hasRoom k)

/-- Apply one decrement of a counter. -/
def ctrDec (s : State) (rid core ix : Nat) : State :=
  let (c, ts) := (s.counter (coreKey rid core * 256 + ix)).dec ix
  s.setCtr rid core ix c ts

/-- The scope at which a message's arrival acquires: the one that covers its sender and the core, or that of the descriptor that
sent it (R74, R85). -/
def msgScope (s : State) (core : Nat) (m : Msg) : Nat :=
  if m.sdev = s.fabid then max (cover m.score core) m.scope else max 5 m.scope

/-- The dispatch lookup of a direct message (R27, R35, R372): a task in the ready queue of its class, or a place in the
unclaimed-message queue, or UNCLMOVF. -/
def dispatch (s : State) (rid core : Nat) (m : Msg) : State :=
  let k := coreKey rid core
  let hix := h0Hix m.h0
  let e := s.handlers.get 0#64 (k * 256 + hix)
  let t : TaskRec := { hix := hix, cls := h0Class m.h0, x10 := m.a0, x11 := m.a1, x12 := m.a2, x13 := m.a3,
                       x14 := sourceWord m, x15 := BitVec.ofNat 64 (h1Poff m.h1), acq := s.msgScope core m }
  if e.getLsbD 63 then s.createTasks k [{ t with entry := some e }]
  else if (s.coreSt k).unclaimed.length < 16 then s.modCore k fun c => { c with unclaimed := c.unclaimed ++ [t] }
  else s.coreReport rid core 0x80 0 m.h0.toNat (m.a0.toNat % 2 ^ 32) (m.h1.toNat % 2 ^ 32)

/-- A ring advance (R303): n slots by the producer or the consumer. -/
def ringAdvance (r : Ring) (consumer : Bool) (n : Nat) : Ring :=
  if consumer then { r with head := (r.head + n) % r.count, fill := r.fill - n, free := r.free + n }
  else { r with tail := (r.tail + n) % r.count, fill := r.fill + n, free := r.free - n }
/-- A ring advance by a completion descriptor: dropped and reported where it would go below 0 (R381). -/
def ringByDesc (s : State) (rid core h : Nat) (consumer : Bool) (dix : Nat) : State :=
  let k := coreKey rid core * 16 + h
  let r := s.ring k
  if (if consumer then r.fill else r.free) = 0 then s.coreReport rid core 0x25 (if consumer then 1 else 0) 0 h dix
  else s.setRing k (ringAdvance r consumer 1)

/-- Whether an event would create a task now, decided from the event and the state (R39). -/
def evCreates (s : State) (rid core : Nat) (e : PortEv) : Bool :=
  match e with
  | .dec c => !((s.counter (coreKey rid core * 256 + c)).dec c).2.isEmpty
  | .dispatch m => (s.handlers.get 0#64 (coreKey rid core * 256 + h0Hix m.h0)).getLsbD 63
  | .ring .. => false
  | .create _ => true
/-- Apply an event. -/
def evApply (s : State) (rid core : Nat) (e : PortEv) : State :=
  match e with
  | .dec c => s.ctrDec rid core c
  | .dispatch m => s.dispatch rid core m
  | .ring h consumer dix => s.ringByDesc rid core h consumer dix
  | .create t => s.createTask (coreKey rid core) t
/-- An event of an engine or a message reaches the port: applied, or it waits there (R34, R39). -/
def portEvent (s : State) (rid core : Nat) (e : PortEv) : State :=
  let k := coreKey rid core
  if s.portBusy k || (s.evCreates rid core e && !s.hasRoom k) then s.modCore k fun c => { c with evq := c.evq ++ [e] }
  else s.evApply rid core e
/-- A message's delivery reaches the port; where the port applies it now, that is progress of the die (R389). -/
def portMessage (s : State) (rid core : Nat) (e : PortEv) : State :=
  let k := coreKey rid core
  let waits := s.portBusy k || (s.evCreates rid core e && !s.hasRoom k)
  let t := s.portEvent rid core e
  if waits then t else t.progress (dieKey rid (coreDie core))
/-- Apply the events that wait at the port, as long as they find room (R39); a message's delivery among them is progress of the
die (R389). Tasks of an event that has taken effect come before the held decrements that an enable owes, every other event after
them (R33). -/
def pumpPort (s : State) (rid core : Nat) : Nat → State
  | 0 => s
  | n + 1 =>
    let k := coreKey rid core
    match (s.coreSt k).evq with
    | [] => s
    | e :: held =>
      if ((s.coreSt k).owing.isSome && !e.isCreate) || (s.evCreates rid core e && !s.hasRoom k) then s
      else
        let t := (s.modCore k fun c => { c with evq := [] }).evApply rid core e
        let t := if e.isMessage then t.progress (dieKey rid (coreDie core)) else t
        (t.modCore k fun c => { c with evq := c.evq ++ held }).pumpPort rid core n

/-! ### Claims (R267, R269, R371) -/

/-- The widths granted in an octet, those of killed tasks that are not back yet included (R267, R371). -/
def claimedWidth (s : State) (rid core : Nat) : Nat :=
  ((List.range 8).map fun p => ((List.range 16).map fun f =>
    (s.frameSt (unitKey rid (coreAtOctetPos core p) f)).width).sum).sum
    + (((s.octetSt (octetKey rid core)).sfu.map (·.frees)).sum)
/-- F: the free width of the octet of a core (R267). -/
def freeWidth (s : State) (rid core : Nat) : Nat := 256 - s.claimedWidth rid core
/-- The largest power of two that is at most both (R267). -/
def grantWidth (req free : Nat) : Nat :=
  let m := min req free
  if 64 ≤ m then 64 else if 32 ≤ m then 32 else if 16 ≤ m then 16 else 8
/-- Whether SFU results of a frame's claim are still to be written (R280). -/
def sfuPending (s : State) (rid core frame : Nat) : Bool :=
  (s.octetSt (octetKey rid core)).sfu.any fun r => r.core == core && r.frame == frame && !r.dead
/-- The units of 256 register entries that the claims of an octet hold: 8 lanes of 32 registers each (R17, R269). -/
def poolUsed (s : State) (rid core : Nat) : List Nat :=
  ((List.range 8).flatMap fun p => (List.range 16).flatMap fun f => (s.frameSt (unitKey rid (coreAtOctetPos core p) f)).units)
    ++ (s.octetSt (octetKey rid core)).sfu.flatMap (·.units)
/-- The units of a new claim of width w, BASE first: units that lie together and belong to no claim, any where there are several; where
the free units lie apart, any free ones (R17, R269, log 13). -/
def poolUnits (s : State) (rid core w : Nat) : List Nat :=
  let used := s.poolUsed rid core
  let free := (List.range 32).filter fun b => !used.contains b
  let fits (b : Nat) : Bool := (List.range (w / 8)).all fun i => free.contains (b + i)
  let whole := free.filter fits
  let any_ := (Config.freeValue s.fresh).toNat
  if whole.isEmpty then (free.rotateLeft (any_ % free.length)).take (w / 8)
  else (List.range (w / 8)).map ((whole[any_ % whole.length]?).getD 0 + ·)
/-- Give a frame a claim: its registers start at zero (R267). -/
def grantClaim (s : State) (rid core frame w : Nat) : State :=
  let fk := unitKey rid core frame
  let us := s.poolUnits rid core w
  { s.modFrame fk (fun f => { f with width := w, base := us.headD 0, units := us }) with
    vregs := s.vregs.clear (fk * 2048) ((fk + 1) * 2048) }
/-- Release a frame's claim (R269). -/
def dropClaim (s : State) (rid core frame : Nat) : State :=
  let fk := unitKey rid core frame
  { s.modFrame fk (fun f => { f with width := 0, base := 0, units := [] }) with vregs := s.vregs.clear (fk * 2048) ((fk + 1) * 2048) }
/-- Mark the SFU requests of a killed task: they pass without writing, and the width returns with the last (R371). -/
def killSfu (core frame w : Nat) (units : List Nat) : List SfuReq → List SfuReq
  | [] => []
  | r :: rest =>
    if r.core == core && r.frame == frame && !r.dead then
      let last := !rest.any fun q => q.core == core && q.frame == frame && !q.dead
      { r with dead := true, frees := if last then w else 0, units := if last then units else [] } :: killSfu core frame w units rest
    else r :: killSfu core frame w units rest
/-- The claim of a killed task (R371), and its place in the claim queue. -/
def killClaim (s : State) (rid core frame : Nat) : State :=
  let x := s.frameSt (unitKey rid core frame)
  (s.modOctet (octetKey rid core) fun o =>
    { o with sfu := killSfu core frame x.width x.units o.sfu, claims := o.claims.filter fun c => !(c.core == core && c.frame == frame) }).dropClaim
      rid core frame

/-! ### The end of a task (R242, R362) -/

/-- The launch, TILES command or Trail entry behind a task counts its DONE (R164, R165, R171, R362). -/
def groupDone (s : State) (rid : Nat) (g : Option Nat) : State :=
  match g with
  | none => s
  | some n => s.modGroup rid n fun q => { q with left := q.left - 1 }
/-- Free a slot and its frame; the registers are lost (R29, R242, R362). -/
def freeTask (s : State) (rid core slot : Nat) : State :=
  let sk := unitKey rid core slot
  let fk := unitKey rid core (s.slotSt sk).frame
  { s with
    slots := s.slots.set {} sk {}
    frames := s.frames.set {} fk {}
    xregs := s.xregs.clear (sk * 32) ((sk + 1) * 32)
    fregs := s.fregs.clear (sk * 32) ((sk + 1) * 32)
    pregs := s.pregs.clear (sk * 8) ((sk + 1) * 8)
    watches := s.watches.filter fun w => !(w.rid == rid && w.core == core && w.frame == (s.slotSt sk).frame) }

/-- HALT begins (R349, R391): HALTING; every RUNNING Trail stops as STGSTOP does, to go on at RESUME, and every watchdog stops. -/
def beginHalt (s : State) (rid : Nat) : State :=
  let stop (d : DieSt) : DieSt :=
    { d with trail := { d.trail with running := false, again := d.trail.again || d.trail.running }, stall := 0, wstage := 0 }
  (s.dies.filter (·.1 / 64 == rid)).foldl (fun t p => t.modDie p.1 stop)
    (s.modRealm rid fun r => { r with state := 2, cmdAt := s.clock, err := 0, reason := 0, devHalt := false })
/-- The device halts a realm by itself (R367, R412): HALTING, with the reason in RSTATE[15:8]; a realm that is halting already
ends with the reason. -/
def deviceHalt (s : State) (rid reason : Nat) : State :=
  match (s.realm rid).state with
  | 1 => (s.beginHalt rid).modRealm rid fun r => { r with err := reason, reason := reason, devHalt := true }
  | 2 => s.modRealm rid fun r => { r with reason := if r.reason = 0 then reason else r.reason }
  | _ => s

/-- Kill the task of a slot (R362): release of scope .dev, the record with CYC as it was at the detection (R364), the claim, the
slot and the frame. -/
def killTask (s : State) (rid core slot cyc : Nat) (rec : Option (Word × Word × Word)) : State :=
  let sl := s.slotSt (unitKey rid core slot)
  let t := s.releaseBy rid core sl.frame 4
  let k := coreKey rid core
  let t := match rec with
    | some (a0, a1, a2) =>
      let seq := (t.coreSt k).fseq
      (t.send (t.recordMsg rid core a0 a1 a2
        (BitVec.ofNat 64 (seq % 2 ^ 32 * 2 ^ 32 + cyc % 2 ^ 32)))).modCore k
          fun c => { c with fseq := c.fseq + 1 }
    | none => t
  ((t.killClaim rid core sl.frame).freeTask rid core slot).groupDone rid sl.grp

/-- IWORD of the instruction at the program counter (R364, log 43). -/
def iword (s : State) (len : Nat) : Nat := s.rdLmNum s.cur.rid s.cur.core s.pc.toNat len

/-- Whether a trap here is a double fault: a task of the trap handlers on the trap handler core, or no such core (R367). -/
def doubleFault (s : State) : Bool :=
  !s.coreExists s.cur.rid s.myRealm.trapc
    || (s.cur.core == s.myRealm.trapc && (s.me.hix == 0xEF || s.me.hix == 0xEE))

/-- A trap that was detected when CYCLE was `cyc`: the kill with its record, or, at a double fault, the halt of the realm; the kill's
release first waits for what it must wait for, and the trap stands meanwhile (R361, R362, R367). -/
def trapAt (s : State) (len : Nat) (f : Flt) (cyc : Nat) : State :=
  if !s.canRelease 4 then s.awaitRelease 4 (.dying len f.code f.detail f.addr f.info cyc)
  else
    let a0 := recA0 s.me.hix s.me.frame s.cur.slot s.pc.toNat (len == 2) false f.detail f.code
    let a2 := BitVec.ofNat 64 (f.info % 2 ^ 32 * 2 ^ 32 + s.iword len)
    if s.doubleFault then (s.killTask s.cur.rid s.cur.core s.cur.slot cyc none).deviceHalt s.cur.rid 0xEF
    else s.killTask s.cur.rid s.cur.core s.cur.slot cyc (some (a0, BitVec.ofNat 64 f.addr, a2))
/-- TAKING A TRAP (R361 to R367): the instruction of `len` bytes at the program counter changes nothing; the task is killed
and its record goes to the trap handler core, or, at a double fault, the realm halts. -/
def trap (s : State) (len : Nat) (f : Flt) : State := s.trapAt len f (s.cycle s.dk)

/-- RESENC (R369). -/
def trapEnc (s : State) (len detail : Nat) : State := s.trap len { code := 1, detail := detail }
/-- RESVAL of an operand: 0 d, 1 a, 2 b, 3 c, 4 a record or descriptor (R365, R369, log 38). -/
def trapVal (s : State) (len maj value operand : Nat) : State :=
  s.trap len { code := 2, detail := maj, addr := value, info := operand }

/-! ### Safe points, eviction, resumption (R45 to R49) -/

/-- LM offset of frame k (R29). -/
def frameBase (k : Nat) : Nat := 0x28000 + 0x800 * k
/-- The live mask at which every register is live (R46, R47). -/
def allLive : Nat := 2 ^ 103 - 1
/-- Mask n of the handler's table (R46). -/
def liveMask (s : State) (rid core : Nat) (entry : Word) (n : Nat) : Nat :=
  s.rdLmNum rid core (bitsOf entry.toNat 35 18 + 16 * n) 16

/-- Write the live registers and the resume word to the save area (R45, R49). -/
def saveTask (s : State) (rid core slot mask : Nat) : State :=
  let sk := unitKey rid core slot
  let sl := s.slotSt sk
  let base := frameBase sl.frame
  let fr := s.frameSt (unitKey rid core sl.frame)
  let resume := sl.pc.toNat % 2 ^ 18 + sl.hix * 2 ^ 18 + sl.cls * 2 ^ 26 + (if sl.steal then 2 ^ 28 else 0)
  let put (t : State) (off n v : Nat) : State := t.wrLm rid core (base + off) (toBytes n v)
  let t := put s 0 8 resume
  let t := (List.range 31).foldl (fun u i => if mask.testBit i then
    put u (8 + 8 * i) 8 (s.xregs.get 0#64 (sk * 32 + i + 1)).toNat else u) t
  let t := (List.range 32).foldl (fun u i => if mask.testBit (31 + i) then
    put u (0x100 + 4 * i) 4 (s.fregs.get 0#32 (sk * 32 + i)).toNat else u) t
  let t := (List.range 8).foldl (fun u i => if mask.testBit (95 + i) then
    put u (0x180 + 8 * i) 8 (if i = 0 then 2 ^ 64 - 1 else (s.pregs.get 0#64 (sk * 8 + i)).toNat) else u) t
  let t := put t 0x1C0 16 mask
  let t := put t 0x1D0 8 (fr.base * 256 + fr.width)
  put t 0x1D8 8 (sl.frm.toNat + sl.fflags.toNat * 256)

/-- Registers that a mask leaves unmarked read as zero after the safe point (R47). -/
def zeroUnmarked (s : State) (sk fk mask : Nat) : State :=
  { s with
    xregs := s.xregs.filter fun p => !(p.1 / 32 == sk && !mask.testBit (p.1 % 32 - 1))
    fregs := s.fregs.filter fun p => !(p.1 / 32 == sk && !mask.testBit (31 + p.1 % 32))
    pregs := s.pregs.filter fun p => !(p.1 / 8 == sk && !mask.testBit (95 + p.1 % 8))
    vregs := s.vregs.filter fun p => !(p.1 / 2048 == fk && !mask.testBit (63 + p.1 / 64 % 32)) }

/-- Evict the task of a slot at a safe point (R49): registers to the save area, the slot freed, the frame kept. The
`ready` flag says that it is ready again at once (YIELD, SAFE). -/
def evict (s : State) (rid core slot mask : Nat) (ready : Bool) : State :=
  let sk := unitKey rid core slot
  let sl := s.slotSt sk
  let fk := unitKey rid core sl.frame
  let t := (s.saveTask rid core slot mask).zeroUnmarked sk fk mask
  let t := { t with
    slots := t.slots.set {} sk {}
    xregs := t.xregs.clear (sk * 32) ((sk + 1) * 32)
    fregs := t.fregs.clear (sk * 32) ((sk + 1) * 32)
    pregs := t.pregs.clear (sk * 8) ((sk + 1) * 8) }
  let t := t.modFrame fk fun f => { f with used := true, evicted := true, ready := ready, hix := sl.hix, cls := sl.cls,
                                           entry := sl.entry, wait := sl.wait, grp := sl.grp, since := sl.since,
                                           lent := sl.lent }
  if ready then t.pushReady (coreKey rid core) sl.cls (.resumed sl.frame s.clock) else t

/-- The program counter that bits [17:0] of a resume word or handler-table entry give: it is always even (R28, R45, R180, log 134). -/
def evenPc (w : Nat) : Word := BitVec.ofNat 64 (bitsOf w 17 1 * 2)
/-- The pool units behind the width and BASE that a save area holds: those granted, or, where the save area holds other values, the units
from BASE on (R45, R269, log 29). -/
def unitsOf (f : Frame) (w b : Nat) : List Nat :=
  if f.width = w ∧ f.base = b then f.units else (List.range (w / 8)).map (b + ·)

/-- Restore an evicted task into a slot, with the values its save area holds, those of its lane-claim descriptor among them (R45,
R49, R269, log 29). -/
def resume (s : State) (rid core slot frame : Nat) : State :=
  let sk := unitKey rid core slot
  let fk := unitKey rid core frame
  let base := frameBase frame
  let fr := s.frameSt fk
  let word := s.rdLmNum rid core base 8
  let mask := s.rdLmNum rid core (base + 0x1C0) 16
  let ff := s.rdLmNum rid core (base + 0x1D8) 8
  let claim := s.rdLmNum rid core (base + 0x1D0) 8
  let xs := (List.range 31).map fun i => (sk * 32 + i + 1,
    if mask.testBit i then BitVec.ofNat 64 (s.rdLmNum rid core (base + 8 + 8 * i) 8) else 0#64)
  let fs := (List.range 32).map fun i => (sk * 32 + i,
    if mask.testBit (31 + i) then BitVec.ofNat 32 (s.rdLmNum rid core (base + 0x100 + 4 * i) 4) else 0#32)
  let ps := (List.range 7).map fun i => (sk * 8 + i + 1,
    if mask.testBit (96 + i) then BitVec.ofNat 64 (s.rdLmNum rid core (base + 0x180 + 8 * (i + 1)) 8) else 0#64)
  let sl : Slot := { busy := true, frame := frame, pc := evenPc word, hix := bitsOf word 25 18,
                     cls := bitsOf word 27 26, steal := word.testBit 28, entry := fr.entry, frm := BitVec.ofNat 2 ff,
                     fflags := BitVec.ofNat 5 (ff / 256), safecnt := 0, wait := fr.wait, grp := fr.grp, since := fr.since,
                     lent := fr.lent }
  { s with
    slots := s.slots.set {} sk sl
    xregs := s.xregs.setAll 0#64 xs
    fregs := s.fregs.setAll 0#32 fs
    pregs := s.pregs.setAll 0#64 ps
    frames := s.frames.set {} fk { fr with evicted := false, ready := false, wait := .none,
                                           width := bitsOf claim 7 0, base := bitsOf claim 12 8,
                                           units := unitsOf fr (bitsOf claim 7 0) (bitsOf claim 12 8) } }

/-- Put a task into a free slot and a free frame with its entry values (R29, R30, R47). -/
def placeTask (s : State) (rid core slot frame : Nat) (t : TaskRec) (entry : Word) : State :=
  let sk := unitKey rid core slot
  let fk := unitKey rid core frame
  let xs := [(sk * 32 + 2, BitVec.ofNat 64 (frameBase frame + 0x800)), (sk * 32 + 10, t.x10), (sk * 32 + 11, t.x11),
    (sk * 32 + 12, t.x12), (sk * 32 + 13, t.x13), (sk * 32 + 14, t.x14), (sk * 32 + 15, t.x15)]
  { s with
    slots := s.slots.set {} sk { busy := true, frame := frame, pc := evenPc entry.toNat, hix := t.hix,
                                 cls := t.cls, steal := t.steal, entry := entry, grp := t.grp, since := s.clock }
    frames := s.frames.set {} fk { used := true, hix := t.hix, cls := t.cls, entry := entry, grp := t.grp }
    xregs := (s.xregs.clear (sk * 32) ((sk + 1) * 32)).setAll 0#64 xs
    fregs := s.fregs.clear (sk * 32) ((sk + 1) * 32)
    pregs := s.pregs.clear (sk * 8) ((sk + 1) * 8)
    vregs := s.vregs.clear (fk * 2048) ((fk + 1) * 2048) }

/-- Start a task in a free slot and a free frame: its start is an acquire (R29, R30, R47, R85, R168, R172). -/
def startTask (s : State) (rid core slot frame : Nat) (t : TaskRec) (entry : Word) : State :=
  (s.acquireBy rid core t.acq).placeTask rid core slot frame t entry

/-- A ready task of the class test waits for a slot of the core: no slot is free, and a task that R38 could choose next stands in a
ready queue or, where the queue of its class is empty, at the owner end of the deque; whether a frame is free for it is not
asked (R49, log 113). -/
def slotWanted (s : State) (rid core : Nat) (p : Nat → Bool) : Bool :=
  let c := s.coreSt (coreKey rid core)
  let free := (List.range 8).any fun i => !(s.slotSt (unitKey rid core i)).busy
  let last (cls : Nat) : Bool := (s.ownerEnd rid core).any (·.cls == cls)
  let waiting := (p 1 && (!c.urgent.isEmpty || last 1)) || (p 2 && (!c.normal.isEmpty || last 2))
    || (p 3 && (!c.backgr.isEmpty || last 3))
  !free && waiting
/-- Whether the realm is passing to HALTED: every task is evicted at its next safe point (R349). -/
def halting (s : State) (rid : Nat) : Bool := (s.realm rid).state == 2

/-- A waiting instruction finds its condition unmet: the slot waits, and the task is evicted when a ready task waits for a
slot or the realm halts (R47, R49, R349). -/
def waitSafe (s : State) (w : Wait) : State :=
  let t := s.waitFor w
  let t := t.modSlot t.sk fun x => { x with safecnt := 0 }
  if s.slotWanted s.cur.rid s.cur.core (fun _ => true) || s.halting s.cur.rid then
    t.evict s.cur.rid s.cur.core s.cur.slot allLive false
  else t

/-- A wait that is no safe point: the slot is held; a realm that halts evicts the task in the wait (R262, R349, R350). -/
def holdWait (s : State) (w : Wait) : State :=
  let t := s.waitFor w
  if t.halting s.cur.rid then t.evict s.cur.rid s.cur.core s.cur.slot allLive false else t

/-! ### The rotation of the pipeline (R37) -/

/-- A slot waits in an instruction that it has issued. -/
def pending : Wait → Bool
  | .none | .ahead _ => false
  | _ => true
/-- A slot of a core is ready: its task waits for nothing and is not being killed (R37, R390). -/
def slotReady (s : State) (rid core i : Nat) : Bool :=
  let x := s.slotSt (unitKey rid core i)
  x.busy && !pending x.wait && !(s.dieSt (dieKey rid (coreDie core))).kills.contains (core, x.frame)
/-- The place of the service slot in the rotation: after slot 7 (R37). -/
def servicePlace : Nat := 8
/-- The places of the rotation from the one after the place that issued last. -/
def places (s : State) (rid core : Nat) : List Nat :=
  (List.range 9).map fun i => ((s.coreSt (coreKey rid core)).issued + 1 + i) % 9
/-- The thread slot that the rotation of a core comes to next: the first ready one after the place that issued last (R37). -/
def rotation (s : State) (rid core : Nat) : Option Nat := (s.places rid core).find? fun i => i != servicePlace && s.slotReady rid core i
/-- The rotation of a core has come to its service slot: no ready thread slot stands before it (R37, log 120). -/
def serviceTurn (s : State) (rid core : Nat) : Bool :=
  ((s.places rid core).takeWhile (· != servicePlace)).all fun i => !s.slotReady rid core i
/-- The service slot has issued last: slot 0 is next (R37). -/
def noteService (s : State) (rid core : Nat) : State := s.modCore (coreKey rid core) fun c => { c with issued := servicePlace }

/-! ### Waits of a task -/

/-- Everything a safe point waits for is done: vector memory instructions performed, SFU results written (R273, R280). -/
def safeReady (s : State) : Bool :=
  !s.sfuPending s.cur.rid s.cur.core s.me.frame && !s.elemPending s.cur.rid s.cur.core s.me.frame

/-- The slot in which the task of a frame runs. -/
def slotOf (s : State) (rid core frame : Nat) : Option Nat :=
  (List.range 8).find? fun i => (s.slotSt (unitKey rid core i)).busy && (s.slotSt (unitKey rid core i)).frame == frame
/-- What the task of a frame waits for, in its slot or evicted. -/
def waitOf (s : State) (rid core frame : Nat) : Wait :=
  match s.slotOf rid core frame with
  | some i => (s.slotSt (unitKey rid core i)).wait
  | none => (s.frameSt (unitKey rid core frame)).wait
/-- Change what the task of a frame waits for. -/
def setWait (s : State) (rid core frame : Nat) (w : Wait) : State :=
  match s.slotOf rid core frame with
  | some i => s.modSlot (unitKey rid core i) fun t => { t with wait := w }
  | none => s.modFrame (unitKey rid core frame) fun f => { f with wait := w }

end State
end Sys2Proof.Machine
end

