-- ==== Sys2Proof/Machine/Operands.lean ====
section
/-! DEFINITION. Operand forms: immediates, effective addresses and targets (R183, R184), and the one operation through which
an instruction's address passes its checks (R361). -/

namespace Sys2Proof.Machine

/-- What a step answers. -/
abbrev Res := Host.Outcome State Fault Refusal

/-- imm15 sign-extended (R183). -/
def immI (i : BitVec 15) : Word := i.signExtend 64
/-- imm12 sign-extended (R183). -/
def immM (i : BitVec 12) : Word := i.signExtend 64
/-- A branch offset in bytes from its two parts: 2 × sext(off15) (R182, R183). -/
def offB (o : BitVec 10) (p : BitVec 5) : Word := ((o ++ p : BitVec 15).signExtend 64) <<< 1
/-- A jump offset in bytes: 2 × sext(imm20) (R183). -/
def offJ (i : BitVec 20) : Word := (i.signExtend 64) <<< 1
/-- An upper immediate: sext(imm20) << 12 (R183). -/
def immU (i : BitVec 20) : Word := (i.signExtend 64) <<< 12
/-- The displacement of a store from its two parts (R182). -/
def immS (i : BitVec 7) (j : BitVec 5) : Word := (i ++ j : BitVec 12).signExtend 64
/-- One of x8 to x15, as the CL layout names it (R188). -/
def creg (d : BitVec 3) : BitVec 5 := 1#2 ++ d

/-- lmself: the LM-window address of offset 0 of a core (R53, R228). -/
def lmBase (core : Nat) : Nat := 0xFE * 2 ^ 48 + core * 2 ^ 18

namespace State

/-- The checks of an access of a kind, 1 read, 2 write, 3 both, by the issuing task at address va (R361): the trap of the first that
fails, a wait for the page walk, or the access itself at its location, with A and D set (R65). A walk that ended in a fault is the
access's own; one that found a leaf without the permission gives the permission that this access lacks (R378, R379, log 111). -/
def withKind (s : State) (len maj va size kind : Nat) (k : State → Loc → State) : State :=
  let write := kind.testBit 1
  match s.me.wait with
  | .walkFault page code detail info =>
    if page = va / 4096 then
      s.trap len { code := code, detail := if code = 0x15 then (if kind = 2 then 1 else detail) else detail, addr := va, info := info }
    else s.waitFor .none
  | _ =>
    match if kind = 3 then s.checkBoth s.cur.rid s.clk va size maj else s.checkVa s.cur.rid s.clk va size maj write with
    | .bad f => s.trap len f
    | .miss => (s.startWalk s.cur.rid s.cur.core va kind).waitFor (.walk (va / 4096))
    | .ok l => match l with
      | .lm .. => k s l
      | _ => match s.tlbFind s.clk va with
        | some e => k (s.tlbUse s.cur.rid s.clk e va write) l
        | none => k s l
/-- An access that reads or writes. -/
def withVa (s : State) (len maj va size : Nat) (write : Bool) (k : State → Loc → State) : State :=
  s.withKind len maj va size (if write then 2 else 1) k

/-- The trap of a poisoned word: DETAIL 0 LM, 1 near, 2 far (R377, R383). -/
def trapPoison (s : State) (len va : Nat) (l : Loc) : State :=
  s.trap len { code := 0x21, addr := va, detail := match l with
    | .lm .. => 0
    | .dev _ t .. => t + 1
    | .far _ _ t .. => t + 1 }

end State

/-- A halfword, word or doubleword result in x[d]: zero- or sign-extended from n bytes (R187). -/
def extendTo (signed : Bool) (n v : Nat) : Word :=
  if signed then (BitVec.ofNat (8 * n) v).signExtend 64 else BitVec.ofNat 64 (v % 2 ^ (8 * n))

/-- Size in bytes of a size code: 1, 2, 4 or 8 (R187, R248). -/
def codeSize (c : Nat) : Nat := 2 ^ (c % 4)

end Sys2Proof.Machine
end

