-- ==== Sys2Proof/Machine/Alu.lean ====
section
/-! DEFINITION. Register arithmetic, immediates, shifts, multiply and divide, upper immediates, jumps and branches
(11_isa_scalar.md, R223 to R230), with the compact forms that expand to them (R189, R190). -/

namespace Sys2Proof.Machine

/-! ### The values (R118, R223 to R227) -/

/-- Rotate left by the low six bits of the amount. -/
def aluRol (x y : Word) : Word := x.rotateLeft (y.toNat % 64)
/-- Rotate right by the low six bits of the amount. -/
def aluRor (x y : Word) : Word := x.rotateRight (y.toNat % 64)
/-- Clamp an exact value to the signed range (R118). -/
def clampS (v : Int) : Word := BitVec.ofInt 64 (IntTy.clamp ⟨true, 64⟩ v)
/-- Clamp an exact value to the unsigned range (R118). -/
def clampZ (v : Int) : Word := BitVec.ofInt 64 (IntTy.clamp ⟨false, 64⟩ v)
/-- Leading zero bits of the low n bits. -/
def leadZeros (x : Word) : Nat → Nat
  | 0 => 0
  | n + 1 => if x.getLsbD n then 0 else leadZeros x n + 1
/-- Trailing zero bits, from bit 64 − n on. -/
def trailZeros (x : Word) : Nat → Nat
  | 0 => 0
  | n + 1 => if x.getLsbD (63 - n) then 0 else trailZeros x n + 1
/-- One bits among the low n bits. -/
def countOnes (x : Word) : Nat → Nat
  | 0 => 0
  | n + 1 => countOnes x n + (if x.getLsbD n then 1 else 0)
/-- The bytes in reverse order. -/
def revBytes (x : Word) : Word :=
  x.extractLsb' 0 8 ++ x.extractLsb' 8 8 ++ x.extractLsb' 16 8 ++ x.extractLsb' 24 8 ++ x.extractLsb' 32 8
    ++ x.extractLsb' 40 8 ++ x.extractLsb' 48 8 ++ x.extractLsb' 56 8
/-- pos of a bit-field form (R224). -/
def fieldPos (y : Word) : Nat := y.toNat % 64
/-- len of a bit-field form (R224). -/
def fieldLen (y : Word) : Nat := bitsOf y.toNat 13 8 + 1
/-- bfx.s (R224). -/
def bfxSigned (x y : Word) : Word :=
  let t := (x.signExtend 128) >>> fieldPos y
  BitVec.ofInt 64 ((t.truncate (fieldLen y)).toInt)
/-- bfx.z (R224). -/
def bfxUnsigned (x y : Word) : Word := BitVec.ofNat 64 ((x.toNat >>> fieldPos y) % 2 ^ fieldLen y)
/-- bfi (R224). -/
def bfInsert (d x y : Word) : Word :=
  let m := BitVec.ofNat 64 ((2 ^ fieldLen y - 1) <<< fieldPos y)
  (d &&& ~~~m) ||| ((x <<< fieldPos y) &&& m)
/-- Signed quotient toward zero; all ones for divisor 0; the dividend at −2^63 / −1 (R118, R227). -/
def quotS (x y : Word) : Word := if y = 0#64 then BitVec.allOnes 64 else BitVec.ofInt 64 (x.toInt.tdiv y.toInt)
/-- Unsigned quotient; all ones for divisor 0 (R118, R227). -/
def quotZ (x y : Word) : Word := if y = 0#64 then BitVec.allOnes 64 else BitVec.ofNat 64 (x.toNat / y.toNat)
/-- Signed remainder with the dividend's sign; the dividend for divisor 0 (R118, R227). -/
def remS (x y : Word) : Word := if y = 0#64 then x else BitVec.ofInt 64 (x.toInt.tmod y.toInt)
/-- Unsigned remainder; the dividend for divisor 0 (R118, R227). -/
def remZ (x y : Word) : Word := if y = 0#64 then x else BitVec.ofNat 64 (x.toNat % y.toNat)

/-! ### The shapes -/

/-- x[d] ← f(x[a], x[b]). -/
def alu2 (f : Word → Word → Word) (d a b : BitVec 5) (len : Nat) (s : State) : Res :=
  .next ((s.wx d (f (s.rx a) (s.rx b))).retire len)
/-- x[d] ← f(x[a]). -/
def alu1 (f : Word → Word) (d a : BitVec 5) (len : Nat) (s : State) : Res :=
  .next ((s.wx d (f (s.rx a))).retire len)
/-- A jump or a taken branch to t: a target beyond LM traps before anything is written (R229, R230). -/
def goTo (s : State) (len detail : Nat) (t : Word) (k : State → State) : Res :=
  if 0x30000 ≤ t.toNat then .next (s.trap len { code := 5, detail := detail, addr := t.toNat })
  else .next ((k s).retireTo t)
/-- A branch: taken when the condition holds (R230). -/
def branch (c : Word → Word → Bool) (a b : BitVec 5) (off : Word) (len : Nat) (s : State) : Res :=
  if c (s.rx a) (s.rx b) then goTo s len 2 (s.pc + off) id else .next (s.retire len)

/-! ### ALU-R (R223, R224) -/

/-- add (R223). -/
def execAdd (d a b : BitVec 5) (s : State) : Res :=
  alu2 (fun x y => x + y) d a b 4 s
/-- sub (R223). -/
def execSub (d a b : BitVec 5) (s : State) : Res :=
  alu2 (fun x y => x - y) d a b 4 s
/-- and (R223). -/
def execAnd (d a b : BitVec 5) (s : State) : Res :=
  alu2 (fun x y => x &&& y) d a b 4 s
/-- or (R223). -/
def execOr (d a b : BitVec 5) (s : State) : Res :=
  alu2 (fun x y => x ||| y) d a b 4 s
/-- xor (R223). -/
def execXor (d a b : BitVec 5) (s : State) : Res :=
  alu2 (fun x y => x ^^^ y) d a b 4 s
/-- andn (R223). -/
def execAndn (d a b : BitVec 5) (s : State) : Res :=
  alu2 (fun x y => x &&& ~~~y) d a b 4 s
/-- orn (R223). -/
def execOrn (d a b : BitVec 5) (s : State) : Res :=
  alu2 (fun x y => x ||| ~~~y) d a b 4 s
/-- xnor (R223). -/
def execXnor (d a b : BitVec 5) (s : State) : Res :=
  alu2 (fun x y => ~~~(x ^^^ y)) d a b 4 s
/-- sll (R223). -/
def execSll (d a b : BitVec 5) (s : State) : Res :=
  alu2 (fun x y => x <<< (y.toNat % 64)) d a b 4 s
/-- srl (R223). -/
def execSrl (d a b : BitVec 5) (s : State) : Res :=
  alu2 (fun x y => x >>> (y.toNat % 64)) d a b 4 s
/-- sra (R223). -/
def execSra (d a b : BitVec 5) (s : State) : Res :=
  alu2 (fun x y => x.sshiftRight (y.toNat % 64)) d a b 4 s
/-- rol (R223). -/
def execRol (d a b : BitVec 5) (s : State) : Res :=
  alu2 (aluRol) d a b 4 s
/-- ror (R223). -/
def execRor (d a b : BitVec 5) (s : State) : Res :=
  alu2 (aluRor) d a b 4 s
/-- slt (R223). -/
def execSlt (d a b : BitVec 5) (s : State) : Res :=
  alu2 (fun x y => boolWord (sval x < sval y)) d a b 4 s
/-- sltz (R223). -/
def execSltz (d a b : BitVec 5) (s : State) : Res :=
  alu2 (fun x y => boolWord (zval x < zval y)) d a b 4 s
/-- min (R223). -/
def execMin (d a b : BitVec 5) (s : State) : Res :=
  alu2 (fun x y => if sval y < sval x then y else x) d a b 4 s
/-- max (R223). -/
def execMax (d a b : BitVec 5) (s : State) : Res :=
  alu2 (fun x y => if sval x < sval y then y else x) d a b 4 s
/-- minz (R223). -/
def execMinz (d a b : BitVec 5) (s : State) : Res :=
  alu2 (fun x y => if zval y < zval x then y else x) d a b 4 s
/-- maxz (R223). -/
def execMaxz (d a b : BitVec 5) (s : State) : Res :=
  alu2 (fun x y => if zval x < zval y then y else x) d a b 4 s
/-- add.sat (R223). -/
def execAddSat (d a b : BitVec 5) (s : State) : Res :=
  alu2 (fun x y => clampS (sval x + sval y)) d a b 4 s
/-- sub.sat (R223). -/
def execSubSat (d a b : BitVec 5) (s : State) : Res :=
  alu2 (fun x y => clampS (sval x - sval y)) d a b 4 s
/-- addz.sat (R223). -/
def execAddzSat (d a b : BitVec 5) (s : State) : Res :=
  alu2 (fun x y => clampZ ((zval x : Int) + zval y)) d a b 4 s
/-- subz.sat (R223). -/
def execSubzSat (d a b : BitVec 5) (s : State) : Res :=
  alu2 (fun x y => clampZ ((zval x : Int) - zval y)) d a b 4 s
/-- clz (R223). -/
def execClz (d a : BitVec 5) (s : State) : Res :=
  alu1 (fun x => BitVec.ofNat 64 (leadZeros x 64)) d a 4 s
/-- ctz (R223). -/
def execCtz (d a : BitVec 5) (s : State) : Res :=
  alu1 (fun x => BitVec.ofNat 64 (trailZeros x 64)) d a 4 s
/-- cpop (R223). -/
def execCpop (d a : BitVec 5) (s : State) : Res :=
  alu1 (fun x => BitVec.ofNat 64 (countOnes x 64)) d a 4 s
/-- rev8 (R223). -/
def execRev8 (d a : BitVec 5) (s : State) : Res :=
  alu1 (revBytes) d a 4 s
/-- bfx.s (R224). -/
def execBfxS (d a b : BitVec 5) (s : State) : Res :=
  alu2 bfxSigned d a b 4 s
/-- bfx.z (R224). -/
def execBfxZ (d a b : BitVec 5) (s : State) : Res :=
  alu2 bfxUnsigned d a b 4 s
/-- bfi: every operand is read before x[d] is written (R224). -/
def execBfi (d a b : BitVec 5) (s : State) : Res :=
  alu2 (bfInsert (s.rx d)) d a b 4 s
/-- sel: x[a] if x[c] ≠ 0, else x[b] (R223). -/
def execSel (d a b c : BitVec 5) (s : State) : Res :=
  alu2 (fun x y => if s.rx c = 0#64 then y else x) d a b 4 s

/-! ### Immediates and shifts (R225, R226) -/

/-- addi (R225). -/
def execAddi (d a : BitVec 5) (i : BitVec 15) (s : State) : Res :=
  alu1 (fun x => x + immI i) d a 4 s
/-- andi (R225). -/
def execAndi (d a : BitVec 5) (i : BitVec 15) (s : State) : Res :=
  alu1 (fun x => x &&& immI i) d a 4 s
/-- ori (R225). -/
def execOri (d a : BitVec 5) (i : BitVec 15) (s : State) : Res :=
  alu1 (fun x => x ||| immI i) d a 4 s
/-- xori (R225). -/
def execXori (d a : BitVec 5) (i : BitVec 15) (s : State) : Res :=
  alu1 (fun x => x ^^^ immI i) d a 4 s
/-- slti (R225). -/
def execSlti (d a : BitVec 5) (i : BitVec 15) (s : State) : Res :=
  alu1 (fun x => boolWord (sval x < sval (immI i))) d a 4 s
/-- shi.sll (R226). -/
def execShiSll (d a : BitVec 5) (n : BitVec 6) (s : State) : Res :=
  alu1 (fun x => x <<< n.toNat) d a 4 s
/-- shi.srl (R226). -/
def execShiSrl (d a : BitVec 5) (n : BitVec 6) (s : State) : Res :=
  alu1 (fun x => x >>> n.toNat) d a 4 s
/-- shi.sra (R226). -/
def execShiSra (d a : BitVec 5) (n : BitVec 6) (s : State) : Res :=
  alu1 (fun x => x.sshiftRight n.toNat) d a 4 s
/-- shi.ror (R226). -/
def execShiRor (d a : BitVec 5) (n : BitVec 6) (s : State) : Res :=
  alu1 (fun x => x.rotateRight n.toNat) d a 4 s

/-! ### Multiply and divide (R227) -/

/-- mul (R227). -/
def execMul (d a b : BitVec 5) (s : State) : Res :=
  alu2 (fun x y => x * y) d a b 4 s
/-- mulh (R227). -/
def execMulh (d a b : BitVec 5) (s : State) : Res :=
  alu2 (fun x y => BitVec.ofInt 64 ((sval x * sval y) / 2 ^ 64)) d a b 4 s
/-- mulhz (R227). -/
def execMulhz (d a b : BitVec 5) (s : State) : Res :=
  alu2 (fun x y => BitVec.ofNat 64 (zval x * zval y / 2 ^ 64)) d a b 4 s
/-- mulhsz (R227). -/
def execMulhsz (d a b : BitVec 5) (s : State) : Res :=
  alu2 (fun x y => BitVec.ofInt 64 ((sval x * zval y) / 2 ^ 64)) d a b 4 s
/-- div (R227). -/
def execDiv (d a b : BitVec 5) (s : State) : Res :=
  alu2 (quotS) d a b 4 s
/-- divz (R227). -/
def execDivz (d a b : BitVec 5) (s : State) : Res :=
  alu2 (quotZ) d a b 4 s
/-- rem (R227). -/
def execRem (d a b : BitVec 5) (s : State) : Res :=
  alu2 (remS) d a b 4 s
/-- remz (R227). -/
def execRemz (d a b : BitVec 5) (s : State) : Res :=
  alu2 (remZ) d a b 4 s

/-! ### Upper immediates, jumps and branches (R228 to R230) -/

/-- lui (R228). -/
def execLui (d : BitVec 5) (i : BitVec 20) (s : State) : Res :=
  .next ((s.wx d (immU i)).retire 4)
/-- addpc: the LM-window address of the instruction, plus the immediate (R228). -/
def execAddpc (d : BitVec 5) (i : BitVec 20) (s : State) : Res :=
  .next ((s.wx d (BitVec.ofNat 64 (lmBase s.cur.core) + s.pc + immU i)).retire 4)
/-- jal: the link is pc + 4 (R229). -/
def execJal (d : BitVec 5) (i : BitVec 20) (s : State) : Res :=
  goTo s 4 1 (s.pc + offJ i) fun t => t.wx d (s.pc + 4#64)
/-- jalr: x[a] is read before the link is written (R229). -/
def execJalr (d a : BitVec 5) (i : BitVec 15) (s : State) : Res :=
  goTo s 4 1 ((s.rx a + immI i) &&& ~~~1#64) fun t => t.wx d (s.pc + 4#64)
/-- beq (R230). -/
def execBeq (a b : BitVec 5) (o : BitVec 10) (p : BitVec 5) (s : State) : Res :=
  branch (fun x y => x == y) a b (offB o p) 4 s
/-- bne (R230). -/
def execBne (a b : BitVec 5) (o : BitVec 10) (p : BitVec 5) (s : State) : Res :=
  branch (fun x y => x != y) a b (offB o p) 4 s
/-- blt (R230). -/
def execBlt (a b : BitVec 5) (o : BitVec 10) (p : BitVec 5) (s : State) : Res :=
  branch (fun x y => sval x < sval y) a b (offB o p) 4 s
/-- bge (R230). -/
def execBge (a b : BitVec 5) (o : BitVec 10) (p : BitVec 5) (s : State) : Res :=
  branch (fun x y => sval y ≤ sval x) a b (offB o p) 4 s
/-- bltz (R230). -/
def execBltz (a b : BitVec 5) (o : BitVec 10) (p : BitVec 5) (s : State) : Res :=
  branch (fun x y => zval x < zval y) a b (offB o p) 4 s
/-- bgez (R230). -/
def execBgez (a b : BitVec 5) (o : BitVec 10) (p : BitVec 5) (s : State) : Res :=
  branch (fun x y => zval y ≤ zval x) a b (offB o p) 4 s

/-! ### Compact forms (R189, R190) -/

/-- c.addi: addi xd, xd, sext(imm6) (R189). -/
def execCAddi (d : BitVec 5) (i : BitVec 6) (s : State) : Res :=
  alu1 (fun x => x + i.signExtend 64) d d 2 s
/-- c.li: addi xd, x0, sext(imm6) (R189). -/
def execCLi (d : BitVec 5) (i : BitVec 6) (s : State) : Res :=
  alu1 (fun x => x + i.signExtend 64) d 0#5 2 s
/-- c.mv: xa + x0 (R189). -/
def execCMv (d a : BitVec 5) (s : State) : Res :=
  alu2 (fun x y => x + y) d a 0#5 2 s
/-- c.add (R189). -/
def execCAdd (d a : BitVec 5) (s : State) : Res :=
  alu2 (fun x y => x + y) d d a 2 s
/-- c.sub (R189). -/
def execCSub (d a : BitVec 5) (s : State) : Res :=
  alu2 (fun x y => x - y) d d a 2 s
/-- c.and (R189). -/
def execCAnd (d a : BitVec 5) (s : State) : Res :=
  alu2 (fun x y => x &&& y) d d a 2 s
/-- c.slli (R189). -/
def execCSlli (d : BitVec 5) (n : BitVec 6) (s : State) : Res :=
  alu1 (fun x => x <<< n.toNat) d d 2 s
/-- c.beqz (R189). -/
def execCBeqz (a : BitVec 5) (i : BitVec 6) (s : State) : Res :=
  branch (fun x y => x == y) a 0#5 ((i.signExtend 64) <<< 1) 2 s
/-- c.bnez (R189). -/
def execCBnez (a : BitVec 5) (i : BitVec 6) (s : State) : Res :=
  branch (fun x y => x != y) a 0#5 ((i.signExtend 64) <<< 1) 2 s
/-- c.j (R189). -/
def execCJ (o : BitVec 11) (s : State) : Res :=
  goTo s 2 1 (s.pc + ((o.signExtend 64) <<< 1)) id
/-- c.jr: jalr x0, xa, 0 (R189). -/
def execCJr (a : BitVec 5) (s : State) : Res :=
  goTo s 2 1 (s.rx a &&& ~~~1#64) id

end Sys2Proof.Machine
end

