-- ==== Sys2Proof/Machine/Flags.lean ====
section
/-! DEFINITION. Results that carry FFLAGS (R111, R112, R237): a floating-point result and its flags are written together. -/

namespace Sys2Proof.Machine

namespace State

/-- Write an FP result to f[d] and OR its flags into FFLAGS; `lat` is the instruction's latency (R112, R222, R237). -/
def putF (s : State) (lat : Nat) (d : BitVec 5) (r : Nat × Flags) : State := (s.wrf d (BitVec.ofNat 32 r.1)).orFlags r.2 lat
/-- Write a value to x[d] with the flags of its computation. -/
def putX (s : State) (lat : Nat) (d : BitVec 5) (v : Word) (fl : Flags) : State := (s.wx d v).orFlags fl lat

end State

/-- The mode of a conversion that may round stochastically: under code 4 the seed is SRSEED and the index is given (R109,
R235, R279, R291). -/
def srRnd (s : State) (code : Nat) (seed index : Word32) : Rnd :=
  if code = 4 then .sr (srThreshold seed index) else s.rnd code

end Sys2Proof.Machine
end

