-- ==== Sys2Proof/WellFormed.lean ====
section
/-! DEFINITION. Which field values of a decoded word are not reserved: the sub-field rules of R244, R264, R282, R307 and
R337 that depend on the word alone. A word that breaks one of them traps with RESENC (R369). The rules that depend on a
register or a record are checked by the meanings. -/

namespace Sys2Proof

/-- A rounding field of an arithmetic form: codes 0 to 3, and 7 for FRM (R107, R231, R236). -/
def rmArith (r : BitVec 3) : Bool := r.toNat ≤ 3 || r == 7#3
/-- A rounding field of a conversion to a narrow format: stochastic rounding as well (R107, R231, R279, R290). -/
def rmConv (r : BitVec 3) : Bool := r.toNat ≤ 4 || r == 7#3
/-- The scope of an os sub-field or a scope field: code 7 is reserved (R245). -/
def scopeOk (s : BitVec 3) : Bool := s != 7#3
/-- The scope part of an os sub-field (R245). -/
def osScope (o : BitVec 5) : BitVec 3 := o.extractLsb' 0 3
/-- The order part of an os sub-field (R245): 0 rlx, 1 acq, 2 rel, 3 ar. -/
def osOrder (o : BitVec 5) : BitVec 2 := o.extractLsb' 3 2

/-- The numbers of the control registers that R193 lists outside the system range. -/
def csrKnown (k : BitVec 12) : Bool :=
  k.toNat ≤ 7 || (0x10 ≤ k.toNat && k.toNat ≤ 0x12) || k.toNat == 0x20 || (0x40 ≤ k.toNat && k.toNat ≤ 0x4F)
    || (0x80 ≤ k.toNat && k.toNat ≤ 0x83) || k.toNat == 0xA0
/-- The control registers that R193 marks read/write. -/
def csrWritable (k : BitVec 12) : Bool :=
  (0x10 ≤ k.toNat && k.toNat ≤ 0x12) || (0x40 ≤ k.toNat && k.toNat ≤ 0x4F)
    || (0x80 ≤ k.toNat && k.toNat ≤ 0x83) || k.toNat == 0xA0

/-- The group size of a transposing form's k code (R271). -/
def transK (k : BitVec 2) : Nat := 2 ^ (k.toNat + 1)

/-- A group of k registers from the named one on ends at register 31 at the latest (R282). -/
def groupFits (r : BitVec 5) (k : Nat) : Bool := r.toNat + k ≤ 32

/-- A float narrowing: its rounding code, its index register, its source group (R279, R282). -/
def vcvtNarrowOk (a b : BitVec 5) (r : BitVec 3) (k : Nat) : Bool :=
  rmConv r && (b == 0#5 || r == 4#3) && groupFits a k

/-- A tile name in its form: FP32 has z0 and z1, a 16-bit form z0 to z3; form 3 is reserved (R285, R290). -/
def tileOk (form : BitVec 2) (d : BitVec 5) : Bool :=
  match form.toNat with
  | 0 => d.toNat < 2
  | 3 => false
  | _ => d.toNat < 4

/-- The sub-fields of MMA and MMAB that the word decides (R285, R307). -/
def mmaOk (d c : BitVec 5) (q : BitVec 2) (p : BitVec 3) : Bool := p != 7#3 && tileOk q d && !c.getLsbD 0

/-- No sub-field of the instruction holds a value that its chapter reserves. -/
def Instr.wellFormed : Instr → Bool
  | .fadd _ _ _ r | .fsub _ _ _ r | .fmul _ _ _ r | .fdiv _ _ _ r => rmArith r
  | .fsqrt _ _ r => rmArith r
  | .fcvtF32Ty _ _ _ r | .fcvtTyF32 _ _ _ r => rmArith r
  | .fcvtF32Nfmt _ _ r _ n => rmConv r && n.toNat ≤ 4
  | .fcvtNfmtF32 _ _ n => n.toNat ≤ 4
  | .ffma _ _ _ _ r | .ffms _ _ _ _ r | .fnma _ _ _ _ r | .fnms _ _ _ _ r => rmArith r
  | .csrr _ k => csrKnown k
  | .csrw _ _ k | .csrs _ _ k | .csrc _ _ k => csrWritable k
  | .ld _ _ _ s => s != 7#3
  | .st _ _ _ s _ => s.toNat ≤ 3
  | .lds _ _ s o => s != 7#3 && (osOrder o).toNat ≤ 1 && scopeOk (osScope o)
  | .sts _ _ _ o => (osOrder o == 0#2 || osOrder o == 2#2) && scopeOk (osScope o)
  | .amoSwap _ _ _ _ o | .amoAdd _ _ _ _ o | .amoAnd _ _ _ _ o | .amoOr _ _ _ _ o | .amoXor _ _ _ _ o
  | .amoMin _ _ _ _ o | .amoMax _ _ _ _ o | .amoMinz _ _ _ _ o | .amoMaxz _ _ _ _ o => scopeOk (osScope o)
  | .amoFadd _ _ _ o | .amoFmin _ _ _ o | .amoFmax _ _ _ o => scopeOk (osScope o)
  | .amocas _ _ _ _ o => scopeOk (osScope o)
  | .fence o => osOrder o != 0#2 && scopeOk (osScope o)
  | .tadd _ _ s | .tread _ _ s | .waitge _ _ s => scopeOk s
  | .msend _ _ c | .msendp _ _ _ c => c.toNat ≤ 28
  | .tbind _ _ c => c.toNat ≤ 30
  | .bar _ _ s | .barw _ _ s => s.toNat ≤ 5
  | .bara _ _ _ s | .elect _ _ _ s => s.toNat ≤ 5
  | .vwaitm b => b.toNat < 16
  | .vldt d _ _ k _ | .vstt d _ _ k _ => k != 3#2 && groupFits d (transK k)
  | .vadd _ _ _ w _ | .vsub _ _ _ w _ | .vmul _ _ _ w _ | .vmulh _ _ _ w _ | .vmulhz _ _ _ w _ | .vand _ _ _ w _
  | .vor _ _ _ w _ | .vxor _ _ _ w _ | .vandn _ _ _ w _ | .vsll _ _ _ w _ | .vsrl _ _ _ w _ | .vsra _ _ _ w _
  | .vmin _ _ _ w _ | .vmax _ _ _ w _ | .vminz _ _ _ w _ | .vmaxz _ _ _ w _ | .vaddSat _ _ _ w _
  | .vaddzSat _ _ _ w _ | .vsubSat _ _ _ w _ | .vsubzSat _ _ _ w _ | .vmac _ _ _ w _ | .vsel _ _ _ w _ => w != 3#2
  | .vdot _ _ _ w _ | .vdotz _ _ _ w _ => w == 1#2 || w == 2#2
  | .vfadd _ _ _ t _ | .vfsub _ _ _ t _ | .vfmul _ _ _ t _ | .vfma _ _ _ t _ | .vfnma _ _ _ t _ | .vfmin _ _ _ t _
  | .vfmax _ _ _ t _ | .vfcpsgn _ _ _ t _ => t != 3#2
  | .vcmpeq d _ _ _ | .vcmpne d _ _ _ | .vcmplt d _ _ _ | .vcmple d _ _ _ | .vcmpltz d _ _ _ | .vcmplez d _ _ _
  | .vfcmpeq d _ _ _ | .vfcmplt d _ _ _ | .vfcmple d _ _ _ | .vfcmpun d _ _ _ => d != 0#3
  | .pand d _ _ | .por d _ _ | .pxor d _ _ | .pandn d _ _ => d != 0#3
  | .pnot d _ => d != 0#3
  | .pwhile d _ => d != 0#3
  | .vcvtF32Bf16 _ a b _ r | .vcvtF32F16 _ a b _ r => vcvtNarrowOk a b r 2
  | .vcvtF32E4m3 _ a b _ r | .vcvtF32E5m2 _ a b _ r => vcvtNarrowOk a b r 4
  | .vcvtF32E2m1 _ a b _ r => vcvtNarrowOk a b r 8
  | .vcvtBf16F32 d _ | .vcvtF16F32 d _ => groupFits d 2
  | .vcvtE4m3F32 d _ | .vcvtE5m2F32 d _ => groupFits d 4
  | .vcvtE2m1F32 d _ => groupFits d 8
  | .vcvtS32F32 _ _ r | .vcvtZ32F32 _ _ r | .vcvtF32S32 _ _ r | .vcvtF32Z32 _ _ r => rmArith r
  | .vcvtS32S16x2 _ a _ | .vcvtZ32Z16x2 _ a _ => groupFits a 2
  | .vcvtS32S8x4 _ a _ | .vcvtZ32Z8x4 _ a _ => groupFits a 4
  | .vcvtS16x2S32 d _ | .vcvtZ16x2Z32 d _ => groupFits d 2
  | .vcvtS8x4S32 d _ | .vcvtZ8x4Z32 d _ => groupFits d 4
  | .mma d _ _ c q p => mmaOk d c q p
  | .mmab d _ _ c q p => mmaOk d c q p && 2 ≤ p.toNat
  | .zclr d f => tileOk f d
  | .zld d _ f => tileOk f d
  | .zst d _ r f _ t => tileOk f d && t.toNat ≤ 4 && rmConv r
  | .xgate _ _ _ s => s.toNat ≤ 4
  | .cAddi d _ => d != 0#5
  | .cJr a => a != 0#5
  | _ => true

/-- A well-formed instruction, as a proposition. -/
abbrev WellFormed (i : Instr) : Prop := i.wellFormed = true

end Sys2Proof
end

