-- ==== Sys2Proof/Machine/Sys.lean ====
section
/-! DEFINITION. The system major: control registers, safe points, the end of a task, service calls and user traps
(09_encoding.md R193, R194; 11_isa_scalar.md R238 to R243). -/

namespace Sys2Proof.Machine

namespace State

/-- The value of a control register (R193). -/
def csrVal (s : State) (k : BitVec 12) : Word :=
  let n := k.toNat
  if 0x40 ≤ n ∧ n ≤ 0x4F then s.cdescs.get 0#64 (s.ck * 16 + (n - 0x40))
  else match n with
  | 0x000 => BitVec.ofNat 64 s.cur.core
  | 0x001 => BitVec.ofNat 64 s.cur.rid
  | 0x002 => BitVec.ofNat 64 (s.cur.slot + s.me.frame * 256)
  | 0x003 => BitVec.ofNat 64 (s.cycle s.dk)
  | 0x004 => BitVec.ofNat 64 (s.coreSt s.ck).instret
  | 0x005 => BitVec.ofNat 64 s.me.safecnt
  | 0x006 => BitVec.ofNat 64 s.vlen
  | 0x007 => s.myFrame.mjob.zeroExtend 64
  | 0x010 => s.me.frm.zeroExtend 64
  | 0x011 => s.me.fflags.zeroExtend 64
  | 0x012 => (s.coreSt s.ck).srseed.zeroExtend 64
  | 0x020 => s.myRealm.wdogcfg &&& 0x001FFFFFFFFFFFFF#64
  | 0x080 => (s.dieSt s.dk).rdLocal
  | 0x081 => (s.dieSt s.dk).rdRemote
  | 0x082 => (s.dieSt s.dk).rdServed
  | 0x083 => (s.dieSt s.dk).wrServed
  | 0x0A0 => if s.myRealm.tlbinving then 1#64 else 0#64
  | _ => 0#64

/-- Write a control register: the writable bits its map gives (R108, R111, R193, R239). -/
def csrPut (s : State) (k : BitVec 12) (v : Word) : State :=
  let n := k.toNat
  if 0x40 ≤ n ∧ n ≤ 0x4F then { s with cdescs := s.cdescs.set 0#64 (s.ck * 16 + (n - 0x40)) v }
  else match n with
  | 0x010 => s.modSlot s.sk fun t => { t with frm := v.truncate 2 }
  | 0x011 => s.modSlot s.sk fun t => t.putFlags s.clock (v.truncate 5)
  | 0x012 => s.modCore s.ck fun c => { c with srseed := v.truncate 32 }
  | 0x080 => s.modDie s.dk fun d => { d with rdLocal := v }
  | 0x081 => s.modDie s.dk fun d => { d with rdRemote := v }
  | 0x082 => s.modDie s.dk fun d => { d with rdServed := v }
  | 0x083 => s.modDie s.dk fun d => { d with wrServed := v }
  | 0x0A0 => s.modRealm s.cur.rid fun r => { r with tlbinving := true, tlbinvAt := v }
  | _ => s

/-- Room for one more entry with a payload in the issuing core's outbound queue: 16 entries, 16 KiB (R247). -/
def outRoom (s : State) (size : Nat) : Bool :=
  let q := (s.coreSt s.ck).outq
  q.length < 16 && (q.map (·.size)).sum + size ≤ 16384
/-- Take an outbound entry for the issuing task; answers its number. -/
def takeOut (s : State) (e : OutEnt) : Nat × State :=
  let id := (s.coreSt s.ck).outNext
  (id, s.modCore s.ck fun c => { c with outq := c.outq ++ [{ e with id := id }], outNext := c.outNext + 1 })

/-- An outbound entry is freed on arrival (R247). -/
def freeOut (s : State) (rid core id : Nat) : State :=
  s.modCore (coreKey rid core) fun c => { c with outq := c.outq.filter (·.id != id) }

/-- A message of the issuing task leaves through the outbound queue, whose entry it holds until it arrives (R247, R258). -/
def sendOut (s : State) (m : Msg) : State :=
  let (id, t) := s.takeOut { id := 0, frame := s.me.frame, size := m.payload.length }
  t.send { m with out := some id }

end State

/-- FFLAGS (R111). -/
def csrFflags : BitVec 12 := 0x011#12
/-- A control-register access that writes: x[d] ← old, then the register (R239). A TLBINV write is the trap handler core's
alone, waits for an invalidation in progress, and its value has no bit outside [56:12] and [1:0] (R193, R369, log 24). `reads`: CSRS and
CSRC wait for the flags of earlier instructions, CSRW does not (R237, log 136). -/
def csrWrite (reads : Bool) (f : Word → Word → Word) (d a : BitVec 5) (k : BitVec 12) (s0 : State) : Res :=
  let s := if reads && k == csrFflags then s0.settleFlags else s0
  let old := if k = csrFflags then (s.me.doneFlags s.clock).zeroExtend 64 else s.csrVal k
  let v := f old (s.rx a)
  if k = 0x0A0#12 ∧ s.cur.core ≠ s.myRealm.trapc then .next (s.trapEnc 4 0x14)
  else if k = 0x0A0#12 ∧ s.myRealm.tlbinving then .next (s.waitFor .stall)
  else if k = 0x0A0#12 ∧ v &&& ~~~0x01FFFFFFFFFFF003#64 ≠ 0#64 then .next (s.trapVal 4 0x14 v.toNat 1)
  else .next (((s.csrPut k v).wx d old).retire 4)

/-- csrr (R239); a read of FFLAGS waits for every earlier floating-point instruction of the task (R237). -/
def execCsrr (d : BitVec 5) (k : BitVec 12) (s : State) : Res :=
  .next (((if k = csrFflags then s.settleFlags else s).wx d (s.csrVal k)).retire 4)
/-- csrw (R239). -/
def execCsrw (d a : BitVec 5) (k : BitVec 12) (s : State) : Res := csrWrite false (fun _ x => x) d a k s
/-- csrs (R239). -/
def execCsrs (d a : BitVec 5) (k : BitVec 12) (s : State) : Res := csrWrite true (fun old x => old ||| x) d a k s
/-- csrc (R239). -/
def execCsrc (d a : BitVec 5) (k : BitVec 12) (s : State) : Res := csrWrite true (fun old x => old &&& ~~~x) d a k s

/-- Whether a live mask marks a vector register (R46). -/
def marksVector (mask : Nat) : Bool := bitsOf mask 94 63 != 0

namespace State

/-- Halve the claim of a frame: never below 8 lanes (R268). -/
def halve (s : State) (fk : Nat) : State := s.modFrame fk fun f => { f with width := f.width / 2 }

/-- A safe point with live mask `mask` (R47, R49, R241, R268, R273): vector memory instructions are performed, unmarked
registers read as zero, the claim may be halved, and the task is evicted when a ready task that `p` admits waits for a slot,
or the realm halts. -/
def safePoint (s : State) (len mask : Nat) (p : Nat → Bool) (mayHalve : Bool) : State :=
  if !s.safeReady then s.waitFor .stall
  else
    let t := (s.flushVops s.cur.rid s.cur.core s.me.frame).retireSafe len
    let t := t.zeroUnmarked t.sk t.fk mask
    let t := if mayHalve && !marksVector mask && !(t.octetSt t.octk).claims.isEmpty && 8 < t.vlen && Config.halveClaim t.fresh
      then t.halve t.fk else t
    if t.slotWanted t.cur.rid t.cur.core p || t.halting t.cur.rid then
      t.evict t.cur.rid t.cur.core t.cur.slot mask true
    else t

end State

/-- SAFE n: a reserved use with n not below NLM; evicted when a ready task of a strictly higher class waits (R49, R241, log 23). -/
def safeN (n len : Nat) (s : State) : Res :=
  if bitsOf s.me.entry.toNat 47 40 ≤ n then .next (s.trapVal len 0x14 n 0)
  else .next (s.safePoint len (s.liveMask s.cur.rid s.cur.core s.me.entry n) (fun c => c < s.me.cls) true)

/-- safe n (R241). -/
def execSafe (n : BitVec 8) (s : State) : Res := safeN n.toNat 4 s
/-- c.safe n (R189, R241). -/
def execCSafe (n : BitVec 8) (s : State) : Res := safeN n.toNat 2 s
/-- yield: every register is live; evicted when a ready task of the same or a higher class waits (R49, R241). -/
def execYield (s : State) : Res := .next (s.safePoint 4 State.allLive (fun c => c ≤ s.me.cls) false)

/-- done: release of scope .dev, the claim, the slot and the frame (R242, R269); the launch or stage that waits for it
counts it (R164, R165, R171). -/
def execDone (s : State) : Res :=
  if !s.safeReady then .next (s.waitFor .stall)
  else if !s.canRelease 4 then .next (s.awaitRelease 4 .stall)
  else
    let g := s.me.grp
    let f := s.me.frame
    let t := (s.release 4).retireSafe 4
    .next (((t.dropClaim t.cur.rid t.cur.core f).freeTask t.cur.rid t.cur.core t.cur.slot).groupDone t.cur.rid g)

/-- svc n: a class-1 message with ORD 1 to system handler 0xF1 of the trap handler core; the send is a release at .dev
(R243, R368). -/
def execSvc (n : BitVec 8) (s : State) : Res :=
  let scope := (s.relScope (some 4)).getD 0
  if !s.canRelease scope then .next (s.awaitRelease scope .stall)
  else if !s.outRoom 0 then .next (s.waitFor .stall)
  else
    let m : Msg := { rid := s.cur.rid, sdev := s.fabid, score := s.cur.core,
                     h0 := mkH0 0 1 true 0 0xF1 0xFFF s.myRealm.trapc,
                     h1 := mkH1 true false s.cur.rid s.fabid s.cur.core 0,
                     a0 := n.zeroExtend 64,
                     a1 := BitVec.ofNat 64 (s.cur.core + (s.cur.slot + s.me.frame * 256) * 2 ^ 20),
                     a2 := s.pc, a3 := s.rx 10#5 }
    .next (((s.release scope).sendOut m).retire 4)

/-- trap n: a user trap at its own offset (R243, R365). -/
def execTrap (n : BitVec 8) (s : State) : Res := .next (s.trap 4 { code := 6, detail := n.toNat })

end Sys2Proof.Machine
end

