-- ==== Sys2Proof/Machine/MemI.lean ====
section
/-! DEFINITION. Loads, stores, strong accesses, atomics, fences and timeline counters (12_isa_memory.md, R245 to R256), with
the compact forms that expand to them. -/

namespace Sys2Proof.Machine

/-- The scope of a release part, if the order has one (R77, R245). -/
def relPart (o : BitVec 5) : Option Nat := if (osOrder o).getLsbD 1 then some (osScope o).toNat else none
/-- The scope of an acquire part, if the order has one (R77, R245). -/
def acqPart (o : BitVec 5) : Option Nat := if (osOrder o).getLsbD 0 then some (osScope o).toNat else none
/-- The order and scope of a form that is a release of its scope (R245, R255). -/
def osRel (sc : BitVec 3) : BitVec 5 := 2#2 ++ sc

namespace State

/-- A scalar access that overlaps an outstanding vector memory instruction of its task comes after it (R273): the elements that the
core performs are performed now; where others perform one, the access waits. -/
def settleThen (s : State) (l : Loc) (n : Nat) (k : State → State) : State :=
  if vopsTouch s.cur.rid s.myFrame.vops l n then
    let t := s.flushVops s.cur.rid s.cur.core s.me.frame
    if vopsTouch t.cur.rid t.myFrame.vops l n then t.waitFor .stall else k t
  else k s

/-- LM that the issuing core reaches without a message: its own and its cluster's (R53). -/
def nearLm (s : State) (core : Nat) : Bool := sameCluster s.cur.core core

/-- A request to another core's service slot, for which the slot waits (R53, R247). -/
def askRemote (s : State) (core off n : Nat) (op : RemOp) (fwd : List (Nat × Byte)) : State :=
  if !s.outRoom 0 then s.waitFor .stall
  else
    let (id, t) := s.takeOut { id := 0, frame := s.me.frame }
    let r : RemReq := { rid := s.cur.rid, src := s.cur.core, frame := s.me.frame, id := id, core := core, off := off,
                        size := n, op := op, fwd := fwd }
    { t with rnet := t.rnet ++ [r] }.waitFor (.load id)
/-- A request to a REMOTE page, for which the slot waits and holds an outbound entry (R66, R68, R247): a strong access after the
core's own stores to the line have drained (R71), or, with `own`, a weak load of the whole line in which the core's own bytes
replace the line's (R70, R71, R82). One that is not `quiet` is a read request of the cluster (R73). -/
def askFar (s : State) (quiet : Bool) (l : Loc) (va n : Nat) (op : RemOp) (own : Option (List (Nat × Byte)) := none) : State :=
  if !s.outRoom 0 then s.waitFor .stall
  else
    let t := if own.isNone then (s.drainLine s.cur.rid s.cur.core l).dropLine s.cur.rid s.clk l else s
    let t := if quiet then t else t.countRead t.dk l
    let (id, t) := t.takeOut { id := 0, frame := s.me.frame }
    let r : FarReq := { rid := s.cur.rid, core := s.cur.core, id := id, loc := l, va := va, size := n, op := op,
                        frame := s.me.frame, line := own.isSome, fwd := own.getD [] }
    { t with farQ := t.farQ ++ [r] }.waitFor (.load id)
/-- A weak load of another device's memory: from the core's own stores or the cluster cache, else the line is asked for (R70, R71,
R82). -/
def loadFar (s : State) (l : Loc) (va n : Nat) (fin : State → Nat → State) : State :=
  match s.farHeld s.cur.rid s.cur.core l n with
  | (some bs, t) => fin t (ofBytes bs)
  | (none, t) => t.askFar false l va n .load (some (t.farOwn t.cur.rid t.cur.core l))
/-- A request to a REMOTE page that the task does not wait for (R249). -/
def postFar (s : State) (l : Loc) (va n : Nat) (op : RemOp) : State :=
  let t := (s.drainLine s.cur.rid s.cur.core l).dropLine s.cur.rid s.clk l
  let id := (t.coreSt t.ck).outNext
  let r : FarReq := { rid := s.cur.rid, core := s.cur.core, id := id, loc := l, va := va, size := n, op := op,
                      frame := s.me.frame }
  { t with farQ := t.farQ ++ [r] }.modCore s.ck fun c => { c with outNext := c.outNext + 1 }
/-- A store to another core's LM is posted (R53, R82). -/
def postRemote (s : State) (core off : Nat) (bs : List Byte) : State :=
  let (id, t) := s.takeOut { id := 0, frame := s.me.frame, store := true, addr := core * 2 ^ 18 + off, bytes := bs }
  let r : RemReq := { rid := s.cur.rid, src := s.cur.core, frame := s.me.frame, id := id, core := core, off := off,
                      size := bs.length, op := .store bs }
  { t with rnet := t.rnet ++ [r] }

/-- The location behind an address whose reply has come. -/
def replyLoc (s : State) (va : Nat) : Loc :=
  match s.checkForm s.cur.rid va 0 with
  | some (.ok l) => l
  | _ => match s.tlbFind s.clk va with
    | some e => s.leafLoc s.cur.rid e va
    | none => .far 0xFFF 0 0 va 0

/-- A read by the issuing task that waits for its value: the reply when it has come, else the access itself. `strong` reads
are performed at the owner; weak ones take the paths of R53 (R246 to R249). A `quiet` read is none of the cluster's read
requests (R73, log 31). `fin` completes the instruction. -/
def readWith (s : State) (quiet : Bool) (len maj va n : Nat) (strong : Bool) (fin : State → Loc → Nat → State) : State :=
  match s.me.wait with
  | .load id => s.waitFor (.load id)
  | .refused _ code detail info _ => s.trap len { code := code, detail := if code = 0x13 then maj else detail, addr := va, info := info }
  | .loaded _ v => fin s (s.replyLoc va) v
  | _ => s.withVa len maj va n false fun t0 l => t0.settleThen l n fun t =>
    match l with
    | .lm core off =>
      if t.nearLm core then
        if t.poisoned (locAddr t.cur.rid l) n then s.trapPoison len va l else fin t l (t.rdNum t.cur.rid l n)
      else
        let fwd := if strong then [] else t.queuedStores t.ck core off n
        if !strong && (List.range n).all (fun i => fwd.any (fun p => p.1 == i)) then
          fin t l (ofBytes (overlay fwd 0 0 (List.replicate n 0#8)))
        else t.askRemote core off n .load fwd
    | .dev .. =>
      if strong then
        if t.strongPoison t.cur.rid t.cur.core l n then s.trapPoison len va l
        else
          let (v, u) := t.strongRead t.cur.rid t.cur.core quiet l n
          fin u l v
      else if t.weakPoison t.cur.rid t.cur.core l n then s.trapPoison len va l
      else
        let (bs, _, u) := t.weakLoad t.cur.rid t.cur.core l n []
        fin u l (ofBytes bs)
    | .far .. => if strong then t.askFar quiet l va n .load else t.loadFar l va n fun u v => fin u l v
/-- A read of an instruction's operand in memory (R246 to R249): a read request of the cluster. -/
def readThen (s : State) (len maj va n : Nat) (strong : Bool) (fin : State → Loc → Nat → State) : State :=
  s.readWith false len maj va n strong fin

/-- A weak load: where its request has been served before that of the load ahead of it, the value read then, else the read (R75,
R83, R246). -/
def weakThen (s : State) (len maj va n : Nat) (fin : State → Nat → State) : State :=
  match s.me.wait with
  | .ahead v => fin s v
  | .early v => s.readThen len maj va n false fun t _ x => (fin t x).modSlot t.sk fun y => { y with wait := .ahead v }
  | _ => s.readThen len maj va n false fun t _ x => fin t x

/-- A weak store of the issuing task (R246, R247). -/
def weakStore (s : State) (len maj va n v : Nat) : State :=
  s.withVa len maj va n true fun t0 l => t0.settleThen l n fun t =>
    match l with
    | .lm core off =>
      if t.nearLm core then (t.wrNum t.cur.rid l n v).retire len
      else if !t.outRoom 0 then s.waitFor .stall
      else (t.postRemote core off (toBytes n v)).retire len
    | _ => (t.bufferStore t.cur.rid t.cur.core l va (toBytes n v)).retire len

/-- A strong write of the issuing task first performs its release part, its own or one that a fence has lent (R77); without one it
comes after the task's vector accesses to its bytes alone (R273). -/
def afterRelease (s : State) (rel : Option Nat) (l : Loc) (n : Nat) (k : State → State) : State :=
  match rel with
  | some sc => k (s.release sc)
  | none => s.settleThen l n k

/-- An atomic of the issuing task, with the order and scope of the instruction: poison check, release part, the operation at its
owner, acquire part (R76, R77, R251, R383). `fin` completes the instruction with the old value. -/
def atomicThen (s : State) (len maj va n : Nat) (op : AmoOp) (v w : Nat) (o : BitVec 5) (fin : State → Nat → State) : State :=
  let done (t : State) (old : Nat) : State := fin (match acqPart o with
    | some sc => t.acquire sc
    | none => t) old
  let rel := s.relScope (relPart o)
  match s.me.wait with
  | .load id => s.waitFor (.load id)
  | .refused _ code detail info _ => s.trap len { code := code, detail := if code = 0x13 then maj else detail, addr := va, info := info }
  | .loaded _ old => done s old
  | _ => if rel.any (!s.canRelease ·) then s.awaitRelease (rel.getD 0) .stall
    else s.withKind len maj va n 3 fun t0 l =>
      let here := match l with
        | .lm core _ => t0.nearLm core
        | .dev .. => true
        | .far .. => false
      if here && t0.strongPoison t0.cur.rid t0.cur.core l n then s.trapPoison len va l
      else t0.afterRelease rel l n fun t =>
        match l with
        | .lm core off =>
          if here then
            let (old, u) := t.atomicAt t.cur.rid t.cur.core l n op v w
            done u old
          else t.askRemote core off n (.amo op v w) []
        | .dev .. =>
          let (old, u) := t.atomicAt t.cur.rid t.cur.core l n op v w o
          done u old
        | .far .. => t.askFar true l va n (.amo op v w)

end State

/-! ### Weak loads and stores (R187, R246) -/

/-- A load of `n` bytes into x[d]. -/
def loadX (len : Nat) (signed : Bool) (n : Nat) (d a : BitVec 5) (off : Word) (s : State) : Res :=
  .next (s.weakThen len 0x18 (s.rx a + off).toNat n fun t v => (t.wx d (extendTo signed n v)).retire len)
/-- A store of the low n bytes of x[b]. -/
def storeX (len n : Nat) (a b : BitVec 5) (off : Word) (s : State) : Res :=
  .next (s.weakStore len 0x19 (s.rx a + off).toNat n ((s.rx b).toNat % 2 ^ (8 * n)))

/-- ld: size and extension as sz3 gives (R187, R246). -/
def execLd (d a : BitVec 5) (i : BitVec 12) (sz : BitVec 3) (s : State) : Res :=
  loadX 4 (sz.getLsbD 2) (codeSize sz.toNat) d a (immM i) s
/-- st (R187, R246). -/
def execSt (a b : BitVec 5) (i : BitVec 7) (sz : BitVec 3) (j : BitVec 5) (s : State) : Res :=
  storeX 4 (codeSize sz.toNat) a b (immS i j) s
/-- fld.w: bits unchanged (R246). -/
def execFldW (d a : BitVec 5) (i : BitVec 12) (s : State) : Res :=
  .next (s.weakThen 4 0x1A (s.rx a + immM i).toNat 4 fun t v => (t.wrf d (BitVec.ofNat 32 v)).retire 4)
/-- fst.w: the f register stands in field d (R246). -/
def execFstW (d a : BitVec 5) (i : BitVec 12) (s : State) : Res :=
  .next (s.weakStore 4 0x1A (s.rx a + immM i).toNat 4 (s.rf d).toNat)
/-- c.ldd: ld.d xd, [x2 + 8 × zext(imm6)] (R189). -/
def execCLdd (d : BitVec 5) (i : BitVec 6) (s : State) : Res := loadX 2 false 8 d 2#5 (i.zeroExtend 64 <<< 3) s
/-- c.std (R189). -/
def execCStd (b : BitVec 5) (i : BitVec 6) (s : State) : Res := storeX 2 8 2#5 b (i.zeroExtend 64 <<< 3) s
/-- c.ldw: ld.w.s (R189). -/
def execCLdw (d a : BitVec 3) (u : BitVec 5) (s : State) : Res := loadX 2 true 4 (creg d) (creg a) (u.zeroExtend 64 <<< 2) s
/-- c.stw (R189). -/
def execCStw (a b : BitVec 3) (u : BitVec 5) (s : State) : Res := storeX 2 4 (creg a) (creg b) (u.zeroExtend 64 <<< 2) s

/-! ### Strong loads and stores (R248, R249) -/

/-- lds: performed at the owner; an acquire of its scope with .acq (R249). -/
def execLds (d a : BitVec 5) (sz : BitVec 3) (o : BitVec 5) (s : State) : Res :=
  .next (s.readThen 4 0x1B (s.rx a).toNat (codeSize sz.toNat) true fun t _ v =>
    ((match acqPart o with
      | some sc => t.acquire sc
      | none => t).wx d (extendTo (sz.getLsbD 2) (codeSize sz.toNat) v)).retire 4)
/-- sts: a release of its scope with .rel; posted to another core's LM, performed at the home for device memory (R249). -/
def execSts (a b : BitVec 5) (sz : BitVec 2) (o : BitVec 5) (s : State) : Res :=
  let n := codeSize sz.toNat
  let va := (s.rx a).toNat
  let v := (s.rx b).toNat % 2 ^ (8 * n)
  let rel := s.relScope (relPart o)
  if rel.any (!s.canRelease ·) then .next (s.awaitRelease (rel.getD 0) .stall)
  else .next (s.withVa 4 0x1B va n true fun t0 l => t0.afterRelease rel l n fun t =>
    match l with
    | .lm core off =>
      if t.nearLm core then (t.wrNum t.cur.rid l n v).retire 4
      else if !t.outRoom 0 then s.waitFor .stall
      else (t.postRemote core off (toBytes n v)).retire 4
    | .dev .. => (t.strongWrite t.cur.rid t.cur.core l n v).retire 4
    | .far .. => (t.postFar l va n (.store (toBytes n v))).retire 4)

/-! ### Atomics (R250 to R252) -/

/-- An AMO: operand x[b] of n bytes, old value to x[d], extended as R250 gives. -/
def amo (op : AmoOp) (signed : Bool) (n : Nat) (d a b o : BitVec 5) (s : State) : Res :=
  .next (s.atomicThen 4 0x1C (s.rx a).toNat n op ((s.rx b).toNat % 2 ^ (8 * n)) 0 o
    fun t old => (t.wx d (extendTo signed n old)).retire 4)
/-- Operand size of a z bit (R250). -/
def amoSize (z : BitVec 1) : Nat := if z = 1#1 then 8 else 4

/-- amo.swap (R250, R251). -/
def execAmoSwap (d a b : BitVec 5) (z : BitVec 1) (o : BitVec 5) (s : State) : Res :=
  amo .swap true (amoSize z) d a b o s
/-- amo.add (R250, R251). -/
def execAmoAdd (d a b : BitVec 5) (z : BitVec 1) (o : BitVec 5) (s : State) : Res :=
  amo .add true (amoSize z) d a b o s
/-- amo.and (R250, R251). -/
def execAmoAnd (d a b : BitVec 5) (z : BitVec 1) (o : BitVec 5) (s : State) : Res :=
  amo .and true (amoSize z) d a b o s
/-- amo.or (R250, R251). -/
def execAmoOr (d a b : BitVec 5) (z : BitVec 1) (o : BitVec 5) (s : State) : Res :=
  amo .or true (amoSize z) d a b o s
/-- amo.xor (R250, R251). -/
def execAmoXor (d a b : BitVec 5) (z : BitVec 1) (o : BitVec 5) (s : State) : Res :=
  amo .xor true (amoSize z) d a b o s
/-- amo.min (R250, R251). -/
def execAmoMin (d a b : BitVec 5) (z : BitVec 1) (o : BitVec 5) (s : State) : Res :=
  amo .min true (amoSize z) d a b o s
/-- amo.max (R250, R251). -/
def execAmoMax (d a b : BitVec 5) (z : BitVec 1) (o : BitVec 5) (s : State) : Res :=
  amo .max true (amoSize z) d a b o s
/-- amo.minz (R250, R251). -/
def execAmoMinz (d a b : BitVec 5) (z : BitVec 1) (o : BitVec 5) (s : State) : Res :=
  amo .minz false (amoSize z) d a b o s
/-- amo.maxz (R250, R251). -/
def execAmoMaxz (d a b : BitVec 5) (z : BitVec 1) (o : BitVec 5) (s : State) : Res :=
  amo .maxz false (amoSize z) d a b o s
/-- amo.fadd: FP32, zero-extended (R250, R251). -/
def execAmoFadd (d a b o : BitVec 5) (s : State) : Res :=
  amo .fadd false 4 d a b o s
/-- amo.fmin: FP32, zero-extended (R250, R251). -/
def execAmoFmin (d a b o : BitVec 5) (s : State) : Res :=
  amo .fmin false 4 d a b o s
/-- amo.fmax: FP32, zero-extended (R250, R251). -/
def execAmoFmax (d a b o : BitVec 5) (s : State) : Res :=
  amo .fmax false 4 d a b o s
/-- amocas: stores x[c] if the doubleword equals x[b]; x[d] ← old (R252). -/
def execAmocas (d a b c o : BitVec 5) (s : State) : Res :=
  .next (s.atomicThen 4 0x1D (s.rx a).toNat 8 .cas (s.rx c).toNat (s.rx b).toNat o
    fun t old => (t.wx d (BitVec.ofNat 64 old)).retire 4)

/-! ### Fences (R253) -/

/-- What a release fence lends to the task's later strong writes (R77). -/
def State.lend (s : State) (rel : Option Nat) : State :=
  match rel with
  | some sc => s.modSlot s.sk fun t => { t with lent := max t.lent (sc + 1) }
  | none => s
/-- fence: a release part waits for every earlier access and drains the buffer at .clu or wider, and is lent to the later strong writes;
an acquire part comes after every earlier load of the task has returned its value, and at .die or wider empties the cluster cache (R77,
R253, log 114, log 133). -/
def execFence (o : BitVec 5) (s : State) : Res :=
  if (relPart o).any (!s.canRelease ·) then .next (s.awaitRelease ((relPart o).getD 0) .stall)
  else if (acqPart o).isSome && s.loadPending s.cur.rid s.cur.core s.me.frame then .next (s.awaitVops .stall)
  else
    let t := match relPart o with
      | some sc => s.release sc
      | none => if s.myFrame.vops.isEmpty then s else s.flushVops s.cur.rid s.cur.core s.me.frame
    .next (((match acqPart o with
      | some sc => t.acquire sc
      | none => t).lend (relPart o)).retire 4)

/-! ### Timeline counters (R254 to R256) -/

/-- tadd: an atomic add that returns nothing, a release of its scope (R254, R255). -/
def execTadd (a b : BitVec 5) (sc : BitVec 3) (s : State) : Res :=
  .next (s.atomicThen 4 0x1F (s.rx a).toNat 8 .add (s.rx b).toNat 0 (osRel sc) fun t _ => t.retire 4)
/-- tread: a strong load, an acquire of its scope (R254, R255). -/
def execTread (d a : BitVec 5) (sc : BitVec 3) (s : State) : Res :=
  .next (s.readThen 4 0x1F (s.rx a).toNat 8 true fun t _ v => ((t.acquire sc.toNat).wx d (BitVec.ofNat 64 v)).retire 4)

/-- The issuing task watches a line (R256). -/
def State.watch (s : State) (l : Loc) : State :=
  let w : Watch := { rid := s.cur.rid, core := s.cur.core, frame := s.me.frame, line := locAddr s.cur.rid l / 64 }
  if s.watches.contains w then s else { s with watches := s.watches ++ [w] }
/-- It no longer watches. -/
def State.unwatch (s : State) : State :=
  let mine (w : Watch) : Bool := w.rid == s.cur.rid && w.core == s.cur.core && w.frame == s.me.frame
  { s with watches := s.watches.filter (fun w => !mine w), reports := s.reports.filter (fun w => !mine w) }

/-- waitge: reads at the owner, each read an acquire; while the value is below x[b], unsigned, the slot waits for a report
of a write to the line or the time limit, and may be evicted (R256, R47, R49, R94). -/
def execWaitge (a b : BitVec 5) (sc : BitVec 3) (s : State) : Res :=
  if !s.safeReady then .next (s.waitFor .stall)
  else match s.me.wait with
    | .watch l va thr cell => .next (s.waitSafe (.watch l va thr cell))
    | _ => .next ((s.flushVops s.cur.rid s.cur.core s.me.frame).readThen 4 0x1F (s.rx a).toNat 8 true fun t l v =>
        if (s.rx b).toNat ≤ v then ((t.acquire sc.toNat).unwatch).retireSafe 4
        else ((t.acquire sc.toNat).watch l).waitSafe (.watch l (s.rx a).toNat (s.rx b).toNat false))

end Sys2Proof.Machine
end

