-- ==== Sys2Proof/Machine/Desc.lean ====
section
/-! DEFINITION. Completion descriptors (14_isa_matrix.md, R295, R296; 04_ordering.md, R93) and the operand checks that the
engines' instructions share (R307). -/

namespace Sys2Proof.Machine

/-- KIND. -/
def descKind (d : Word) : Nat := bitsOf d.toNat 63 62
/-- SCOPE. -/
def descScope (d : Word) : Nat := bitsOf d.toNat 61 59
/-- AMT. -/
def descAmt (d : Word) : Nat := bitsOf d.toNat 58 53
/-- TARGET. -/
def descTarget (d : Word) : Nat := bitsOf d.toNat 52 0

/-- The first of a list of checks that fails (R361, log 37). -/
def firstFlt : List (Option Flt) → Option Flt
  | [] => none
  | some f :: _ => some f
  | none :: rest => firstFlt rest

/-- RESVAL of an operand, where `bad` holds (R365). -/
def resval (bad : Bool) (maj value operand : Nat) : Option Flt :=
  if bad then some { code := 2, detail := maj, addr := value, info := operand } else none

namespace State

/-- A captured descriptor that R296 reserves, for a core. -/
def descBad (s : State) (rid core : Nat) (d : Word) : Bool :=
  let t := descTarget d
  match descKind d with
  | 0 => d != 0#64
  | 1 => descScope d == 0 || descScope d == 7 || descAmt d == 0
  | 2 => descScope d == 0 || descScope d == 7 || descAmt d != 0 || bitsOf t 52 40 != 0
      || (248 ≤ bitsOf t 39 32 && bitsOf t 39 32 ≤ 251)
  | _ => descScope d != 0 || descAmt d != 0 || bitsOf t 52 5 != 0
      || (s.ring (coreKey rid core * 16 + bitsOf t 3 0)).count == 0
/-- CDESC i of a core. -/
def cdesc (s : State) (rid core i : Nat) : Word := s.cdescs.get 0#64 (coreKey rid core * 16 + i)

/-- The atomic add to a 64-bit word at its location, by an engine or a unit (its number in UNITMEM) on behalf of core `core` (R78, R91,
R296): the fault it meets, or the state after it. -/
def addAt (s : State) (rid core who va amt : Nat) (l : Loc) : Option Flt × State :=
  match l with
  | .far .. =>
    let id := (s.coreSt (coreKey rid core)).outNext
    let r : FarReq := { rid := rid, core := core, id := id, loc := l, va := va, size := 8, op := .amo .add amt 0, unit := some who }
    (none, { s with farQ := s.farQ ++ [r] }.modCore (coreKey rid core) fun c => { c with outNext := c.outNext + 1 })
  | _ =>
    if s.poisoned (locAddr rid l) 8 then (some { code := 0x21, addr := va }, s)
    else
      let old := s.rdNum rid l 8
      let w := match l with
        | .lm .. => s
        | _ => (s.countServed l).countWrite l
      (none, w.wrNum rid l 8 ((old + amt) % 2 ^ 64))
/-- An atomic add by a unit of a die (R91, R383). -/
def unitAdd (s : State) (rid core who va amt : Nat) : Option Flt × State :=
  let die := coreDie core
  match s.unitXlate rid die va 8 0 false with
  | (.error f, t) => (some f, t)
  | (.ok _, t) => match t.unitXlate rid die va 8 0 true with
    | (.error f, u) => (some f, u)
    | (.ok l, u) => u.addAt rid core who va amt l
/-- An atomic add by an engine of a core (its number in UNITMEM), through its cluster's TLB (R72, R91, R296); the cluster's cache drops
the line. `req` numbers the engine's request. Whether it is done, the fault it meets, and the state: a miss waits for its walk. -/
def engAdd (s : State) (rid core who req va amt : Nat) : Bool × Option Flt × State :=
  match s.engXlate rid core req va 8 0 false with
  | (.miss, t) => (false, none, t)
  | (.bad f, t) => (true, some f, t)
  | (.ok _, t) => match t.engXlate rid core req va 8 0 true with
    | (.miss, u) => (false, none, u)
    | (.bad f, u) => (true, some f, u)
    | (.ok l, u) =>
      let (f, w) := u.addAt rid core who va amt l
      (true, f, match l with
        | .lm .. => w
        | _ => w.dropLine rid (clusterKey rid core) l)

/-- The message of a trigger decrement: class 2, counter-directed; its event acquires at the descriptor's scope (R85, R296). -/
def decMsg (s : State) (rid core dev dcore ctr scope : Nat) : Msg :=
  { rid := rid, sdev := s.fabid, score := core, scope := scope, ddev := if dev = s.fabid then 0xFFF else dev,
    h0 := mkH0 0 2 false ctr 0 dev dcore, h1 := mkH1 false false rid s.fabid core 0 }

/-- The completion action of a captured descriptor (R93, R296): index `dix`, unit 4 for the copy unit, 5 for the matrix
engine; `req` numbers the action among the requests of the core's engines. Every write of the command has been performed before.
Whether the action is done; an add whose address misses the TLB waits for the walk. -/
def descAction (s : State) (rid core : Nat) (d : Word) (dix unit req : Nat) : Bool × State :=
  let t := descTarget d
  match descKind d with
  | 0 => (true, s)
  | 1 =>
    match s.engAdd rid core unit req (8 * t) (descAmt d) with
    | (done, none, u) => (done, u)
    | (_, some f, u) => (true, u.coreReport rid core 0x29 f.code f.addr unit 0)
  | 2 => (true, s.send (s.decMsg rid core (bitsOf t 31 20) (bitsOf t 19 0) (bitsOf t 39 32) (descScope d)))
  | _ => (true, s.portEvent rid core (.ring (bitsOf t 3 0) (t.testBit 4) dix))

/-- Run the checks of an instruction in order: the trap of the first that fails, else the instruction (R361). -/
def checked (s : State) (cs : List (Option Flt)) (k : State) : State :=
  match firstFlt cs with
  | some f => s.trap 4 f
  | none => k

/-- An operand that must be an LM-window address of the issuing core (R307). -/
def ownLm (s : State) (maj : Nat) (v : Word) (operand : Nat) : Option Flt :=
  resval (v.toNat / 2 ^ 18 != lmBase s.cur.core / 2 ^ 18) maj v.toNat operand
/-- Its alignment (R307). -/
def alignTo (v : Word) (n : Nat) : Option Flt :=
  if v.toNat % n ≠ 0 then some { code := 0x10, detail := n, addr := v.toNat } else none
/-- The VA, in a core's LM window, of the first poisoned word among n bytes of its LM (R366). -/
def poisonedLm (s : State) (rid core off n : Nat) : Option Nat :=
  (s.poisonedWord (lmAddr rid core off) n).map fun w => lmBase core + (w - lmAddr rid core 0)
/-- A range of n bytes from an LM offset on, which must end below offset 0x3_0000: the fault names its first VA from there on (R307). -/
def lmRangeFrom (s : State) (off n : Nat) : Option Flt :=
  if 0x30000 < off + n then some { code := 0x12, addr := lmBase s.cur.core + max off 0x30000 } else none
/-- The range of n bytes from an address of the issuing core's window. -/
def lmRange (s : State) (v : Word) (n : Nat) : Option Flt := s.lmRangeFrom (v.toNat % 2 ^ 18) n
/-- The descriptor that an instruction captures (R296, R307). -/
def descCheck (s : State) (maj i : Nat) (used : Bool) : Option Flt :=
  let d := s.cdesc s.cur.rid s.cur.core i
  resval (used && s.descBad s.cur.rid s.cur.core d) maj d.toNat 4

end State
end Sys2Proof.Machine
end

