-- ==== Sys2Proof/Machine/Barrier.lean ====
section
/-! DEFINITION. Barriers, elections and gate selection (08_scheduling.md, R175 to R177; 12_isa_memory.md, R261, R262;
07_experts.md, R151; 15_isa_engines.md, R313). -/

namespace Sys2Proof.Machine

/-! ### Gate order (R151) -/

/-- Whether an entry places strictly before another in gate order. Entries of equal rank and one id that differ in their bits (the two
zeros, two NaNs) take the order of their bits, so that a merge depends on no arrival order (R151, log 130). -/
def GateEnt.before (x y : GateEnt) : Bool :=
  let vx := Fmt.f32.val x.score
  let vy := Fmt.f32.val y.score
  let tie := x.xid < y.xid || (x.xid == y.xid && x.score < y.score)
  match vx.isNan, vy.isNan with
  | true, true => tie
  | true, false => false
  | false, true => true
  | false, false => match vx.cmp vy with
    | .gt => true
    | .lt => false
    | .eq => tie
/-- Insert an entry into a sorted list, behind its equals. -/
def gateInsert (e : GateEnt) : List GateEnt → List GateEnt
  | [] => [e]
  | x :: rest => if e.before x then e :: x :: rest else x :: gateInsert e rest
/-- Sort entries into gate order. -/
def gateSort (l : List GateEnt) : List GateEnt := l.foldl (fun acc e => gateInsert e acc) []
/-- A merge of two lists keeps the first k, with k the lesser K (R151, R313). -/
def gateMerge (x y : Option (Nat × List GateEnt)) : Option (Nat × List GateEnt) :=
  match x, y with
  | some (k, l), some (k', l') => some (min k k', (gateSort (l ++ l')).take (min k k'))
  | some p, none => some p
  | none, q => q
/-- The entry that 8 bytes hold (log 53). -/
def gateOf (n : Nat) : GateEnt := { score := bitsOf n 31 0, xid := bitsOf n 55 32 }
/-- The bytes of K entries, padded (R151). -/
def gateBytes (l : List GateEnt) (k : Nat) : List Byte :=
  ((List.range k).map fun i =>
    let e := l[i]?.getD { score := 0x7FC00000, xid := 0xFFFFFF }
    toBytes 8 (e.score + e.xid * 2 ^ 32)).flatten

/-! ### Instances (R175, R176) -/

/-- Whether two cores of a realm share an instance of a scope (R8, R175). -/
def sameInst (scope a b : Nat) : Bool :=
  match scope with
  | 0 => a == b
  | 1 => coreDie a == coreDie b && octetIx a == octetIx b
  | 2 => sameCluster a b
  | 3 => coreDie a == coreDie b
  | _ => true
/-- Key of the instance of a core (R175). -/
def instKey (rid group scope core : Nat) : Nat :=
  let place := match scope with
    | 0 => core
    | 1 => coreDie core * 1280 + octetIx core
    | 2 => coreDie core * 320 + clusterIx core
    | 3 => coreDie core
    | _ => 0
  ((rid * 256 + group) * 8 + scope) * 2 ^ 20 + place
/-- Cores of an instance in a realm of n dies. -/
def instSize (n scope : Nat) : Nat :=
  match scope with
  | 0 => 1
  | 1 => 8
  | 2 => 32
  | 3 => 10240
  | _ => n * 10240

/-- N of a descriptor (R175). -/
def bdN (d : Nat) : Nat := bitsOf d 31 8
/-- A descriptor that an arrival of a scope may not use (R175, R261, R369). -/
def bdBad (scope d : Nat) : Bool :=
  bitsOf d 63 37 != 0 || bitsOf d 7 3 != 0 || 5 < bitsOf d 2 0 || bdN d == 0 || bitsOf d 2 0 != scope

namespace State

/-- VA of descriptor g (R175). -/
def bdVa (s : State) (rid g : Nat) : Nat := (s.realm rid).bart.toNat + 8 * g
/-- done(g) of the issuing core (R262). -/
def doneOf (s : State) (g : Nat) : BitVec 32 := s.doneTab.get 0xFFFFFFFF#32 (s.ck * 256 + g)
/-- Whether a core has the completion of episode e of group g (R262). -/
def episodeDone (s : State) (g e : Nat) : Bool := (s.doneOf g - BitVec.ofNat 32 e).toNat < 2 ^ 31

/-- The gate list of an arrival, where it has one: `doff`, K, N and LOFF of XGATE. Its ranges are addresses, which are checked after every
value (R337, R361). -/
def withGates (s : State) (gate : Option (Nat × Nat × Nat × Nat)) (bad : State)
    (k : State → Option (Nat × Nat × List GateEnt) → State) : State :=
  match gate with
  | none => k s none
  | some (doff, n, m, loff) =>
    let range (off len : Nat) : Option Flt :=
      if 0x30000 < off + len then some { code := 0x12, addr := lmBase s.cur.core + max off 0x30000 } else none
    bad.checked [range loff (8 * m), range doff (8 * n)]
      (s.settleThen (.lm s.cur.core loff) (8 * m) fun t =>
        let l := (List.range m).map fun i => gateOf (t.rdLmNum t.cur.rid t.cur.core (loff + 8 * i) 8)
        k t (some (doff, n, (gateSort l).take n)))

/-- An arrival of the issuing task (R175, R176, R262): the checks of its operands and of the descriptor, then those of XGATE's list, a
release of its scope, and the arrival. `gate` says where XGATE's list and its result stand. -/
def barArrive (s : State) (a b : BitVec 5) (scope : Nat) (elect : Bool) (gate : Option (Nat × Nat × Nat × Nat))
    (maj : Nat) (wait : State → Wait → State) : State :=
  let g := (s.rx a).toNat
  let r := (s.rx b).toNat
  s.checked [resval (256 ≤ g) maj g 1, resval (2 ^ 24 ≤ r || (scope == 5 && r == 0xFFFFFF)) maj r 2]
    (s.readWith true 4 maj (s.bdVa s.cur.rid g) 8 true fun t _ d =>
      if bdBad scope d then s.trapVal 4 maj d 4
      else if scope ≤ 4 && bdN d ≤ r then s.trapVal 4 maj r 2
      else t.withGates gate s fun t gates =>
        if !t.canRelease scope then t.awaitRelease scope .stall
        else
          let m : BarArr := { rid := t.cur.rid, core := t.cur.core, frame := t.me.frame, group := g, scope := scope,
                              elect := if elect then some r else none, gates := gates.map fun q => (q.2.1, q.2.2), desc := d }
          let u := t.release scope
          wait { u with barNet := u.barNet ++ [m] } (.barReply g (gates.map fun q => (q.1, q.2.1))))

end State

/-! ### BAR, BARA, BARW, ELECT (R261, R262) -/

/-- bar: arrives and waits; a safe point and an acquire of its scope (R262). -/
def execBar (a b : BitVec 5) (c : BitVec 3) (s : State) : Res :=
  if !s.safeReady then .next (s.waitFor .stall)
  else match s.me.wait with
    | .barReply g gate => .next (s.waitSafe (.barReply g gate))
    | .barDone .. => .next ((s.acquire c.toNat).retireSafe 4)
    | .barWait g e gate =>
      if s.episodeDone g e then .next ((s.acquire c.toNat).retireSafe 4) else .next (s.waitSafe (.barWait g e gate))
    | _ => .next (s.barArrive a b c.toNat false none 0x22 State.waitSafe)
/-- bara: x[d] receives the arrival's episode when its reply comes; no safe point (R262). -/
def execBara (d a b : BitVec 5) (c : BitVec 3) (s : State) : Res :=
  match s.me.wait with
  | .bara g => .next (s.waitFor (.bara g))
  | .answer e => .next ((s.wx d e).retire 4)
  | _ => .next (s.barArrive a b c.toNat false none 0x22 fun t _ => t.waitFor (.bara (s.rx a).toNat))
/-- barw: waits for an episode of the group; a safe point (R262). -/
def execBarw (a b : BitVec 5) (c : BitVec 3) (s : State) : Res :=
  let g := (s.rx a).toNat
  .next (s.checked [resval (256 ≤ g) 0x22 g 1]
    (if !s.safeReady then s.waitFor .stall
      else
        let t := s.flushVops s.cur.rid s.cur.core s.me.frame
        let e := (s.rx b).toNat % 2 ^ 32
        if t.episodeDone g e then (t.acquire c.toNat).retireSafe 4 else t.waitSafe (.barWait g e none)))
/-- elect: 1 for the member whose rank is the least election rank of its episode (R262). -/
def execElect (d a b : BitVec 5) (c : BitVec 3) (s : State) : Res :=
  match s.me.wait with
  | .barReply g gate => .next (s.holdWait (.barReply g gate))
  | .barWait g e gate => .next (s.holdWait (.barWait g e gate))
  | .barDone _ _ r => .next (((s.acquire c.toNat).wx d (boolWord (r == (s.rx b).toNat))).retire 4)
  | _ => .next (s.barArrive a b c.toNat true none 0x22 State.holdWait)

/-- xgate: an arrival that carries a gate list; its values are checked before its addresses (R361); the final list stands at DOFF before the completion reaches the core (R313). -/
def execXgate (d a b : BitVec 5) (c : BitVec 3) (s : State) : Res :=
  let w := (s.rx d).toNat
  let doff := bitsOf w 43 26
  let k := bitsOf w 25 22
  let n := bitsOf w 21 18
  let loff := bitsOf w 17 0
  match s.me.wait with
  | .barReply g gate => .next (s.holdWait (.barReply g gate))
  | .barWait g e gate => .next (s.holdWait (.barWait g e gate))
  | .barDone .. => .next ((s.acquire c.toNat).retire 4)
  | _ =>
    .next (s.checked [resval (bitsOf w 63 44 != 0 || k == 0 || 8 < k || n == 0 || 8 < n || loff % 8 != 0 || doff % 8 != 0) 0x3A w 0]
      (s.barArrive a b c.toNat false (some (doff, k, n, loff)) 0x3A State.holdWait))

/-! ### The instances' events (R176, R177, R262) -/

namespace State

/-- The instance's own reading of a descriptor, at the first arrival of an episode; the arrival's reading where that read
faults (R175, log 19). -/
def instDesc (s : State) (m : BarArr) : Nat × State :=
  let die := if 4 ≤ m.scope then m.group % max 1 (s.realm m.rid).n else coreDie m.core
  match s.unitXlate m.rid die (s.bdVa m.rid m.group) 8 0x22 false with
  | (.ok l, t) =>
    match l with
    | .far .. => (m.desc, t)
    | _ => (t.rdNum m.rid l 8, t.countServed l)
  | (.error _, t) => (m.desc, t)

/-- An episode completes: the completion is multicast, and the instance begins the next (R176). -/
def completeEpisode (s : State) (rid group scope core : Nat) (i : BarInst) : State :=
  let d : BarDone := { rid := rid, group := group, scope := scope, at_ := core, episode := i.episode, rank := i.rank,
                       list := (i.list.map (·.2)).getD [], k := (i.list.map (·.1)).getD 8 }
  { s with barInsts := s.barInsts.set {} (instKey rid group scope core) { episode := i.episode + 1#32 }
           barDones := s.barDones ++ [d] }

end State

/-- BARRIER_ARRIVAL: an instance counts an arrival, replies with its episode, and completes the episode at N; at scope `.fab` it
sends the arrive flit instead (R176, R177). -/
def execBarrierArrival (s : State) : Res :=
  match s.barNet[s.cur.idx]? with
  | none => .next s
  | some m =>
    let key := instKey m.rid m.group m.scope m.core
    let s1 := { s with barNet := s.barNet.eraseIdx s.cur.idx }
    let i := s1.barInsts.get {} key
    let (d, s2) := if i.count = 0 then s1.instDesc m else (i.n * 256 + i.port * 2 ^ 32, s1)
    let i : BarInst := { i with n := bdN d, port := bitsOf d 36 32, count := i.count + 1,
                                rank := match m.elect with
                                  | some r => min i.rank r
                                  | none => i.rank,
                                list := gateMerge i.list m.gates }
    let r : BarRep := { rid := m.rid, core := m.core, frame := m.frame, group := m.group, episode := i.episode }
    let s3 := { s2 with barInsts := s2.barInsts.set {} key i, barReps := s2.barReps ++ [r] }
    if i.count ≠ i.n then .next s3
    else if m.scope = 5 then
      let data := toBytes 11 (m.group + i.episode.toNat * 2 ^ 8 + i.count % 2 ^ 24 * 2 ^ 40 + i.rank * 2 ^ 64)
      let s4 := { s3 with barInsts := s3.barInsts.set {} key { i with sent := true } }
      .next (s4.modPort i.port fun p => { p with singles := p.singles ++ [(5, data)] })
    else .next (s3.completeEpisode m.rid m.group m.scope m.core i)

/-- BARRIER_REPLY: the instance's reply reaches the arriving task (R262). -/
def execBarrierReply (s : State) : Res :=
  match s.barReps[s.cur.idx]? with
  | none => .next s
  | some r =>
    let t := { s with barReps := s.barReps.eraseIdx s.cur.idx }
    match t.waitOf r.rid r.core r.frame with
    | .barReply g gate =>
      if g = r.group then .next (t.setWait r.rid r.core r.frame (.barWait g r.episode.toNat gate)) else .next t
    | .bara g => if g = r.group then .next (t.setWait r.rid r.core r.frame (.answer (r.episode.zeroExtend 64))) else .next t
    | _ => .next t

namespace State

/-- The completion reaches the waits of one core: XGATE's result is written first, then each task that waits for the episode
is handed the least election rank (R262, R313). -/
def deliverDone (s : State) (core : Nat) (d : BarDone) : State :=
  (List.range 16).foldl (fun t f =>
    match t.waitOf d.rid core f with
    | .barWait g e gate =>
      if g = d.group && e = d.episode.toNat then
        let u := match gate with
          | some (doff, k) => t.wrLm d.rid core doff (gateBytes (d.list.take d.k) k)
          | none => t
        u.setWait d.rid core f (.barDone g e d.rank)
      else t
    | _ => t) s

end State

/-- COMPLETION_MULTICAST: a completion reaches one core of its instance, after every reply of the episode to that core and
after the completions of earlier episodes: done(g) moves on and the waits of the episode end (R176, R262). -/
def execCompletionMulticast (s : State) : Res :=
  match s.barDones[s.cur.idx]? with
  | none => .next s
  | some d =>
    let core := s.cur.core
    let early := (s.barDones.take s.cur.idx).any fun x =>
      x.rid == d.rid && x.group == d.group && x.scope == d.scope && sameInst x.scope x.at_ core && !x.served.contains core
    let pending := s.barReps.any fun r => r.rid == d.rid && r.core == core && r.group == d.group && r.episode == d.episode
    if !s.coreExists d.rid core || !sameInst d.scope d.at_ core || d.served.contains core || early || pending then .next s
    else
      let key := coreKey d.rid core * 256 + d.group
      let old := s.doneTab.get 0xFFFFFFFF#32 key
      let ahead := (d.episode - old).toNat
      let t := if 1 ≤ ahead && ahead < 2 ^ 31 then { s with doneTab := s.doneTab.set 0xFFFFFFFF#32 key d.episode } else s
      let t := t.deliverDone core d
      let full := d.served.length + 1 = instSize (s.realm d.rid).n d.scope
      .next { t with barDones := if full then t.barDones.eraseIdx s.cur.idx
                                 else t.barDones.set s.cur.idx { d with served := core :: d.served } }

/-- BARRIER_DONE_FLIT: the external network's done flit completes the episode of the realm's `.fab` instance that sent its
arrive flit, with the least election rank over all devices (R177, log 54). -/
def execBarrierDoneFlit (s : State) : Res :=
  match s.doneFlits with
  | [] => .next s
  | bs :: rest =>
    let n := ofBytes (bs.take 11)
    let key := instKey s.cur.rid (bitsOf n 7 0) 5 0
    let i := s.barInsts.get {} key
    if !i.sent || i.episode.toNat ≠ bitsOf n 39 8 then .next s
    else
      .next ({ s with doneFlits := rest }.completeEpisode s.cur.rid (bitsOf n 7 0) 5 0 { i with rank := bitsOf n 87 64 })

end Sys2Proof.Machine
end

