-- ==== Sys2Proof/Machine/Copy.lean ====
section
/-! DEFINITION. The copy unit (14_isa_matrix.md, R297 to R302; 23_state_failures.md, R380; 26_prog_lane_loss.md, R408): requests,
layout records, chunks, remote-write packets, and the events of the unit. -/

namespace Sys2Proof.Machine

/-! ### Layout records (R299, R300) -/

/-- A layout record. -/
structure Layout where
  /-- TBASE. -/
  tbase : Word
  /-- DST1 to DST3. -/
  dst : List Word
  /-- SST1 to SST3. -/
  sst : List Word
  /-- EXT2. -/
  ext2 : Nat
  /-- EXT3. -/
  ext3 : Nat
  /-- DSW. -/
  dsw : Nat
  /-- SSW. -/
  ssw : Nat
  /-- NDIM. -/
  ndim : Nat
  /-- Reserved bits [9:3]. -/
  res : Nat
  /-- ESZ. -/
  esz : Nat
  deriving DecidableEq, Repr

/-- The layout record that 64 bytes hold. -/
def layoutOf (bs : List Byte) : Layout :=
  let n := ofBytes bs
  let w (lo : Nat) : Word := BitVec.ofNat 64 (bitsOf n (lo + 63) lo)
  { tbase := w 448, dst := [w 256, w 320, w 384], sst := [w 64, w 128, w 192], ext2 := bitsOf n 39 16, ext3 := bitsOf n 63 40,
    dsw := bitsOf n 15 14, ssw := bitsOf n 13 12, ndim := bitsOf n 11 10, res := bitsOf n 9 3, esz := bitsOf n 2 0 }

/-- The number of the request among those of the core's engines, and of its completion action. -/
def CopyReq.who (r : CopyReq) : Nat := 4 * r.num
/-- OP. -/
def CopyReq.op (r : CopyReq) : Nat := bitsOf r.w0.toNat 5 0
/-- VA of the layout record. -/
def CopyReq.layVa (r : CopyReq) : Nat := 64 * bitsOf r.w0.toNat 56 6
/-- SER. -/
def CopyReq.ser (r : CopyReq) : Bool := r.w0.getLsbD 58
/-- CIX. -/
def CopyReq.cix (r : CopyReq) : Nat := bitsOf r.w3.toNat 63 60
/-- E0. -/
def CopyReq.e0 (r : CopyReq) : Nat := bitsOf r.w3.toNat 23 0
/-- E1 as the word holds it. -/
def CopyReq.e1raw (r : CopyReq) : Nat := bitsOf r.w3.toNat 47 24

/-- Length of a row that a swizzle mode asks for (R300). -/
def rowUnit (mode : Nat) : Nat := if mode = 1 then 512 else if mode = 2 then 256 else 1

/-- A layout that aborts a request with LAYOUT (R298, R299, R380). -/
def layoutBad (r : CopyReq) (l : Layout) : Bool :=
  let e := 2 ^ l.esz
  let above (i : Nat) : Bool := l.ndim < i && (l.dst[i - 1]?.getD 0#64 != 0#64 || l.sst[i - 1]?.getD 0#64 != 0#64)
  l.esz == 7 || l.ssw == 3 || l.dsw == 3 || l.res != 0 || (r.op == 1 && 3 < l.esz) || above 1 || above 2 || above 3
    || (l.ndim < 1 && r.e1raw != 0) || (l.ndim < 2 && l.ext2 != 0) || (l.ndim < 3 && l.ext3 != 0)
    || r.e0 * e % rowUnit l.ssw != 0 || r.e0 * e % rowUnit l.dsw != 0 || (r.op ≤ 1 && l.tbase != 0#64)

/-- The extents of a request: those above NDIM are 1 (R299, R301). -/
def extents (r : CopyReq) (l : Layout) : Nat × Nat × Nat × Nat :=
  (r.e0, if l.ndim < 1 then 1 else r.e1raw, if l.ndim < 2 then 1 else l.ext2, if l.ndim < 3 then 1 else l.ext3)
/-- Number of element moves of a request. -/
def moveCount (r : CopyReq) (l : Layout) : Nat :=
  let (a, b, c, d) := extents r l
  a * b * c * d
/-- The indices of element move n: i0 runs fastest (R302). -/
def moveIndex (r : CopyReq) (l : Layout) (n : Nat) : Nat × Nat × Nat × Nat :=
  let (a, b, c, _) := extents r l
  (n % a, n / a % b, n / (a * b) % c, n / (a * b * c))

/-- An offset along one side: row i of the swizzle at index `row`, elements of e bytes (R300, R301). -/
def sideOff (mode : Nat) (st : List Word) (e i0 row i2 i3 : Nat) : Word :=
  let x := i0 * e
  let q := x / 64 ^^^ (if mode = 1 then row % 8 else if mode = 2 then row % 4 else 0)
  BitVec.ofNat 64 (64 * q + x % 64) + BitVec.ofNat 64 row * (st[0]?.getD 0#64) + BitVec.ofNat 64 i2 * (st[1]?.getD 0#64)
    + BitVec.ofNat 64 i3 * (st[2]?.getD 0#64)

/-- An element move: where it goes, and where its bytes come from (none: the given bytes). -/
structure Move where
  /-- Destination address. -/
  dst : Nat
  /-- Source address. -/
  src : Option Nat
  /-- Bytes of a fill, or zeros. -/
  fill : List Byte := []
  /-- Address of the index-list entry that places it. -/
  entry : Option Nat := none
  deriving DecidableEq, Repr

/-- What reading one location of a request gives. -/
inductive EngRead where
  /-- Bytes, and which of their 8-byte words are poisoned. -/
  | ok (bs : List Byte) (poison : List Nat)
  /-- A fault. -/
  | bad (f : Flt)
  /-- Another device has not yet supplied the bytes, or a page walk is in progress. -/
  | lack
  deriving DecidableEq, Repr

namespace State

/-- Change a copy request of a core by its number. -/
def modReq (s : State) (k num : Nat) (f : CopyReq → CopyReq) : State :=
  s.modCore k fun c => { c with fifo := c.fifo.map fun r => if r.num = num then f r else r }

/-- The 8-byte words of n bytes from offset `off` of a line that are marked (R383). -/
def markedWords (marks : List Nat) (off n : Nat) : List Nat :=
  (List.range ((n + 7) / 8)).filter fun w => touches marks (off + 8 * w) (min 8 n)
/-- The 8-byte words of n bytes from an address that are poisoned (R383). -/
def poisonedWords (s : State) (a n : Nat) : List Nat := (List.range ((n + 7) / 8)).filter fun w => s.poisoned (a + 8 * w) (min 8 n)

/-- A read by the copy context of bytes in a line of another device: the line as it has been supplied for the chunk in hand or stands
in the cluster cache, else it is asked for (R66, R70, R301). -/
def copyFar (s : State) (rid core : Nat) (r : CopyReq) (l : Loc) (va n : Nat) (sent : List Loc) : EngRead × List Loc × State :=
  let tag := locAddr rid l / 64
  match r.got.find? (·.1 == tag), r.refused.find? (·.1 == tag) with
  | some (_, data, marks), _ => (.ok ((data.drop l.inLine).take n) (markedWords marks l.inLine n), sent, s)
  | none, some (_, code) => (.bad (refusal code va), sent, s)
  | none, none =>
    match s.cacheHit (clusterKey rid core) (64 * tag) l.inLine n with
    | some c => (.ok ((c.data.drop l.inLine).take n) [], sent, s)
    | none =>
      if r.asked.contains tag then (.lack, sent, s)
      else
        let (sent', t) := s.countLine (dieKey rid (coreDie core)) l sent
        let q : FarReq := { rid := rid, core := core, id := 0, loc := l, va := va, size := n, op := .load, line := true,
                            copy := some r.num, unit := some 4 }
        (.lack, sent', { t.modReq (coreKey rid core) r.num fun x => { x with asked := tag :: x.asked } with farQ := t.farQ ++ [q] })

/-- A weak read of the copy context (R70, R75, R301): LM at once, device memory through the cluster cache; a TLB miss waits for its
walk (R72). Beside the bytes, the lines that the chunk has requested (R73). -/
def copyLine (s : State) (rid core : Nat) (r : CopyReq) (va n : Nat) (sent : List Loc) : EngRead × List Loc × State :=
  match s.engXlate rid core r.who va n 0x36 false with
  | (.bad f, t) => (.bad f, sent, t)
  | (.miss, t) => (.lack, sent, t)
  | (.ok l, t) =>
    match l with
    | .lm .. => (.ok (t.rdLoc rid l n) (t.poisonedWords (locAddr rid l) n), sent, t)
    | .dev .. =>
      let a := locAddr rid l
      let p := if (t.cacheHit (clusterKey rid core) (a / 64 * 64) (a % 64) n).isNone then t.poisonedWords a n else []
      let (bs, sent', u) := t.cachedRead rid (dieKey rid (coreDie core)) (clusterKey rid core) l n sent
      (.ok bs p, sent', u)
    | .far .. => t.copyFar rid core r l va n sent
/-- A read of the copy context beside its sources: a layout record, an entry of an index list. -/
def copyRead (s : State) (rid core : Nat) (q : CopyReq) (va n : Nat) : EngRead × State :=
  let (r, sent, t) := s.copyLine rid core q va n q.counted
  match r with
  | .lack => (r, t.modReq (coreKey rid core) q.num fun x => { x with counted := sent })
  | _ => (r, t)

/-- Where the element move of index n goes, where no index list says so (R301). -/
def plainDst (r : CopyReq) (l : Layout) (n : Nat) : Nat :=
  let (i0, i1, i2, i3) := moveIndex r l n
  (r.w2 + sideOff l.dsw l.dst (2 ^ l.esz) i0 i1 i2 i3).toNat

/-- The element move of index n: none where a list entry skips it (R301). -/
def moveAt (s : State) (rid core : Nat) (r : CopyReq) (l : Layout) (n : Nat) : Except Flt (Option Move) × State :=
  let e := 2 ^ l.esz
  let (i0, i1, i2, i3) := moveIndex r l n
  let so := r.w1 + sideOff l.ssw l.sst e i0 i1 i2 i3
  let dd := plainDst r l n
  let at_ (base : Word) : Nat := (base + BitVec.ofNat 64 (4 * i1)).toNat
  let entry (base : Word) : EngRead × State := s.copyRead rid core r (at_ base) 4
  match r.op with
  | 0 => (.ok (some { dst := dd, src := some so.toNat }), s)
  | 1 => (.ok (some { dst := dd, src := none, fill := toBytes e r.w1.toNat }), s)
  | 2 =>
    match entry r.w1 with
    | (.bad f, t) => (.error f, t)
    | (.lack, t) => (.error { code := 0 }, t)
    | (.ok bs poison, t) =>
      if !poison.isEmpty then (.error { code := 0x21, addr := at_ r.w1 }, t)
      else if ofBytes bs = 0xFFFFFFFF then (.ok (some { dst := dd, src := none, fill := List.replicate e 0#8, entry := some (at_ r.w1) }), t)
      else (.ok (some { dst := dd, src := some (l.tbase + sideOff l.ssw l.sst e i0 (ofBytes bs) i2 i3).toNat, entry := some (at_ r.w1) }), t)
  | _ =>
    match entry r.w2 with
    | (.bad f, t) => (.error f, t)
    | (.lack, t) => (.error { code := 0 }, t)
    | (.ok bs poison, t) =>
      if !poison.isEmpty then (.error { code := 0x21, addr := at_ r.w2 }, t)
      else if ofBytes bs = 0xFFFFFFFF then (.ok none, t)
      else (.ok (some { dst := (l.tbase + sideOff l.dsw l.dst e i0 (ofBytes bs) i2 i3).toNat, src := some so.toNat,
                        entry := some (at_ r.w2) }), t)

/-- The first element move from n on, `fuel` of them at most, that is not in a block already taken; where its list entry
faults it is that one (R302). -/
def nextMove (s : State) (rid core : Nat) (r : CopyReq) (l : Layout) : Nat → Nat → Option Nat
  | 0, _ => none
  | fuel + 1, n =>
    match (s.moveAt rid core r l n).1 with
    | .error _ => some n
    | .ok none => nextMove s rid core r l fuel (n + 1)
    | .ok (some m) => if r.blocks.contains (m.dst / 64) then nextMove s rid core r l fuel (n + 1) else some n

/-- The moves of a block among the `fuel` moves from n on (R302), or the fault of the list entry of one of them (R380); code 0 where an
entry is not at hand. -/
def blockMoves (s : State) (rid core : Nat) (r : CopyReq) (l : Layout) (b : Nat) : Nat → Nat → Except Flt (List Move)
  | 0, _ => .ok []
  | fuel + 1, n =>
    match (s.moveAt rid core r l n).1, blockMoves s rid core r l b fuel (n + 1) with
    | .error f, rest => if f.code = 0 ∨ (r.op = 2 ∧ plainDst r l n / 64 = b) then .error f else rest
    | _, .error f => .error f
    | .ok (some m), .ok ms => .ok (if m.dst / 64 = b then m :: ms else ms)
    | .ok none, .ok ms => .ok ms

/-- The state in which the first list entry that is not at hand, among the `fuel` moves from n on, has been asked for. -/
def entryWait (s : State) (rid core : Nat) (r : CopyReq) (l : Layout) : Nat → Nat → State
  | 0, _ => s
  | fuel + 1, n =>
    match s.moveAt rid core r l n with
    | (.error f, t) => if f.code = 0 then t else entryWait s rid core r l fuel (n + 1)
    | _ => entryWait s rid core r l fuel (n + 1)

/-- A byte of the source that the request itself has written: as it was before, or as it is now (R301, log 9). -/
def undone (s : State) (r : CopyReq) (a : Nat) (bs : List Byte) : List Byte :=
  (enumBytes 0 bs).map fun p =>
    match r.undo.find? (fun q => q.1 == a + p.1) with
    | some q => if Config.oldOrNew (s.fresh * 2 ^ 52 + a + p.1) then q.2 else p.2
    | none => p.2

/-- The line of a move's index-list entry, which has been read, counts among the chunk's read requests (R73, log 35). -/
def countEntry (s : State) (rid core : Nat) (r : CopyReq) (m : Move) (sent : List Loc) : List Loc × State :=
  match m.entry with
  | none => (sent, s)
  | some va =>
    let (_, sent', t) := s.copyLine rid core r va 4 sent
    (sent', t)

/-- Read the sources of a chunk's moves, each line requested once (R73), and check their destinations, in order: the bytes by
offset in the block, the poisoned words, and the home of the block (log 35); where something is not at hand, the lines requested so
far. -/
def gather (rid core e : Nat) (r : CopyReq) :
    State → List Loc → List Move → List (Nat × Byte) → List Nat → Option Loc →
      (Except (Option Flt × List Loc) (List (Nat × Byte) × List Nat × Option Loc)) × State
  | s, _, [], acc, marks, home => (.ok (acc, marks, home), s)
  | s0, sent0, m :: rest, acc, marks, home =>
    let (sent, s) := s0.countEntry rid core r m sent0
    let (rd, sent', t) : EngRead × List Loc × State := match m.src with
      | none => (.ok m.fill [], sent, s)
      | some va =>
        match s.copyLine rid core r va e sent with
        | (.ok bs p, sent', t) =>
          match t.engXlate rid core r.who va e 0x36 false with
          | (.ok l, _) => (.ok (t.undone r (locAddr rid l) bs) p, sent', t)
          | _ => (.ok bs p, sent', t)
        | x => x
    match rd with
    | .bad f => (.error (some f, sent'), t)
    | .lack => (.error (none, sent'), t)
    | .ok bs p =>
      match t.engXlate rid core r.who m.dst e 0x36 true with
      | (.bad f, u) => (.error (some f, sent'), u)
      | (.miss, u) => (.error (none, sent'), u)
      | (.ok l, u) =>
        let off := m.dst % 64
        gather rid core e r u sent' rest (mergeBytes acc ((enumBytes 0 bs).map fun q => (off + q.1, q.2)))
          ((marks.filter fun w => !(off ≤ 8 * w && 8 * w + 8 ≤ off + e)) ++ p.map (off / 8 + ·)) (home.or (some l.line))

/-- A remote-write packet leaves (R408, log 36). -/
def sendPacket (s : State) (rid core : Nat) (r : CopyReq) : State × CopyReq :=
  match r.pkt with
  | none => (s, r)
  | some p =>
    match p.loc with
    | .far dev fdie t off key =>
      let m : Msg := { rid := rid, sdev := s.fabid, score := core, ddev := dev,
                       h0 := mkH0 (p.bytes.length / 64) 0 true 0 0xF9 dev (mkCore fdie 127 126),
                       h1 := mkH1 false false rid s.fabid core 0, a0 := BitVec.ofNat 64 (fdie * 2 ^ 39 + t * 2 ^ 38 + off),
                       a1 := BitVec.ofNat 64 p.bytes.length, a2 := BitVec.ofNat 64 key, a3 := BitVec.ofNat 64 p.tag,
                       payload := p.bytes, marks := p.marks, holes := p.holes }
      (s.send m, { r with pkt := none, unacked := r.unacked ++ [(p.tag, p.va, dev)] })
    | _ => (s, { r with pkt := none })

/-- A chunk whose home is another device joins the open packet, or opens one (R408). The bytes of the block that the request does
not place are free in the message, and are not written there (R302, log 36). -/
def joinPacket (s : State) (rid core : Nat) (r : CopyReq) (l : Loc) (va : Nat) (bs : List (Nat × Byte)) (marks : List Nat) :
    State × CopyReq :=
  let byte (i : Nat) : Option Byte := (bs.find? fun p => p.1 == i).map (·.2)
  let full := (List.range 64).map fun i => (byte i).getD (Config.freeByte s.fresh (64 * r.chunks + i))
  let holes := (List.range 64).filter fun i => (byte i).isNone
  let extends_ := match r.pkt with
    | some p => p.bytes.length < 2048 && (p.loc.plus p.bytes.length).same l && va == p.va + p.bytes.length && va % 2048 != 0
        && (match p.loc, l with
          | .far _ _ _ _ k, .far _ _ _ _ k' => k == k'
          | _, _ => false)
    | none => false
  let (t, r) := if extends_ then (s, r) else s.sendPacket rid core r
  let p : Packet := match r.pkt with
    | some p => { p with bytes := p.bytes ++ full, marks := p.marks ++ marks.map (· + p.bytes.length / 8),
                         holes := p.holes ++ holes.map (· + p.bytes.length) }
    | none => { loc := l, va := va, tag := r.chunks, bytes := full, marks := marks, holes := holes }
  let r := { r with pkt := some p }
  if 2048 ≤ p.bytes.length || (va + 64) % 2048 == 0 then t.sendPacket rid core r else (t, r)

end State

/-- The block of the chunk that a request takes next: none where there is none; not known while its index-list entry is not at hand. -/
def State.nextBlock (s : State) (rid core : Nat) (r : CopyReq) (l : Layout) : Option (Option Nat) :=
  (s.nextMove rid core r l (moveCount r l - r.pos) r.pos).map fun n =>
    if r.op ≤ 2 then some (plainDst r l n / 64)
    else match (s.moveAt rid core r l n).1 with
      | .ok (some m) => some (m.dst / 64)
      | .ok none => none
      | .error f => if f.code = 0 then none else some 0
/-- The open packet leaves where the request's next chunk is not adjacent to it, or there is none (R408); its other ends come with the
chunk that fills it. -/
def State.endPacket (s : State) (rid core : Nat) (r : CopyReq) (l : Layout) : State × CopyReq :=
  match r.pkt, s.nextBlock rid core r l with
  | some p, some (some b) => if 64 * b = p.va + p.bytes.length then (s, r) else s.sendPacket rid core r
  | some _, none => s.sendPacket rid core r
  | _, _ => (s, r)

/-- What taking a chunk gives. -/
inductive ChunkRes where
  /-- No chunk is left. -/
  | finished (s : State)
  /-- The chunk was written. -/
  | took (s : State) (r : CopyReq)
  /-- A fault at this chunk; the request as it goes on past it. -/
  | fault (s : State) (f : Flt) (r : CopyReq)
  /-- What it reads is not at hand: the state with a walk begun or a line asked for. -/
  | lack (s : State)

namespace State

/-- Take the next chunk of a request whose layout has been read (R302). A write to device memory goes to the home, and the cluster's
cache drops the line (R93, log 110). A chunk for this device closes the open packet, which holds consecutive chunks (R302). -/
def takeChunk (s : State) (rid core : Nat) (r : CopyReq) (l : Layout) : ChunkRes :=
  let total := moveCount r l
  match s.nextMove rid core r l (total - r.pos) r.pos with
  | none => .finished s
  | some n =>
    let past (b : List Nat) : CopyReq :=
      { r with pos := n + 1, blocks := b ++ r.blocks, chunks := r.chunks + 1, got := [], refused := [], counted := [] }
    match (s.moveAt rid core r l n).1, s with
    | .error f, t => if f.code = 0 then .lack (s.moveAt rid core r l n).2 else .fault t f (past (if r.op = 2 then [plainDst r l n / 64] else []))
    | .ok none, t => .finished t
    | .ok (some m), t =>
      let b := m.dst / 64
      let r' := past [b]
      match t.blockMoves rid core r l b (total - n) n with
      | .error f => if f.code = 0 then .lack (t.entryWait rid core r l (total - n) n) else .fault t f r'
      | .ok moves =>
        match gather rid core (2 ^ l.esz) r t r.counted moves [] [] none with
        | (.error (none, sent), u) => .lack (u.modReq (coreKey rid core) r.num fun x => { x with counted := sent })
        | (.error (some f, _), u) => .fault u f r'
        | (.ok (_, _, none), u) => .took u r'
        | (.ok (bs, marks, some home), u) =>
          match home with
          | .far .. =>
            let (v, q) := u.joinPacket rid core r home (64 * b) bs marks
            let (v, q) := v.endPacket rid core { r' with pkt := q.pkt, unacked := q.unacked } l
            .took v q
          | _ =>
            let (u, q) := u.sendPacket rid core r
            let a := locAddr rid home
            let old := bs.map fun p => (a + p.1, u.rdByte (a + p.1) (locKey home))
            let v := ((u.wrLoc rid home bs).countWrite home).dropLine rid (clusterKey rid core) home
            let v := marks.foldl (fun x w => x.markPoison (a + 8 * w)) v
            .took v { r' with pkt := q.pkt, unacked := q.unacked
                              undo := r'.undo ++ old.filter fun p => !r'.undo.any fun q => q.1 == p.1 }

/-- After a fault each later chunk holds its old bytes or its new bytes (R380, log 9). -/
def lateChunks (rid core : Nat) (l : Layout) : Nat → State → CopyReq → State × CopyReq
  | 0, s, r => (s, r)
  | fuel + 1, s, r =>
    match s.takeChunk rid core r l with
    | .took t r' =>
      if Config.oldOrNew (s.fresh * 2 ^ 24 + r.chunks) then lateChunks rid core l fuel t r'
      else lateChunks rid core l fuel s { r with pos := r'.pos, blocks := r'.blocks, chunks := r'.chunks }
    | .fault _ _ r' => lateChunks rid core l fuel s { r with pos := r'.pos, blocks := r'.blocks, chunks := r'.chunks }
    | _ => (s, r)

/-- A request aborts: the report, and what its later chunks become (R374, R377, R380, log 42). -/
def abortCopy (s : State) (rid core : Nat) (r : CopyReq) (l : Option Layout) (f : Flt) (chunk : Nat) : State × CopyReq :=
  let (t, r') := match l with
    | some x => lateChunks rid core x (moveCount r x) s r
    | none => (s, r)
  let (t, r') := t.sendPacket rid core r'
  (t.coreReport rid core 0x86 1 f.addr chunk (f.code * 2 ^ 16 + r.cix * 2 ^ 8 + r.op),
    { r' with taken := true, aborted := true, ahead := 0 })

/-- What a turn of a request gives: the state after it and the request, or the state in which it waits. -/
inductive Served where
  /-- A chunk was taken, or the request has ended. -/
  | did (s : State) (r : CopyReq)
  /-- It waits for a walk or for another device. -/
  | waits (s : State)

/-- One turn of a request: its layout record at its start, then one chunk (R299, R302, log 41). -/
def serve (s : State) (rid core : Nat) (r : CopyReq) : Served :=
  let start : Except (Flt × State) (List Byte × State) ⊕ State := match r.lay with
    | some bs => .inl (.ok (bs, s))
    | none => match s.copyRead rid core r r.layVa 64 with
      | (.ok bs p, t) => .inl (if !p.isEmpty then .error ({ code := 0x21, addr := r.layVa }, t) else .ok (bs, t))
      | (.bad f, t) => .inl (.error (f, t))
      | (.lack, t) => .inr t
  let done (p : State × CopyReq) : Served := .did p.1 p.2
  match start with
  | .inr t => .waits t
  | .inl (.error (f, t)) => done (t.abortCopy rid core r none f 0)
  | .inl (.ok (bs, t)) =>
    let l := layoutOf bs
    let fresh := r.lay.isNone
    let r := { r with lay := some bs }
    if layoutBad r l then done (t.abortCopy rid core r none { code := 0x23, addr := r.layVa } 0)
    else match t.takeChunk rid core r l with
      | .lack u => if fresh then .waits (u.modReq (coreKey rid core) r.num fun x => { x with lay := some bs }) else .waits u
      | .finished u =>
        let (v, q) := u.sendPacket rid core r
        .did v { q with taken := true }
      | .fault u f r' => done (u.abortCopy rid core r' (some l) f r.chunks)
      | .took u r' =>
        if (u.nextMove rid core r' l (moveCount r' l - r'.pos) r'.pos).isSome then .did u r'
        else
          let (v, q) := u.sendPacket rid core r'
          .did v { q with taken := true }

/-- Whether a request has more than k chunks left to take; an entry that is not at hand stands for one. -/
def hasChunk (s : State) (rid core : Nat) (l : Layout) : Nat → CopyReq → Bool
  | 0, r => (s.nextMove rid core r l (moveCount r l - r.pos) r.pos).isSome
  | k + 1, r => match s.nextMove rid core r l (moveCount r l - r.pos) r.pos with
    | none => false
    | some n =>
      let b := match (s.moveAt rid core r l n).1 with
        | .ok (some m) => [m.dst / 64]
        | _ => []
      hasChunk s rid core l k { r with pos := n + 1, blocks := b ++ r.blocks }
/-- Whether the unit has taken every chunk of a request: performed, or in flight (R302). -/
def allTaken (s : State) (rid core : Nat) (r : CopyReq) : Bool :=
  r.taken || (0 < r.ahead && r.lay.any fun bs => !s.hasChunk rid core (layoutOf bs) r.ahead r)
/-- The request that a core's FIFO serves now: the first with chunks left to take; with SER only at the head (R298, R302). -/
def activeReq (s : State) (rid core : Nat) : Option CopyReq :=
  let q := (s.coreSt (coreKey rid core)).fifo
  match q.findIdx? (fun r => !s.allTaken rid core r) with
  | none => none
  | some i => match q[i]? with
    | some r => if r.ser && i ≠ 0 then none else some r
    | none => none

/-- Chunks in flight in an octet: those whose reads are still to be performed, and those of packets whose last flit has not been sent
(R16, R302, R408). -/
def chunksInFlight (s : State) (rid core : Nat) : Nat :=
  let mine (c : Nat) : Bool := coreDie c == coreDie core && octetIx c == octetIx core
  (((s.net ++ s.ports.filterMap (·.2.txMsg)).filter fun m => m.rid == rid && m.ddev != 0xFFF && h0Class m.h0 == 0 && h0Hix m.h0 == 0xF9 && mine m.score).map
    fun m => m.payload.length / 64).sum
    + ((List.range 8).map fun p => ((s.coreSt (coreKey rid (coreAtOctetPos core p))).fifo.map fun r =>
        r.ahead + match r.pkt with
        | some q => q.bytes.length / 64
        | none => 0).sum).sum

end State

namespace State

/-- The FIFOs of an octet in rotation: the next that has a chunk to give gives it. It is performed at once where everything it reads is at
hand; else it is in flight, as are the request's chunks after it (R16, R302, log 115). -/
def copyRound (s : State) (rid : Nat) : List Nat → State
  | [] => s
  | core :: rest =>
    let k := coreKey rid core
    let turn (t : State) : State := t.modOctet s.octk fun o => { o with copyLast := octetPos core }
    match s.activeReq rid core with
    | none => s.copyRound rid rest
    | some r =>
      if 0 < r.ahead then
        if r.lay.isNone then s.copyRound rid rest else turn (s.modReq k r.num fun x => { x with ahead := x.ahead + 1 })
      else match s.serve rid core r with
        | .waits t => turn (t.modReq k r.num fun x => { x with ahead := 1 })
        | .did t r' => turn (t.modReq k r.num fun _ => r')

/-- The oldest chunk in flight of a copy request is performed, where everything it reads is at hand by now. -/
def copyGoesOn (s : State) (rid core i : Nat) : State :=
  let k := coreKey rid core
  match (s.coreSt k).fifo[i]? with
  | none => s
  | some r =>
    if r.ahead = 0 then s
    else match s.serve rid core r with
      | .waits t => t
      | .did t r' => t.modReq k r.num fun _ => { r' with ahead := if r'.taken then 0 else r'.ahead - 1 }

/-- An open packet whose request's next chunk is known by now leaves where that chunk is not adjacent (R408). -/
def closePackets (s : State) (rid core : Nat) : State :=
  let close (t : State) (r : CopyReq) : State := match r.pkt, r.lay with
    | some _, some bs =>
      let l := layoutOf bs
      let u := match t.nextBlock rid core r l, t.nextMove rid core r l (moveCount r l - r.pos) r.pos with
        | some none, some n => (t.moveAt rid core r l n).2
        | _, _ => t
      let (v, q) := u.endPacket rid core r l
      v.modReq (coreKey rid core) r.num fun x => { x with pkt := q.pkt, unacked := q.unacked }
    | _, _ => t
  (s.coreSt (coreKey rid core)).fifo.foldl close s

end State

/-- COPY_TURN: the copy unit of the octet takes one chunk of the next FIFO in rotation, while fewer than 64 chunks are in
flight (R302, log 115); with `sub` 1, the oldest chunk in flight of request `idx` of the core's FIFO goes on. -/
def execCopyTurn (s : State) : Res :=
  let rid := s.cur.rid
  let cores := (List.range 8).map fun i => coreAtOctetPos s.cur.core (((s.octetSt s.octk).copyLast + 1 + i) % 8)
  .next (if s.cur.sub = 1 then s.copyGoesOn rid s.cur.core s.cur.idx
    else if 64 ≤ s.chunksInFlight rid s.cur.core then cores.foldl (fun t c => t.closePackets rid c) s
    else s.copyRound rid cores)

/-- COPY_REQUEST_COMPLETE: the core's head request has all its writes performed; its action is performed, unless it was aborted,
and it leaves the FIFO (R297, R302, R374). -/
def execCopyRequestComplete (s : State) : Res :=
  match (s.coreSt s.ck).fifo with
  | [] => .next s
  | r :: _ =>
    if !r.taken || r.pkt.isSome || !r.unacked.isEmpty then .next s
    else
      let pop (t : State) : State := t.modCore s.ck fun c =>
        { c with fifo := c.fifo.drop 1, engFault := c.engFault.filter fun p => p.1 / 4 != r.num }
      if r.aborted then .next (pop s)
      else
        let (done, t) := s.descAction s.cur.rid s.cur.core r.desc r.cix 4 (r.who + 1)
        .next (if done then pop t else t)

/-! ### QPUSH and QTRY (R297, R298, R307) -/

/-- A request of the issuing task after its checks; `full` is what happens when the FIFO holds 8. -/
def qcopy (d a b c : BitVec 5) (full : State) (accepted : State → State) (s : State) : Res :=
  let r : CopyReq := { w0 := s.rx d, w1 := s.rx a, w2 := s.rx b, w3 := s.rx c, desc := s.cdesc s.cur.rid s.cur.core (bitsOf (s.rx c).toNat 63 60) }
  .next (s.checked [resval (3 < r.op || bitsOf r.w0.toNat 63 59 != 0 || r.w0.getLsbD 57) 0x36 r.w0.toNat 0,
      resval (bitsOf r.w3.toNat 59 48 != 0) 0x36 r.w3.toNat 3, s.descCheck 0x36 r.cix true]
    (if 8 ≤ (s.coreSt s.ck).fifo.length then full
      else if !s.canEngine then s.waitFor .stall
      else (accepted (s.engineRelease.modCore s.ck fun k =>
        { k with fifo := k.fifo ++ [{ r with num := k.copies }], copies := k.copies + 1 })).retire 4))
/-- qpush: stalls while the FIFO is full; a release of scope .oct (R92, R297). -/
def execQpush (d a b c : BitVec 5) (s : State) : Res := qcopy d a b c (s.waitFor .stall) (fun t => t) s
/-- qtry: x[c] ← 0 if accepted, 1 if the FIFO was full (R297). -/
def execQtry (d a b c : BitVec 5) (s : State) : Res := qcopy d a b c ((s.wx c 1#64).retire 4) (fun t => t.wx c 0#64) s

end Sys2Proof.Machine
end

