-- ==== Sys2Proof/Machine/Units.lean ====
section
/-! DEFINITION. How the units of a die (Caddy, Infuser, Trail, DCP) read and write memory on a request's behalf
(23_state_failures.md, R383; 04_ordering.md, R91). A unit translates in the step of its event (log 55). What lies on another device it asks
for, a line at a time, through the port of the route table, and its event waits until the lines have come (R66, R410, log 135). -/

namespace Sys2Proof.Machine

/-- What a unit's read gives: bytes with their poison marks, a fault, or nothing yet (another device has been asked for them). -/
inductive URead where
  /-- The bytes, each with the mark of its 8-byte word. -/
  | ok (bs : List (Byte × Bool))
  /-- A fault. -/
  | bad (f : Flt)
  /-- Another device has not yet supplied them. -/
  | lack
  deriving DecidableEq, Repr

/-- The bytes without their marks. -/
def plain (bs : List (Byte × Bool)) : List Byte := bs.map (·.1)
/-- Bytes that carry no mark. -/
def unmarked (bs : List Byte) : List (Byte × Bool) := bs.map fun b => (b, false)
/-- Whether any byte is marked. -/
def anyMark (bs : List (Byte × Bool)) : Bool := bs.any (·.2)
/-- Offsets of the marked bytes. -/
def markOffsets : Nat → List (Byte × Bool) → List Nat
  | _, [] => []
  | i, b :: bs => if b.2 then i :: markOffsets (i + 1) bs else markOffsets (i + 1) bs

/-- The commands of a die command queue, which one processor issues. -/
def dcqCommand : Option Instr → Bool
  | some .dcqNop | some .dcqLaunch | some .dcqTiles | some .dcqCollectiveStep | some .dcqWait | some .dcqBranch | some .dcqSignal
  | some .dcqFence | some .dcqReservedCommand => true
  | _ => false

namespace State

/-! ### Lines of other devices (R66, R68, R410, log 135) -/

/-- Who reads in this step: the event of the turn, a die command processor under one name whatever its command, or the instruction at the
slot's program counter. -/
def asker (s : State) : Asker :=
  let c := s.cur
  match c.ev with
  | none => { ev := none, rid := c.rid, core := c.core, die := 0, idx := c.slot, sub := s.pc.toNat, at_ := 0 }
  | some e =>
    if dcqCommand (some e) then { ev := some .dcqNop, rid := c.rid, core := 0, die := c.die, idx := 0, sub := 0, at_ := 0 }
    else { ev := some e, rid := c.rid, core := c.core, die := c.die, idx := c.idx, sub := c.sub, at_ := c.inp.a }
/-- A reader waits for a line that it has asked for. -/
def awaits (s : State) (a : Asker) : Bool := s.farQ.any (·.ask == some a)
/-- The line at a location that has come for the reader of this step. -/
def unitLine (s : State) (rid : Nat) (l : Loc) : Option UnitLine :=
  s.unitLines.find? fun x => x.ask == s.asker && x.tag == locAddr rid l / 64
/-- The reader of this step asks for the line at a location; one line at a time. -/
def askLine (s : State) (rid die va : Nat) (l : Loc) : State :=
  if s.awaits s.asker then s
  else
    let r : FarReq := { rid := rid, core := unitCore die, id := s.fresh, loc := l.line, va := va, size := 64, op := .load, line := true,
                        unit := some 9, ask := some s.asker }
    { s with farQ := s.farQ ++ [r] }
/-- What an event or instruction whose reads may lie on another device comes to: `t`, which no longer needs the lines that came for it; or,
while a line that it has asked for has not come, `w` with that request: nothing of it is done before every line is there. -/
def whole (w t : State) : State :=
  if t.awaits w.asker then (if w.awaits w.asker then w else { w with farQ := w.farQ ++ t.farQ.filter (·.ask == some w.asker) })
  else if t.unitLines.isEmpty then t
  else { t with unitLines := t.unitLines.filter (·.ask != w.asker) }

/-- Bytes at a location with their marks. -/
def markedBytes (s : State) (rid : Nat) (l : Loc) (n : Nat) : List (Byte × Bool) :=
  (List.range n).map fun i =>
    let m := l.plus i
    ((s.rdLoc rid m 1).headD 0#8, s.poisoned (locAddr rid m) 1)

/-- A read of one piece, within one 64-byte line, by a unit of a die; another device's line must have come (R66, R383). -/
def unitPiece (s : State) (rid die va n align : Nat) : URead × State :=
  match s.unitXlate rid die va align 0 false with
  | (.error f, t) => (.bad f, t)
  | (.ok l, t) =>
    match l with
    | .far .. =>
      match t.unitLine rid l with
      | none => (.lack, t.askLine rid die va l)
      | some x =>
        if x.code ≠ 0 then (.bad (refusal x.code va), t)
        else (.ok ((List.range n).map fun i => (x.data[l.inLine + i]?.getD 0#8, x.marks.contains ((l.inLine + i) / 8))), t)
    | _ => (.ok (t.markedBytes rid l n), t.countServed l)

/-- A read of n bytes at an address, line by line; the first address must be a multiple of `align`. -/
def unitSpan (s : State) (rid die va n align : Nat) : Nat → URead × State
  | 0 => (.ok [], s)
  | fuel + 1 =>
    if n = 0 then (.ok [], s)
    else
      let k := min n (64 - va % 64)
      match s.unitPiece rid die va k align with
      | (.ok bs, t) =>
        match t.unitSpan rid die (va + k) (n - k) 1 fuel with
        | (.ok rest, u) => (.ok (bs ++ rest), u)
        | r => r
      | r => r
/-- A read by a unit (R383, log 40). -/
def unitRead (s : State) (rid die va n align : Nat) : URead × State := s.unitSpan rid die va n align (n / 64 + 2)
/-- A read by a unit to which poison is a fault (R383). -/
def unitClean (s : State) (rid die va n align : Nat) : URead × State :=
  match s.unitRead rid die va n align with
  | (.ok bs, t) => if anyMark bs then (.bad { code := 0x21, addr := va }, t) else (.ok bs, t)
  | r => r

/-- Lines that have come for the reader of this step take the bytes that it writes itself. -/
def putLines (s : State) (rid : Nat) (l : Loc) (bs : List (Nat × Byte)) (marks : List Nat) : State :=
  let put (x : UnitLine) : UnitLine :=
    if x.ask == s.asker && x.tag == locAddr rid l / 64 && x.code == 0 then
      { x with data := overlay bs 0 0 x.data, marks := keptMarks x.marks bs ++ marks }
    else x
  { s with unitLines := s.unitLines.map put }
/-- A write of bytes within one line by the unit with number `who` in UNITMEM (R377): the fault, or the state after it. Their marks stay with the words (R383). -/
def unitPut (s : State) (rid die who va align : Nat) (bs : List (Byte × Bool)) : Option Flt × State :=
  match s.unitXlate rid die va align 0 true with
  | (.error f, t) => (some f, t)
  | (.ok l, t) =>
    match l with
    | .far .. =>
      let new := enumBytes l.inLine (plain bs)
      let marks := ((markOffsets l.inLine bs).map (· / 8)).eraseDups
      let r : FarReq := { rid := rid, core := unitCore die, id := t.fresh, loc := l.line, va := va, size := 64,
                          op := .store [], bytes := new, marks := marks, unit := some who }
      (none, { t with farQ := t.farQ ++ [r] }.putLines rid l new marks)
    | _ =>
      let u := (t.wrLoc rid l (enumBytes 0 (plain bs))).countWrite l
      (none, (markOffsets 0 bs).foldl (fun w i => w.markPoison (locAddr rid l + i)) u)
/-- A write of bytes at an address, line by line, as far as no fault stops it. -/
def unitWriteFrom (s : State) (rid die who va align : Nat) (bs : List (Byte × Bool)) : Nat → Option Flt × State
  | 0 => (none, s)
  | fuel + 1 =>
    if bs.isEmpty then (none, s)
    else
      let k := min bs.length (64 - va % 64)
      match s.unitPut rid die who va align (bs.take k) with
      | (some f, t) => (some f, t)
      | (none, t) => t.unitWriteFrom rid die who (va + k) 1 (bs.drop k) fuel
/-- A write by a unit. -/
def unitWrite (s : State) (rid die who va align : Nat) (bs : List (Byte × Bool)) : Option Flt × State :=
  s.unitWriteFrom rid die who va align bs (bs.length / 64 + 2)

/-- An atomic add by a unit; one that faults is dropped with UNITMEM (R383). -/
def unitAddOrReport (s : State) (rid die unit va amt : Nat) : State :=
  match s.unitAdd rid (unitCore die) unit va amt with
  | (none, t) => t
  | (some f, t) => t.unitMem rid die unit f

end State
end Sys2Proof.Machine
end

