-- ==== Sys2Proof/Machine/ViewGen.lean ====
section
/-! DEFINITION. The bytes of a regenerated view block (06_views.md, R129, R130, R134; 05_numbers.md, R109, R113 to R115, R120 to
R123; 14_isa_matrix.md, R300): scales, conversions, exponent packing and the swizzle. Everything here is a function of the
master's values and the view's settings. -/

namespace Sys2Proof.Machine

/-- Format of the master's elements (R127). -/
def masterFmt (mfmt : Nat) : Fmt := match mfmt with
  | 0 => .f32
  | 1 => .bf16
  | _ => .f16
/-- Format of the view's elements (R127); XPB packs E4M3 or E5M2 (R121). -/
def viewFmt (mfmt vfmt : Nat) : Fmt := match vfmt with
  | 0 => masterFmt mfmt
  | 1 => .bf16
  | 2 => .f16
  | 3 => .e4m3
  | 4 => .e5m2
  | 5 => .e2m1
  | 6 => .e4m3
  | _ => .e5m2
/-- emax of R120. -/
def scaleEmax : Fmt → Int
  | .e4m3 => 8
  | .e5m2 => 15
  | _ => 2

namespace ViewSt

/-- The view is exponent-packed (R127). -/
def xpb (v : ViewSt) : Bool := 6 ≤ v.vfmt
/-- XPB blocks of a view block (R129). -/
def xpbCount (v : ViewSt) : Nat := 2 ^ v.blog / 32
/-- Bytes of the element area; under XPB the most it may take, with its offset array (R129). -/
def elemArea (v : ViewSt) : Nat :=
  if v.xpb then 45 * v.xpbCount + 4 * (v.xpbCount + 1) else 2 ^ v.blog * (viewFmt v.mfmt v.vfmt).width / 8
/-- Bytes of the scale area (R129). -/
def scaleArea (v : ViewSt) : Nat := match v.smode with
  | 2 => 2 ^ v.blog / 32
  | 3 => 4
  | _ => 0
/-- The stored size of a block: rounded up to 64 bytes (R129, R144, R322, log 65). -/
def stored (v : ViewSt) : Nat := (v.elemArea + v.scaleArea + 63) / 64 * 64

end ViewSt

/-- The largest magnitude of a list of contents, NaN and infinities left out: magnitude and exponent; none where no element is
nonzero (R120). -/
def absMax (xs : List FVal) : Option (Nat × Int) :=
  xs.foldl (fun acc x => match x with
    | .fin _ m e =>
      if m = 0 then acc
      else match acc with
        | none => some (m, e)
        | some (m', e') => if (FVal.fin false m' e').cmp (.fin false m e) = .lt then some (m, e) else acc
    | _ => acc) none

/-- The E8M0 scale of 32 elements (R120). -/
def e8m0Scale (f : Fmt) (xs : List FVal) : Nat :=
  match absMax xs with
  | none => 127
  | some (m, e) =>
    let k : Int := (Nat.log2 m : Int) + e - scaleEmax f + 127
    if k < 0 then 0 else if 254 < k then 254 else k.toNat
/-- The FP32 scale of a view block (R120). -/
def blockScale (f : Fmt) (xs : List FVal) : Nat :=
  match absMax xs with
  | none => 0x3F800000
  | some (m, e) =>
    let s := (fQuot .f32 .rne false (.fin false m e) (f.val f.maxBits)).1
    if s = 0 then 0x3F800000 else s

/-- One element of a view: a copy where the formats agree, else one rounding of the value, or of its quotient by the scale,
with `.sat` (R113, R120, R134, log 64). -/
def viewElem (src dst : Fmt) (rm : Rnd) (scale : Option FVal) (x : Nat) : Nat :=
  if src = dst then x
  else match scale with
    | none => (fConv src dst rm true x).1
    | some k => match src.val x with
      | .fin s m e => (fQuot dst rm true (.fin s m e) k).1
      | _ => (fConv src dst rm true x).1

/-- Groups of k elements. -/
def groupsOf {α : Type} (k : Nat) : Nat → List α → List (List α)
  | 0, _ => []
  | n + 1, l => l.take k :: groupsOf k n (l.drop k)

/-! ### Exponent packing (R121 to R123) -/

/-- Bits, least significant first, as bytes. -/
def packBits : Nat → List Bool → List Byte
  | 0, _ => []
  | n + 1, bs =>
    if bs.isEmpty then []
    else BitVec.ofNat 8 (((bs.take 8).zipIdx.map fun p => if p.1 then 2 ^ p.2 else 0).sum) :: packBits n (bs.drop 8)
/-- The low n bits of a number, least significant first. -/
def bitsLow (n v : Nat) : List Bool := (List.range n).map fun i => v.testBit i
/-- The base exponent: the most frequent field, the larger among equals (R121). -/
def xpbBase (w : Nat) (fields : List Nat) : Nat :=
  (List.range (2 ^ w)).foldl (fun b e => if fields.count b ≤ fields.count e then e else b) 0
/-- The token of an exponent field, in stream order (R122). -/
def xpbTokenBits (w b e : Nat) : List Bool :=
  let d : Int := (e : Int) - b
  if d = 0 then [false]
  else if d = 1 then [true, false, false]
  else if d = -1 then [true, false, true]
  else if d = 2 then [true, true, false, false]
  else if d = -2 then [true, true, false, true]
  else [true, true, true] ++ (bitsLow w e).reverse
/-- The bytes of one XPB block of E4M3 or E5M2 elements (R121). -/
def xpbEncode (f : Fmt) (xs : List Nat) : List Byte :=
  let fr := f.frac
  let field (x : Nat) : Nat := x / 2 ^ fr % 2 ^ f.expw
  let b := xpbBase f.expw (xs.map field)
  let sm := (xs.map fun x => bitsLow fr x ++ [x.testBit (f.width - 1)]).flatten
  let st := (xs.map fun x => xpbTokenBits f.expw b (field x)).flatten
  BitVec.ofNat 8 b :: packBits 32 sm ++ packBits 64 st
/-- An XPB tensor of blocks with its offset array (R123). -/
def xpbTensor (blocks : List (List Byte)) : List Byte :=
  let offs := blocks.foldl (fun (acc : List Nat) b => acc ++ [acc.getLastD 0 + b.length]) [0]
  blocks.flatten ++ (offs.map (toBytes 4)).flatten

/-! ### A block (R129, R134) -/

/-- Elements packed as R101 describes: four-bit elements two to a byte, the even one low. -/
def packElems (f : Fmt) : Nat → List Nat → List Byte
  | 0, _ => []
  | n + 1, xs => match f.width, xs with
    | _, [] => []
    | 4, x :: y :: rest => BitVec.ofNat 8 (x % 16 + y % 16 * 16) :: packElems f n rest
    | 4, [x] => [BitVec.ofNat 8 (x % 16)]
    | w, x :: rest => toBytes (w / 8) x ++ packElems f n rest
/-- The swizzle of an element area: chunk q of row i goes to chunk q ⊕ (i & 7) or q ⊕ (i & 3) (R130, R300). -/
def swizzleArea (mode : Nat) (bs : List Byte) : List Byte :=
  if mode = 0 then bs
  else
    let row := if mode = 1 then 512 else 256
    let mask := if mode = 1 then 8 else 4
    (List.range (bs.length / 64)).flatMap fun c =>
      let i := c * 64 / row
      let q := (c % (row / 64)) ^^^ (i % mask)
      (bs.drop (i * row + 64 * q)).take 64

/-- The bytes of a regenerated block from its master elements' bits and their linear indices (R134 steps 2 to 4). -/
def viewBytes (v : ViewSt) (cfg : ViewCfg) (xs : List (Nat × Nat)) : List Byte :=
  let src := masterFmt v.mfmt
  let dst := viewFmt v.mfmt v.vfmt
  let rm (ix : Nat) : Rnd := if cfg.sr then .sr (srThreshold (BitVec.ofNat 32 cfg.seed) (BitVec.ofNat 32 ix)) else .rne
  let put (k : Option FVal) (l : List (Nat × Nat)) : List Nat := l.map fun p => viewElem src dst (rm p.2) k p.1
  let groups := groupsOf 32 (xs.length / 32) xs
  let e8 := groups.map fun g => e8m0Scale dst (g.map fun p => src.val p.1)
  let f32 := blockScale dst (xs.map fun p => src.val p.1)
  let els := match v.smode with
    | 0 => put none xs
    | 1 => put (some (Fmt.f32.val cfg.scale)) xs
    | 2 => ((groups.zip e8).map fun p => put (some (.fin false 1 ((p.2 : Int) - 127))) p.1).flatten
    | _ => put (some (Fmt.f32.val f32)) xs
  let area := if v.xpb then xpbTensor ((groupsOf 32 (els.length / 32) els).map (xpbEncode dst))
    else swizzleArea v.swz (packElems dst els.length els)
  area ++ match v.smode with
    | 2 => e8.map fun e => BitVec.ofNat 8 e
    | 3 => toBytes 4 f32
    | _ => []

end Sys2Proof.Machine
end

