-- ==== Sys2Proof/Machine/Views.lean ====
section
/-! DEFINITION. Views (06_views.md, R127 to R141; 15_isa_engines.md, R319 to R327; 23_state_failures.md, R384 to R386):
registration, publishing, regeneration, tags, and the VIEW instructions. -/

namespace Sys2Proof.Machine

/-- Tag of a block that has not been generated (R131). -/
def tagUnset : Nat := 0xFFFFFFFE
/-- Tag of a block whose regeneration failed (R131). -/
def tagPoisoned : Nat := 0xFFFFFFFF
/-- A tag reaches version v (R131). -/
def reaches (tag v : Nat) : Bool := tag < tagUnset && v ≤ tag

/-- Finite and positive FP32 bits (R320, R325). -/
def posF32 (w : Nat) : Bool := match Fmt.f32.val w with
  | .fin s m _ => !s && m != 0
  | _ => false

/-- The permutation that PERM holds (R130). -/
def permOf (p : Nat) : List Nat := (List.range 4).map fun i => (i + p / 4 ^ i % 4) % 4

/-- The view that a registration record and its two layout records describe (R127, R130). -/
def viewOf (rec mlay vlay : Nat) : ViewSt :=
  let ctrl := bitsOf rec 447 384
  let nd := bitsOf mlay 97 96
  let ext := [bitsOf mlay 23 0, bitsOf mlay 47 24, bitsOf mlay 71 48, bitsOf mlay 95 72]
  let v : ViewSt :=
    { used := true, master := bitsOf rec 63 0, mfmt := bitsOf ctrl 11 8, vfmt := bitsOf ctrl 3 0, smode := bitsOf ctrl 17 16,
      pol := bitsOf ctrl 20 19, lagk := bitsOf ctrl 35 28, blog := bitsOf ctrl 27 24, tlc := bitsOf rec 383 320,
      tags := bitsOf rec 319 256, pkind := bitsOf ctrl 23 21, pmap := bitsOf rec 255 192,
      ext := ext.zipIdx.map fun p => if nd < p.2 then 1 else p.1,
      span := [BitVec.ofNat 64 (bitsOf mlay 191 128), BitVec.ofNat 64 (bitsOf mlay 255 192), BitVec.ofNat 64 (bitsOf mlay 319 256)],
      perm := permOf (bitsOf vlay 105 98), swz := bitsOf vlay 107 106,
      cfg := { sr := ctrl.testBit 18, seed := bitsOf rec 479 448 } }
  { v with nblk := v.total / 2 ^ v.blog }

/-- A record that R127, R128 or R130 makes invalid, as far as its words tell (R320, log 63). -/
def viewBad (rec mlay vlay : Nat) (v : ViewSt) : Bool :=
  let ctrl := bitsOf rec 447 384
  let nd := bitsOf mlay 97 96
  let ext (i : Nat) : Nat := bitsOf mlay (24 * i + 23) (24 * i)
  let sp (i : Nat) : Nat := bitsOf mlay (64 * i + 127) (64 * i + 64)
  let above := [1, 2, 3].any fun i => nd < i && (ext i != 0 || sp i != 0)
  let below := (List.range (nd + 1)).any fun i => ext i == 0
  let row := if v.swz = 1 then 512 else if v.swz = 2 then 256 else 1
  bitsOf ctrl 63 36 != 0 || bitsOf ctrl 15 12 != 0 || bitsOf ctrl 7 4 != 0
    || v.pol == 3 || (v.pol == 1) != (v.lagk != 0) || v.blog < 5 || 15 < v.blog || 2 < v.pkind
    || 2 < v.mfmt || 7 < v.vfmt || v.tags % 4 != 0
    || (v.smode == 0 && 2 < v.vfmt) || (v.smode == 2 && v.vfmt < 3) || (v.smode % 2 == 1 && v.vfmt < 1)
    || bitsOf mlay 511 320 != 0 || bitsOf mlay 127 98 != 0 || above || below
    || bitsOf vlay 511 108 != 0 || bitsOf vlay 97 0 != 0 || v.swz == 3
    || !(List.range 4).all (fun i => v.perm.contains i) || (v.xpb && v.swz != 0)
    || v.total % 2 ^ v.blog != 0 || v.elemArea % row != 0

namespace State

/-- Views of a realm, with their keys (R128). -/
def realmViews (s : State) (rid : Nat) : List (Nat × ViewSt) :=
  s.views.filter fun p => p.1 / 2 ^ 16 == rid && p.2.used
/-- The views of a master (R131). -/
def viewsOf (s : State) (rid master : Nat) : List (Nat × ViewSt) :=
  (s.realmViews rid).filter fun p => p.2.master == master && !p.2.dropping

/-- Logical die of the home of an address: what the entry there names; `dflt` where nothing translates it (R129). -/
def homeDie (s : State) (rid va dflt : Nat) : Nat :=
  match s.checkForm rid va 0x3B with
  | some (.ok (.lm core _)) => coreDie core
  | some _ => dflt
  | none => match s.walkFrom rid va 5 (s.realm rid).root with
    | .error _ => dflt
    | .ok e => match s.leafLoc rid e va with
      | .dev pdie .. => match s.dieOwner pdie with
        | some (_, d) => d
        | none => dflt
      | _ => dflt

/-- Address at which a block is stored: the entry of the placement map, or the place that a replica's base gives (R129,
R144). An entry that PKIND does not fit, an LM-window address under DEVMEM or the other way round, is taken as it is (log 123). -/
def blockVa (s : State) (rid die : Nat) (v : ViewSt) (j : Nat) : Except Flt (Option Nat) × State :=
  if v.replica.isSome then (.ok (some ((v.pmap + j * v.stored) % 2 ^ 64)), s)
  else match s.unitClean rid die ((v.pmap + 8 * j) % 2 ^ 64) 8 1 with
    | (.ok bs, t) => (.ok (some (ofBytes (plain bs))), t)
    | (.bad f, t) => (.error f, t)
    | (.lack, t) => (.ok none, t)
/-- The die whose Infuser holds a block (R133). -/
def blockDie (s : State) (rid : Nat) (v : ViewSt) (j : Nat) : Nat × State :=
  let keeper := ((s.masterSt rid v.master).keeper).getD 0
  match s.blockVa rid keeper v j with
  | (.ok (some va), t) => (t.homeDie rid va keeper, t)
  | (_, t) => (keeper, t)

/-- Store a tag: strong, `.rel`, `.dev`; a store that faults is reported (R134, R383). -/
def storeTag (s : State) (k j tag : Nat) : State :=
  let rid := k / 2 ^ 16
  let v := s.view k
  let (die, s) := s.blockDie rid v j
  let t := match s.unitWrite rid die 1 ((v.tags + 4 * j) % 2 ^ 64) 4 (unmarked (toBytes 4 tag)) with
    | (none, t) => t
    | (some f, t) => t.unitMem rid die 1 f
  t.modBlock k j fun b => { b with tag := tag }

/-- Release a dropped view as soon as no regeneration of it is in progress (R141, log 62); a master whose last view is so dropped is forgotten,
its version with it (R131, R385). -/
def tryDrop (s : State) (k : Nat) : State :=
  let v := s.view k
  if v.used && v.dropping && !(List.range v.nblk).any (fun j => (s.vblock k j).st == .regen) then
    let t : State := { s with views := s.views.set {} k {}, vblocks := s.vblocks.clear (k * 2 ^ 32) ((k + 1) * 2 ^ 32) }
    if (t.realmViews (k / 2 ^ 16)).any fun p => p.2.master == v.master then t else t.setMaster (k / 2 ^ 16) v.master {}
  else s
/-- Drop a view (R141). -/
def dropView (s : State) (k : Nat) : State := (s.modView k fun v => { v with dropping := true }).tryDrop k

/-- The timeline adds of the publishes that are complete, in publish order (R137, log 66). -/
def checkAdds (s : State) (k : Nat) : Nat → State
  | 0 => s
  | n + 1 =>
    let v := s.view k
    match v.adds with
    | [] => s
    | p :: rest =>
      if (List.range v.nblk).all fun j =>
          let b := s.vblock k j
          (b.tag == tagPoisoned && b.st == .poisoned) || reaches b.tag p then
        let t := s.modView k fun x => { x with adds := rest }
        let t := if v.tlc = 0 then t
          else t.unitAddOrReport (k / 2 ^ 16) (((s.masterSt (k / 2 ^ 16) v.master).keeper).getD 0) 1 v.tlc 1
        t.checkAdds k n
      else s

/-! ### Replica slots (R144, R153, R386) -/

/-- The tag words of a replica's view, from those given on, as the Caddy finds them in memory (R144, R340); one that it cannot read is a
free value (log 11, log 60), and the first such is reported, unless `told` (R383). -/
def tagWords (s : State) (rid die tags : Nat) (told : Bool) : List Nat → List Nat × State
  | [] => ([], s)
  | j :: rest => match s.unitClean rid die ((tags + 4 * j) % 2 ^ 64) 4 4 with
    | (.ok bs, t) =>
      let (ws, u) := t.tagWords rid die tags told rest
      (ofBytes (plain bs) :: ws, u)
    | (.bad f, t) =>
      let (ws, u) := (if told then t else t.unitMem rid die 0 f).tagWords rid die tags true rest
      ((Config.freeValue (s.fresh + j)).toNat % 2 ^ 32 :: ws, u)
    | (.lack, t) => (List.replicate (rest.length + 1) tagUnset, t)
/-- The tag of a replica (R144): POISONED before UNSET before the least tag. -/
def replicaTag (s : State) (k : Nat) (told : Bool) : Nat × State :=
  let v := s.view k
  let (tags, t) := s.tagWords (k / 2 ^ 16) ((v.replica.map (·.1)).getD 0) v.tags told (List.range v.nblk)
  (if tags.contains tagPoisoned then tagPoisoned
  else if tags.contains tagUnset then tagUnset
  else tags.foldl min tagUnset, t)

/-- Set a slot of an expert. -/
def setSlot (s : State) (ek i : Nat) (r : RepSlot) : State := s.modExpert ek fun e => { e with slots := e.slots.set i r }

/-- One slot follows its table, once the Caddy has read its tags: CREATING to READY when its tag reaches the version at creation, RETIRING to RETIRED when its
outstanding count is 0, and the changes of a POISONED tag (R153, R386, log 59). -/
def settleSlot (s : State) (rid die xid i : Nat) : State :=
  let ek := expertKey rid die xid
  let e := s.expert ek
  let r := e.slots[i]?.getD {}
  let vk := viewKey rid r.vid
  let retire (t : State) (r : RepSlot) : State :=
    if r.st = 3 && r.out = 0 then (t.setSlot ek i { r with st := 4 }).dropView vk else t.setSlot ek i r
  match r.st with
  | 1 =>
    let (tag, t) := s.replicaTag vk false
    if tag = tagPoisoned then
      ((t.setSlot ek i { r with st := 4 }).dropView vk).unitReport rid die 0 0x28 0x27 xid i e.v
    else if reaches tag r.at_ then t.setSlot ek i { r with st := 2 }
    else t
  | 2 =>
    let (tag, t) := s.replicaTag vk false
    if 1 ≤ i && tag = tagPoisoned then retire t { r with st := 3 } else t
  | 3 => retire s r
  | _ => s
/-- Every slot of an expert follows its table. -/
def settleSlots (s : State) (rid die xid : Nat) : State :=
  (List.range 16).foldl (fun t i => t.settleSlot rid die xid i) s
/-- The slot that a replica view serves. -/
def settleView (s : State) (k : Nat) : State :=
  match (s.view k).replica with
  | some (die, xid, i) => s.settleSlot (k / 2 ^ 16) die xid i
  | none => s

/-! ### Registration (R127 to R132, R320) -/

/-- The memory granules of a master's pages, with the page each holds; none where a page lacks M or is REMOTE (R128, R132, log 61). -/
def masterMarks (s : State) (rid die : Nat) : List Nat → Except (Option Flt) (List (Nat × Nat)) × State
  | [] => (.ok [], s)
  | p :: rest =>
    match s.checkForm rid (p * 4096) 0x3B with
    | some (.error f) => (.error (some f), s)
    | some (.ok _) => (.error none, s)
    | none => match s.unitLeaf rid die (p * 4096) with
      | (.error f, t) => (.error (some f), t)
      | (.ok e, t) => match t.leafLoc rid e (p * 4096) with
        | .dev pdie tier off _ true => match t.masterMarks rid die rest with
          | (.ok ms, u) => (.ok ((devAddr pdie tier off / 4096, p) :: ms), u)
          | r => r
        | _ => (.error none, t)

/-- What a registration answers. -/
inductive Reg where
  /-- A layout record lies on another device and has not come yet. -/
  | lack
  /-- STATUS and VID (R320). -/
  | done (status vid : Nat)
  deriving DecidableEq, Repr

/-- An unused view id: the manual does not say which (log 11, log 57). -/
def freshVid (s : State) (rid : Nat) : Nat :=
  let from_ := (Config.freeValue s.fresh).toNat
  (((List.range 4097).map fun i => (from_ + i) % 0xFFFF).find? fun i => !(s.view (viewKey rid i)).used).getD 0

/-- Install a valid view: its blocks enter REGEN at the master's version (R131, R132, R135). -/
def installView (s : State) (rid die : Nat) (v : ViewSt) : Nat × State :=
  let vid := s.freshVid rid
  let k := viewKey rid vid
  let m := s.masterSt rid v.master
  let m : MasterSt := { m with keeper := some (m.keeper.getD die) }
  let b : VBlock := { st := .regen, target := m.version, cur := m.version, tcfg := v.cfg, ccfg := v.cfg }
  let t := (s.setMaster rid v.master m).modView k fun _ => v
  (vid, (List.range v.nblk).foldl (fun u j => u.modBlock k j fun _ => b) t)

/-- An address in the LM window: no device-memory address (R53, R127, R130). -/
def lmWindow (va : Nat) : Bool := va >>> 48 == 0xFE
/-- The keeper of the master that a record names: the die that keeps it, or the given one, which becomes it (R131, R320). -/
def keeperOf (s : State) (rid rec die : Nat) : Nat := ((s.masterSt rid (bitsOf rec 63 0)).keeper).getD die

/-- A registration from a record's number by the keeper (R320): `fix` completes the view that the records describe, and says whether its
scale is allowed. Of several statuses that apply it is the first of 1, 2 and 3 (log 124). -/
def registerView (s : State) (rid asker rec : Nat) (fix : ViewSt → Option ViewSt) : Reg × State :=
  let die := s.keeperOf rid rec asker
  let bad (t : State) (f : Flt) : Reg × State := (.done 1 0xFFFF, t.unitMem rid die 1 f)
  if lmWindow (bitsOf rec 127 64) || lmWindow (bitsOf rec 191 128) then (.done 1 0xFFFF, s)
  else match s.unitClean rid die (bitsOf rec 127 64) 64 64 with
  | (.lack, t) => (.lack, t)
  | (.bad f, t) => bad t f
  | (.ok ml, t) => match t.unitClean rid die (bitsOf rec 191 128) 64 64 with
    | (.lack, u) => (.lack, u)
    | (.bad f, u) => bad u f
    | (.ok vl, u) =>
      let mlay := ofBytes (plain ml)
      let vlay := ofBytes (plain vl)
      let v0 := viewOf rec mlay vlay
      if viewBad rec mlay vlay v0 then (.done 1 0xFFFF, u)
      else match fix v0 with
        | none => (.done 1 0xFFFF, u)
        | some v => match u.masterMarks rid die v.masterPages with
          | (.error (some f), w) => bad w f
          | (.error none, w) => (.done 1 0xFFFF, w)
          | (.ok ms, w) =>
            if 4096 ≤ (w.realmViews rid).length then (.done 2 0xFFFF, w)
            else if 64 ≤ (w.viewsOf rid v.master).length then (.done 3 0xFFFF, w)
            else
              let (vid, x) := w.installView rid die { v with marks := ms }
              (.done 0 vid, x)

/-- What VWDEF completes a view with: the scale under SMODE 1; PKIND is not REPLICA (R128). -/
def defFix (scale : Nat) (v : ViewSt) : Option ViewSt :=
  if v.pkind = 2 || (v.smode == 1 && !posF32 scale) then none
  else some { v with cfg := { v.cfg with scale := scale } }

/-! ### Publishing (R133, R135, R137) -/

/-- The publish reaches one block (R135): a clean block's tag is raised, any other is retargeted (log 56). -/
def publishBlock (s : State) (k nv j : Nat) : State :=
  let c := (s.view k).cfg
  match (s.vblock k j).st with
  | .unset => s
  | .clean => s.storeTag k j nv
  | .dirty => s.modBlock k j fun b => { b with st := .regen, target := nv, tcfg := c, cur := nv, ccfg := c, sets := [nv],
                                               again := false, wrote := none }
  | .regen => s.modBlock k j fun b => { b with target := nv, tcfg := c, again := false,
                                               sets := if b.again then b.sets ++ [nv] else b.sets }
  | .poisoned => s.modBlock k j fun b => { b with st := .regen, target := nv, tcfg := c, cur := nv, ccfg := c, sets := [nv],
                                                  again := false, dirty := false, wrote := none }
/-- A publish of one view. -/
def publishView (s : State) (k nv : Nat) : State :=
  let t := s.modView k fun v => { v with adds := v.adds ++ [nv] }
  let t := (List.range (t.view k).nblk).foldl (fun u j => u.publishBlock k nv j) t
  (t.checkAdds k (t.view k).adds.length).settleView k
/-- The keeper's version change goes to the Caddies of the experts of the master (R144). -/
def tellCaddies (s : State) (rid master nv : Nat) : State :=
  { s with experts := s.experts.map fun p =>
      if p.1 / 2 ^ 24 / 64 == rid && p.2.used && ofBytes (p.2.vrec.take 8) == master then (p.1, { p.2 with vq := p.2.vq ++ [nv] })
      else p }
/-- VWPUB at the keeper (R133, R324, R385). -/
def publish (s : State) (rid master : Nat) : Word × State :=
  let m := s.masterSt rid master
  if (s.viewsOf rid master).isEmpty then (0xFFFFFFFFFFFFFFFF#64, s)
  else if 0xFFFFFFFD ≤ m.version then (0xFFFFFFFFFFFFFFFE#64, s)
  else
    let nv := m.version + 1
    let t := s.setMaster rid master { m with version := nv }
    let t := (t.viewsOf rid master).foldl (fun u p => u.publishView p.1 nv) t
    (BitVec.ofNat 64 nv, t.tellCaddies rid master nv)

/-! ### Regeneration (R134, R135, R384) -/

/-- The lines that hold a list of bytes, read once each (R134 step 1). -/
def readLines (s : State) (rid die : Nat) : List Nat → List (Nat × List (Byte × Bool)) → Except Flt (Option (List (Nat × List (Byte × Bool)))) × State
  | [], acc => (.ok (some acc), s)
  | l :: rest, acc =>
    match s.unitPiece rid die (l * 64) 64 64 with
    | (.ok bs, t) => t.readLines rid die rest ((l, bs) :: acc)
    | (.bad f, t) => (.error f, t)
    | (.lack, t) => (.ok none, t)

/-- Steps 1 to 4 of a regeneration; one that would place more bytes than the block is allotted fails (R384): none where bytes on another device have not come; else the fault, if any. -/
def regenerate (s : State) (k j : Nat) : Option (Option (Nat × Nat)) × State :=
  let rid := k / 2 ^ 16
  let v := s.view k
  let b := s.vblock k j
  let (die, s) := s.blockDie rid v j
  let n := masterSize v.mfmt
  let els := v.blockElems j
  let addrs := els.map v.elemAddr
  let lines := (addrs.flatMap fun a => (List.range n).map fun i => (a + i) % 2 ^ 64 / 64).eraseDups
  match s.readLines rid die lines [] with
  | (.ok none, t) => (none, t)
  | (.error f, t) => (some (some (f.code, f.addr)), t)
  | (.ok (some tab), t) =>
    let byte (a : Nat) : Byte × Bool := (((tab.find? fun p => p.1 == a / 64).map (·.2)).getD [])[a % 64]?.getD (0#8, false)
    let got := addrs.map fun a => (List.range n).map fun i => byte ((a + i) % 2 ^ 64)
    if got.any anyMark then (some (some (0x21, 0)), t)
    else
      let xs := (got.map fun g => ofBytes (plain g)).zip (els.map v.linear)
      match t.blockVa rid die v j with
      | (.ok none, u) => (none, u)
      | (.error f, u) => (some (some (f.code, f.addr)), u)
      | (.ok (some va), u) =>
        let bs := viewBytes v b.ccfg xs
        if v.elemArea + v.scaleArea < bs.length then (some (some (0x24, va)), u)
        else match u.unitWrite rid die 1 va 1 (unmarked bs) with
        | (none, w) => (some none, w)
        | (some f, w) => (some (some (f.code, f.addr)), w)

/-- The end of a regeneration for version t (R135). -/
def endRegen (s : State) (k j : Nat) : State :=
  let b := s.vblock k j
  let settled (x : VBlock) : VBlock := { x with st := if x.again then .dirty else .clean, again := false, sets := [], wrote := none }
  match b.wrote with
  | none => s
  | some (some (code, _)) =>
    let t := (s.modBlock k j fun x => { x with st := .poisoned, dirty := x.again, again := false, sets := [], wrote := none }).storeTag
      k j tagPoisoned
    let (die, t) := t.blockDie (k / 2 ^ 16) (s.view k) j
    t.unitReport (k / 2 ^ 16) die 1 0x27 code (k % 2 ^ 16 + j * 2 ^ 16) b.target 0
  | some none =>
    if b.target = b.cur then (s.modBlock k j settled).storeTag k j b.cur
    else if b.sets.any (b.cur < ·) then
      (s.modBlock k j fun x => { x with cur := x.target, ccfg := x.tcfg, wrote := none, sets := x.sets.filter (x.cur < ·) }).storeTag
        k j b.cur
    else (s.modBlock k j settled).storeTag k j b.target

end State

/-- BLOCK_REGENERATION: the Infuser that holds a block reads its master block, converts and writes its elements and scales
(R134). The turn names the view and the block. -/
def execBlockRegeneration (s : State) : Res :=
  let k := State.viewKey s.cur.rid s.cur.idx
  let b := s.vblock k s.cur.sub
  if !(s.view k).used || b.st != .regen || b.wrote.isSome then .next s
  else
    let (r, t) := s.regenerate k s.cur.sub
    .next (s.whole (t.modBlock k s.cur.sub fun x => { x with wrote := r }))

/-! ### VWDEF, VWDROP, VWPUB, VWPOL (R320, R321, R324, R325) -/

/-- The view id operand (R319). -/
def vidBad (s : State) (a : BitVec 5) : Option Flt := resval (2 ^ 16 ≤ (s.rx a).toNat) 0x3B (s.rx a).toNat 1

/-- The die whose Infuser reads the record of a VWDEF: the keeper of the master that it names, or the issuing die (R320, log 126). -/
def State.vwdefDie (s : State) (rid die va : Nat) : Nat × State :=
  match s.unitClean rid die va 64 64 with
  | (.ok bs, _) => (s.keeperOf rid (ofBytes (plain bs)) die, s)
  | (.lack, t) => (die, t)
  | _ => (die, s)
/-- vwdef (R320): the record lies in device memory (R127). -/
def execVwdef (d a c : BitVec 5) (s : State) : Res :=
  let va := (s.rx a).toNat
  if va % 64 ≠ 0 then .next (s.trapVal 4 0x3B va 1)
  else if !s.canRelease 4 then .next (s.awaitRelease 4 .stall)
  else
    let t := s.release 4
    let (die, t) := t.vwdefDie t.cur.rid (coreDie s.cur.core) va
    let put (u : State) (w : Nat) : Res := .next ((s.waitFor .stall).whole ((u.wx d (BitVec.ofNat 64 w)).retire 4))
    if State.lmWindow va then put t 0x1FFFF
    else match t.unitClean t.cur.rid die va 64 64 with
    | (.lack, u) => put u 0x1FFFF
    | (.bad f, u) => put (u.unitMem u.cur.rid die 1 f) 0x1FFFF
    | (.ok bs, u) => match u.registerView u.cur.rid die (ofBytes (plain bs)) (State.defFix (u.rf c).toNat) with
      | (.lack, w) => put w 0x1FFFF
      | (.done st vid, w) => put w (st * 2 ^ 16 + vid)
/-- vwdrop: waits in its slot until no regeneration of the view is in progress (R141, R321). -/
def execVwdrop (d a : BitVec 5) (s : State) : Res :=
  let k := State.viewKey s.cur.rid (s.rx a).toNat
  let put (u : State) (w : Word) : State := (u.wx d w).retire 4
  .next (s.checked [vidBad s a]
    (if s.me.wait = .unit then
      if (s.view k).used && (s.view k).dropping then s.waitFor .unit else put s 0#64
    else if !(s.view k).used || (s.view k).dropping then put s 1#64
    else if (s.view k).replica.isSome then put s 2#64
    else
      let t := s.dropView k
      if (t.view k).used then t.waitFor .unit else put t 0#64))
/-- vwpub: the new version, or what R324 and R385 give. -/
def execVwpub (d a : BitVec 5) (s : State) : Res :=
  let va := (s.rx a).toNat
  if va % 4 ≠ 0 then .next (s.trapVal 4 0x3B va 1)
  else if !s.canRelease 4 then .next (s.awaitRelease 4 .stall)
  else
    let (w, t) := (s.release 4).publish s.cur.rid va
    .next ((s.waitFor .stall).whole ((t.wx d w).retire 4))

/-- The setting that VWPOL writes: none where the value is not accepted (R325). -/
def polSet (v : ViewSt) (field val : Nat) : Option ViewSt :=
  match field with
  | 0 =>
    let p := val % 4
    let k := bitsOf val 15 8
    if bitsOf val 7 2 != 0 || 2 ^ 16 ≤ val || p == 3 || (p == 1) != (k != 0) then none else some { v with pol := p, lagk := k }
  | 1 => if v.smode != 1 || 2 ^ 32 ≤ val || !posF32 val then none else some { v with cfg := { v.cfg with scale := val } }
  | 2 => if 1 < val then none else some { v with cfg := { v.cfg with sr := val == 1 } }
  | _ => if 2 ^ 32 ≤ val then none else some { v with cfg := { v.cfg with seed := val } }
/-- vwpol (R325). -/
def execVwpol (d a b c : BitVec 5) (s : State) : Res :=
  let k := State.viewKey s.cur.rid (s.rx a).toNat
  let v := s.view k
  let put (u : State) (w : Word) : State := (u.wx d w).retire 4
  .next (s.checked [vidBad s a, resval (3 < (s.rx b).toNat) 0x3B (s.rx b).toNat 2]
    (if !v.used || v.dropping then put s 1#64
    else if v.replica.isSome then put s 3#64
    else match polSet v (s.rx b).toNat (s.rx c).toNat with
      | none => put s 2#64
      | some w => put (s.modView k fun _ => w) 0#64))

/-! ### VWRD, VWTAG, VWSYNC (R138, R139, R322, R323, R326, R385) -/

namespace State

/-- NOVIEW (R326, R365). -/
def trapNoView (s : State) (addr : Nat) : State := s.trap 4 { code := 8, detail := 0x3B, addr := addr }
/-- The trap of a fault that a unit has met on an instruction's behalf: POISON names the memory, DETAIL 0 LM, 1 near, 2 far (R377); NOCORE
the major opcode (R365). -/
def trapUnit (s : State) (f : Flt) : State :=
  let detail := match s.checkForm s.cur.rid f.addr 0x3B with
    | some _ => 0
    | none => match s.walkFrom s.cur.rid f.addr 5 s.myRealm.root with
      | .ok e => pteTier e.leaf + 1
      | .error _ => 1
  s.trap 4 (if f.code = 0x21 then { f with detail := detail } else if f.code = 0x13 then { f with detail := 0x3B } else f)
/-- The tag word of a block (log 58). -/
def readTag (s : State) (k j : Nat) : URead × State :=
  s.unitClean s.cur.rid (coreDie s.cur.core) (((s.view k).tags + 4 * j) % 2 ^ 64) 4 4

/-- VWRD's copy of an accepted block (R138, R322, R383): the whole stored size is read before anything is written. -/
def copyBlock (s : State) (d : BitVec 5) (k j off tag : Nat) : State :=
  let v := s.view k
  let die := coreDie s.cur.core
  let t := s.acquire 4
  match t.blockVa t.cur.rid die v j with
  | (.error f, u) => u.trapUnit f
  | (.ok none, u) => u
  | (.ok (some va), u) => match u.unitRead u.cur.rid die va v.stored 1 with
    | (.lack, w) => w
    | (.bad f, w) => w.trapUnit f
    | (.ok bs, w) =>
      w.settleThen (.lm w.cur.core off) v.stored fun x =>
        let x := x.wrLm x.cur.rid x.cur.core off (plain bs)
        let x := (markOffsets 0 bs).foldl (fun y i => y.markPoison (lmAddr y.cur.rid y.cur.core (off + i))) x
        (x.wx d (BitVec.ofNat 64 tag)).retire 4

end State

/-- vwrd (R322). -/
def execVwrd (d a b c : BitVec 5) (s : State) : Res :=
  let vid := (s.rx a).toNat
  let k := State.viewKey s.cur.rid vid
  let j := bitsOf (s.rx b).toNat 31 0
  let ver := bitsOf (s.rx b).toNat 63 32
  let off := (s.rx c).toNat
  let v := s.view k
  let gone := !v.used || v.dropping
  .next (s.checked [vidBad s a, resval (off % 64 != 0 || 2 ^ 18 ≤ off) 0x3B off 3,
      if gone then some { code := 8, detail := 0x3B, addr := vid } else none,
      if v.nblk ≤ j then some { code := 8, detail := 0x3B, addr := vid + j * 2 ^ 16 } else none,
      resval (0x27000 < off + v.stored) 0x3B off 3]
    ((match s.me.wait with
      | .vread .. => s
      | _ => s.waitFor .stall).whole (match s.readTag k j with
    | (.lack, t) => t
    | (.bad f, t) => t.trapUnit f
    | (.ok bs, t) =>
      let tag := ofBytes (plain bs)
      if tag = tagPoisoned then t.trap 4 { code := 0x22, detail := 0x3B, addr := vid + j * 2 ^ 16, info := ver }
      else
        let (fault, lag) := match s.me.wait with
          | .vread _ _ _ k => (false, k)
          | _ => (v.pol == 2, if v.pol = 1 then v.lagk else 0)
        if reaches tag (ver - lag) then t.copyBlock d k j off tag
        else if fault then t.trap 4 { code := 7, addr := vid + j * 2 ^ 16, info := tag }
        else t.holdWait (.vread vid j ver lag))))
/-- vwtag (R323). -/
def execVwtag (d a b : BitVec 5) (s : State) : Res :=
  let vid := (s.rx a).toNat
  let k := State.viewKey s.cur.rid vid
  let j := (s.rx b).toNat
  let v := s.view k
  .next (s.checked [vidBad s a, resval (2 ^ 32 ≤ j) 0x3B j 2,
      if !v.used || v.dropping then some { code := 8, detail := 0x3B, addr := vid } else none,
      if v.nblk ≤ j then some { code := 8, detail := 0x3B, addr := vid + j * 2 ^ 16 } else none]
    ((s.waitFor .stall).whole (match s.readTag k j with
    | (.lack, t) => t
    | (.bad f, t) => t.trapUnit f
    | (.ok bs, t) => ((t.acquire 4).wx d (BitVec.ofNat 64 (ofBytes (plain bs)))).retire 4)))

namespace State

/-- VWSYNC's reading of a view's tags, from block j on: done, still waiting, or the trap (R139, R385). -/
def syncTags (s : State) (vid k ver : Nat) : Nat → Nat → State × Option Bool
  | _, 0 => (s, some true)
  | j, n + 1 =>
    match s.readTag k j with
    | (.lack, t) => (t, none)
    | (.bad f, t) => (t.trapUnit f, none)
    | (.ok bs, t) =>
      let tag := ofBytes (plain bs)
      if tag = tagPoisoned then (t.trap 4 { code := 0x22, detail := 0x3B, addr := vid + j * 2 ^ 16, info := ver }, none)
      else
        let (u, r) := t.syncTags vid k ver (j + 1) n
        (u, r.map fun ok => ok && reaches tag ver)

end State

/-- vwsync: a safe point (R139, R326). -/
def execVwsync (a b : BitVec 5) (s : State) : Res :=
  let vid := (s.rx a).toNat
  let k := State.viewKey s.cur.rid vid
  let ver := (s.rx b).toNat
  let v := s.view k
  .next (s.checked [vidBad s a, resval (2 ^ 32 ≤ ver) 0x3B ver 2,
      if !v.used || v.dropping then some { code := 8, detail := 0x3B, addr := vid } else none]
    (if !s.safeReady then s.waitFor .stall
    else
      let t := s.flushVops s.cur.rid s.cur.core s.me.frame
      (s.waitFor .stall).whole (match t.syncTags vid k ver 0 v.nblk with
      | (u, none) => u
      | (u, some true) => (u.acquire 4).retireSafe 4
      | (u, some false) => u.waitSafe (.vsync vid ver))))

end Sys2Proof.Machine
end

