-- ==== Sys2Proof/Machine/Experts.lean ====
section
/-! DEFINITION. Experts (07_experts.md, R142 to R157; 15_isa_engines.md, R309 to R318; 22_faults_traps.md, R376; 23_state_failures.md,
R383, R386): the directory of a Caddy, routing, windows, replicas, the gradient join, and the XPT instructions but XGATE. -/

namespace Sys2Proof.Machine

/-! ### Registration records (R143) -/

/-- The directory entry that a registration record describes (R143, R145). -/
def expertOfRec (n : Nat) : Expert :=
  { used := true, det := n.testBit 506, hash := n.testBit 505, ovfNext := n.testBit 504, ctn := bitsOf n 503 496,
    plen := bitsOf n 495 490, cap := bitsOf n 484 476, win := bitsOf n 475 464, winNext := bitsOf n 475 464,
    rth := bitsOf n 463 452, cth := bitsOf n 451 440, nextx := bitsOf n 439 416, seed := bitsOf n 415 384,
    tlc := bitsOf n 383 320, tlist := bitsOf n 319 256, trec := bitsOf n 255 192, gbuf := bitsOf n 191 128 }
/-- A record that R143 forbids. -/
def expertBad (n : Nat) (e : Expert) : Bool :=
  bitsOf n 511 507 != 0 || bitsOf n 489 485 == 0 || 16 < bitsOf n 489 485
    || !((List.range 9).any fun i => e.cap == 2 ^ i) || e.win == 0 || e.cth == 0 || 247 < e.ctn
/-- A candidate entry (R143). -/
def candOf (n : Nat) : Cand :=
  { core := bitsOf n 19 0, ring := bitsOf n 37 20, pbase := bitsOf n 127 64, tags := bitsOf n 191 128 }
/-- A candidate entry that R143 or R311 forbids. -/
def candBad (s : State) (rid : Nat) (e : Expert) (n : Nat) : Bool :=
  let c := candOf n
  bitsOf n 255 192 != 0 || bitsOf n 63 38 != 0 || c.ring % 64 != 0 || 0x27000 < c.ring + e.cap * 64 * (e.plen + 1)
    || !s.coreExists rid c.core
/-- What the Caddy completes a replica view with (R127, R144). A candidate whose TAGS is not 4-byte aligned gets no view: XREG then fails
for candidate 0 and begins no creation for another (log 124). -/
def replicaFix (rec die xid slot : Nat) (c : Cand) (v : ViewSt) : Option ViewSt :=
  let scale := bitsOf rec 511 480
  if c.tags % 4 != 0 || (v.smode == 1 && scale != 0 && !posF32 scale) then none
  else some { v with replica := some (die, xid, slot), pkind := 2, tlc := 0, tags := c.tags, pmap := c.pbase,
                     cfg := { v.cfg with scale := if scale = 0 then 0x3F800000 else scale } }

/-- Slots in CREATING or READY (R146). -/
def Expert.live (e : Expert) : Nat := (e.slots.filter fun r => r.st == 1 || r.st == 2).length
/-- A slot is CREATING. -/
def Expert.creating (e : Expert) : Bool := e.slots.any (·.st == 1)
/-- Indices of the slots in READY, rising. -/
def Expert.ready (e : Expert) : List Nat := (List.range 16).filter fun i => (e.slots[i]?.getD {}).st == 2

namespace State

/-! ### Windows and creations (R152, R153) -/

/-- One window of an expert ends (R152). -/
def endWindow (s : State) (rid die xid : Nat) : State :=
  let ek := expertKey rid die xid
  let e := s.expert ek
  let t := s.modExpert ek fun x => { x with load := 0, winAt := x.winAt + x.win * 1024, win := x.winNext }
  if e.load < e.rth * e.live && 2 ≤ e.live && !e.creating then
    match (e.ready.filter (1 ≤ ·)).getLast? with
    | some i => (t.setSlot ek i { e.slots[i]?.getD {} with st := 3 }).settleSlot rid die xid i
    | none => t
  else t
/-- Every window of an expert that is over by now ends; windows in which nothing can change any more pass together (log 72). -/
def rollWindows (s : State) (rid die xid : Nat) : Nat → State
  | 0 =>
    s.modExpert (expertKey rid die xid) fun e =>
      if 0 < e.win then { e with winAt := e.winAt + (s.clock - e.winAt) / (e.win * 1024) * (e.win * 1024) } else e
  | n + 1 =>
    let e := s.expert (expertKey rid die xid)
    if e.used && 0 < e.win && e.winAt + e.win * 1024 ≤ s.clock then (s.endWindow rid die xid).rollWindows rid die xid n else s

/-- A creation, where R152 allows one: the lowest free slot, the lowest free candidate but the owner, and a replica view. -/
def beginCreation (s : State) (rid die xid : Nat) : State :=
  let ek := expertKey rid die xid
  let e := s.expert ek
  let slot := (List.range 16).find? fun i => let r := e.slots[i]?.getD {}; r.st == 0 || r.st == 4
  let held := (e.slots.filter fun r => r.st == 1 || r.st == 2 || r.st == 3).map (·.cand)
  let cand := ((List.range e.cands.length).drop 1).find? fun c => !held.contains c
  match slot, cand with
  | some i, some c =>
    match s.registerView rid die (ofBytes e.vrec) (replicaFix (ofBytes e.vrec) die xid i (e.cands[c]?.getD {})) with
    | (.done 0 vid, t) => t.setSlot ek i { st := 1, cand := c, vid := vid, at_ := e.v }
    | (.done _ _, t) => t
    | (.lack, t) => t
  | _, _ => s

/-! ### Routing (R146 to R149, R376) -/

/-- The route result: 8 bytes at ROFF of the sender, whose counter RCTR the same message decrements (R149). -/
def routeResult (s : State) (rid die : Nat) (t : Token) (xid repl out : Nat) : State :=
  let src := unitCore die
  s.send { rid := rid, sdev := s.fabid, score := src, h0 := mkH0 0 2 false t.rctr 0 0xFFF t.core,
           h1 := mkH1 false false rid s.fabid src t.roff, payload := toBytes 8 (xid * 2 ^ 16 + repl * 2 ^ 8 + out) }

/-- The 64-byte token header (R148). -/
def tokenHeader (s : State) (t : Token) (step repl : Nat) : List Byte :=
  toBytes 8 (t.tid + t.gw * 2 ^ 32) ++ toBytes 8 (t.krank + t.xid * 2 ^ 8 + repl * 2 ^ 32 + t.hops * 2 ^ 40)
    ++ toBytes 8 (step + t.core * 2 ^ 32 + s.fabid * 2 ^ 52) ++ toBytes 8 t.user.toNat ++ toBytes 32 0

/-- Delivery to slot i (R148), and the token's route result. Its decrement is an acquire of scope `.dev` (R150). -/
def deliverToken (s : State) (rid die : Nat) (t : Token) (i : Nat) : State :=
  let ek := expertKey rid die t.xid
  let e := s.expert ek
  let r := e.slots[i]?.getD {}
  let c := e.cands[r.cand]?.getD {}
  let q := c.sent % max 1 e.cap
  let body := (t.data.take (64 * e.plen)) ++ List.replicate (64 * e.plen - t.data.length) 0#8
  let m : Msg :=
    { rid := rid, sdev := s.fabid, score := unitCore die, scope := 4, h0 := mkH0 (e.plen + 1) 2 false e.ctn 0 0xFFF c.core,
      h1 := mkH1 true false rid s.fabid (unitCore die) (c.ring + q * 64 * (e.plen + 1)),
      payload := s.tokenHeader t e.v i ++ body, marks := (t.marks.map (· + 8)).filter (· < 8 * (e.plen + 1)) }
  let u := s.modExpert ek fun x =>
    { x with slots := x.slots.set i { r with out := r.out + 1 }, cands := x.cands.set r.cand { c with sent := c.sent + 1 },
             toks := x.toks ++ [(t.tid, t.krank, i)] }
  (u.send m).routeResult rid die t t.xid i (if t.hops = 0 then 0 else 2)

/-- What a decision does with a token. -/
inductive Decided where
  /-- Delivered or dropped. -/
  | done (s : State)
  /-- Held (R146). -/
  | hold (s : State) (t : Token)

/-- The tags of replicas by view id, as the Caddy reads them for a decision; a word that it cannot read it has reported already. -/
def replicaTags (s : State) (rid : Nat) : List Nat → List Nat × State
  | [] => ([], s)
  | vid :: rest =>
    let (tag, t) := s.replicaTag (viewKey rid vid) true
    let (tags, u) := t.replicaTags rid rest
    (tag :: tags, u)
/-- The decision of R146 for a token that reaches the Caddy of a die; a held token that is decided again does not add to the
load. `fuel` bounds the overflow hops of R147. -/
def decideToken (s : State) (rid die : Nat) (t : Token) (again : Bool) : Nat → Decided
  | 0 => .done (s.routeResult rid die t 0xFFFFFF 0 1)
  | fuel + 1 =>
    let ek := expertKey rid die t.xid
    if !(s.expert ek).used then .done (s.routeResult rid die t 0xFFFFFF 0 1)
    else
      let s1 := (s.rollWindows rid die t.xid 64).settleSlots rid die t.xid
      let s2 := if again then s1 else s1.modExpert ek fun x => { x with load := x.load + 1 }
      let e := s2.expert ek
      let slot (i : Nat) : RepSlot := e.slots[i]?.getD {}
      let ready := e.ready
      let (tags, s3) := s2.replicaTags rid (ready.map fun i => (slot i).vid)
      let tag (i : Nat) : Nat := (((ready.zip tags).find? (·.1 == i)).map (·.2)).getD 0
      let elig := ready.filter fun i => tag i == e.v && (slot i).out < e.cap
      let overflow (u : State) : Decided :=
        if e.ovfNext && e.nextx != 0xFFFFFF && t.hops + 1 < 3 then
          u.decideToken rid die { t with xid := e.nextx, hops := t.hops + 1 } false fuel
        else .done (u.routeResult rid die t 0xFFFFFF 0 1)
      if e.closed then overflow (s2.unitReport rid die 0 0x84 0 (t.tid + t.xid * 2 ^ 32) e.v 0)
      else if ready.isEmpty then overflow s2
      else match elig with
        | [] =>
          if ready.any fun i => tag i == e.v || tag i == tagPoisoned then overflow s3 else .hold s3 t
        | i0 :: rest =>
          let i := if e.hash then elig[(t.tid ^^^ e.seed) % elig.length]?.getD i0
            else rest.foldl (fun b i => if (slot i).out < (slot b).out then i else b) i0
          let u := s3.deliverToken rid die t i
          let e' := u.expert ek
          .done (if e'.cth * e'.live ≤ e'.load && !e'.creating then u.beginCreation rid die t.xid else u)

/-- The held tokens of a Caddy are decided again, in arrival order (R146). -/
def redecide (s : State) (rid die : Nat) : State :=
  let dk := dieKey rid die
  let toks := (s.dieSt dk).hold
  toks.foldl (fun u t => match u.decideToken rid die t true 4 with
    | .done w => w
    | .hold w t' => w.modDie dk fun d => { d with hold := d.hold ++ [t'] }) (s.modDie dk fun d => { d with hold := [] })

/-! ### The gradient join (R154 to R156, R315, R376) -/

/-- Insert a token behind those that do not come after it in (token id, k-rank) order (R155). -/
def tokInsert (t : Nat × Nat × Nat) : List (Nat × Nat × Nat) → List (Nat × Nat × Nat)
  | [] => [t]
  | x :: rest => if t.1 < x.1 || (t.1 == x.1 && t.2.1 < x.2.1) then t :: x :: rest else x :: tokInsert t rest

/-- Tile record t and its list (R155, R158); a faulting write leaves that record unwritten (R383). An empty record is all zero, XID, TILE,
REPL and LIST with ROWS (log 142). -/
def writeTile (s : State) (rid die xid : Nat) (ids : List Nat) (t repl : Nat) : State :=
  let e := s.expert (expertKey rid die xid)
  let part := (ids.drop (32 * t)).take 32
  let lva := (e.tlist + 128 * t) % 2 ^ 64
  let tile := if part.isEmpty then List.replicate 16 0#8
    else toBytes 8 (xid + part.length * 2 ^ 24 + t * 2 ^ 32 + repl * 2 ^ 48) ++ toBytes 8 lva
  let put (u : State) (va : Nat) (bs : List Byte) : Option Flt × State := u.unitWrite rid die 0 va 1 (unmarked bs)
  let r := if part.isEmpty then (none, s)
    else put s lva ((part.map (toBytes 4)).flatten ++ (List.replicate (32 - part.length) (toBytes 4 0xFFFFFFFF)).flatten)
  match r with
  | (some f, u) => u.unitMem rid die 0 f
  | (none, u) => match put u ((e.trec + 16 * t) % 2 ^ 64) tile with
    | (some f, w) => w.unitMem rid die 0 f
    | (none, w) => w

/-- BADPART (R366, R376). -/
def badPart (s : State) (rid die reason va ix step : Nat) : State := s.unitReport rid die 0 0x85 reason va ix step

/-- Why a partial fails the checks that follow the close: 2 out of range, 3 repeated, 0 none (R156, R376). -/
def partBad (e : Expert) (p : Part) : Nat :=
  if e.det then (if e.tiles ≤ p.ix then 2 else if e.parts.any (·.ix == p.ix) then 3 else 0)
  else if e.toks.length < (e.parts.map (·.ix)).sum + p.ix then 2 else 0
/-- Keep a partial, or discard it with its report. -/
def keepPart (s : State) (rid die xid : Nat) (p : Part) : State :=
  let ek := expertKey rid die xid
  let e := s.expert ek
  let why := partBad e p
  if why = 0 then s.modExpert ek fun x => { x with parts := x.parts ++ [p] } else s.badPart rid die why p.va p.ix e.v

/-- Routing for V closes: the tiles and their records, the timeline add, and the checks of the partials kept so far (R154,
R155, R156, log 70). -/
def closeRouting (s : State) (rid die xid : Nat) : State :=
  let ek := expertKey rid die xid
  let e := s.expert ek
  let ids := (e.toks.foldl (fun acc t => tokInsert t acc) []).map (·.1)
  let n := if e.det then (ids.length + 31) / 32 else 0
  let maxt := (e.cap * e.cands.length + 31) / 32
  let repl (t : Nat) : Nat := match e.ready with
    | [] => (Config.freeValue (s.fresh + t)).toNat % 16
    | r0 :: rs => (r0 :: rs)[t % (rs.length + 1)]?.getD r0
  let s1 := if e.det then (List.range maxt).foldl (fun u t => u.writeTile rid die xid ids t (repl t)) s else s
  let s2 := if e.tlc = 0 then s1 else s1.unitAddOrReport rid die 0 e.tlc 1
  let s3 := s2.modExpert ek fun x => { x with closed := true, tiles := n, parts := [] }
  e.parts.foldl (fun u p => u.keepPart rid die xid p) s3

/-- Add the elements of a further partial to a sum, each rounded once under RNE (R156, log 69). -/
def addParts : List (Nat × Bool) → List (Nat × Bool) → List (Nat × Bool)
  | (a, p) :: as, (b, q) :: bs => ((fAdd .f32 .rne a b).1, p || q) :: addParts as bs
  | _, _ => []
/-- The elements that bytes hold, with their marks. -/
def elems4 : Nat → List (Byte × Bool) → List (Nat × Bool)
  | 0, _ => []
  | n + 1, bs => (ofBytes (plain (bs.take 4)), anyMark (bs.take 4)) :: elems4 n (bs.drop 4)
/-- The sum of the partials in order. A partial whose array cannot be read contributes free values (log 11). -/
def sumParts (s : State) (rid die nel : Nat) : List Part → Option (List (Nat × Bool)) → Option (List (Nat × Bool)) × State
  | [], acc => (acc, s)
  | p :: rest, acc =>
    if p.va = 0 then s.sumParts rid die nel rest acc
    else
      let join (els : List (Nat × Bool)) : List (Nat × Bool) := match acc with
        | none => els
        | some a => addParts a els
      match s.unitRead rid die p.va (4 * nel) 4 with
      | (.lack, t) => (acc, t)
      | (.bad f, t) =>
        let els := (List.range nel).map fun i => ((Config.freeValue (s.fresh + i)).toNat % 2 ^ 32, false)
        (t.unitMem rid die 0 f).sumParts rid die nel rest (some (join els))
      | (.ok bs, t) =>
        let els := elems4 nel bs
        let u := if anyMark bs then t.unitMem rid die 0 { code := 0x21, addr := p.va + (markOffsets 0 bs).headD 0 } else t
        u.sumParts rid die nel rest (some (join els))

/-- Whether the join of V is complete (R156). -/
def joinReady (e : Expert) : Bool :=
  e.closed && !e.joined && (if e.det then e.parts.length == e.tiles else (e.parts.map (·.ix)).sum == e.toks.length)

/-- Insert a partial by its tile index (R156). -/
def partInsert (p : Part) : List Part → List Part
  | [] => [p]
  | x :: rest => if p.ix < x.ix then p :: x :: rest else x :: partInsert p rest

/-- What XJOIN answers for step s of V (R315). -/
def joinWord (e : Expert) : Word := BitVec.ofNat 64 (e.toks.length + e.tiles * 2 ^ 32)

/-- Hand an answer to a task that waits in XJOIN (R315, log 68). -/
def answerJoin (s : State) (rid die xid : Nat) (w : Nat × Nat × Nat) (v : Word) : State :=
  if s.waitOf rid w.1 w.2.1 = .join die xid w.2.2 then s.setWait rid w.1 w.2.1 (.answer v) else s

/-- The join of V completes, if it can: GBUF is formed, the outstanding counts fall, the slots follow their table, and the
waiting XJOINs get their answer (R153, R156, R315). -/
def finishJoin (s : State) (rid die xid : Nat) : State :=
  let ek := expertKey rid die xid
  let e := s.expert ek
  if !joinReady e then s
  else
    let ps := if e.det then e.parts.foldl (fun acc p => partInsert p acc) [] else e.parts
    let (acc, t) := s.sumParts rid die e.nel ps none
    let els := acc.getD ((List.range e.nel).map fun _ => (0, false))
    let bs := els.flatMap fun p => (toBytes 4 p.1).map fun b => (b, p.2)
    let u := match t.unitWrite rid die 0 e.gbuf 1 bs with
      | (none, w) => w
      | (some f, w) => w.unitMem rid die 0 f
    let dec (i : Nat) (r : RepSlot) : RepSlot := { r with out := r.out - (e.toks.filter fun q => q.2.2 == i).length }
    let mine := e.waiters.filter fun w => w.2.2 == e.v
    let u := u.modExpert ek fun x =>
      { x with joined := true, slots := x.slots.zipIdx.map fun p => dec p.2 p.1, waiters := x.waiters.filter fun w => w.2.2 != e.v }
    (mine.foldl (fun w q => w.answerJoin rid die xid q (joinWord e)) u).settleSlots rid die xid

/-- XJOINs of step V close routing; those of earlier steps are answered; then the join is tried (R315). -/
def serviceJoins (s : State) (rid die xid : Nat) : State :=
  let ek := expertKey rid die xid
  let e := s.expert ek
  let late := e.waiters.filter fun w => w.2.2 < e.v
  let t := s.modExpert ek fun x => { x with waiters := x.waiters.filter fun w => e.v ≤ w.2.2 }
  let t := late.foldl (fun u w => u.answerJoin rid die xid w 0xFFFFFFFFFFFFFFFF#64) t
  let t := if e.waiters.any (fun w => w.2.2 == e.v) && !e.closed then t.closeRouting rid die xid else t
  t.finishJoin rid die xid

end State

/-! ### The Caddy's events -/

/-- TOKEN_DECISION: a token reaches the Caddy of a die, while its hold queue has room, and is delivered, held, or takes the
overflow path; held tokens come first (R146 to R149). -/
def execTokenDecision (s : State) : Res :=
  let dk := dieKey s.cur.rid s.cur.die
  match (s.dieSt dk).creqs[s.cur.idx]? with
  | some (.token t out) =>
    let earlier := ((s.dieSt dk).creqs.take s.cur.idx).any fun r => match r with
      | .token t' _ => t'.core == t.core
      | .part _ core .. => core == t.core
    if earlier || 256 ≤ (s.dieSt dk).hold.length || (s.dieSt dk).xdrop.isSome then .next s
    else
      let u := ((s.modDie dk fun d => { d with creqs := d.creqs.eraseIdx s.cur.idx }).freeOut s.cur.rid t.core out).redecide
        s.cur.rid s.cur.die
      .next (s.whole (match u.decideToken s.cur.rid s.cur.die t false 4 with
        | .done w => w
        | .hold w t' => w.modDie dk fun d => { d with hold := d.hold ++ [t'] }))
  | _ => .next s

/-- HELD_TOKEN_REDECISION: held tokens are decided again (R146). -/
def execHeldTokenRedecision (s : State) : Res :=
  .next (if (s.dieSt (dieKey s.cur.rid s.cur.die)).xdrop.isSome then s else s.whole (s.redecide s.cur.rid s.cur.die))

/-- WINDOW_END: the windows of an expert that are over end (R152). -/
def execWindowEnd (s : State) : Res :=
  if !(s.expert (State.expertKey s.cur.rid s.cur.die s.cur.idx)).used then .next s
  else .next (s.whole ((s.rollWindows s.cur.rid s.cur.die s.cur.idx 64).settleSlots s.cur.rid s.cur.die s.cur.idx))

/-- VERSION_CHANGE: the Caddy applies the oldest version change of the keeper that has reached it (R144): a step begins. -/
def execVersionChange (s : State) : Res :=
  let ek := State.expertKey s.cur.rid s.cur.die s.cur.idx
  let e := s.expert ek
  match e.vq with
  | [] => .next s
  | v :: rest =>
    if (s.dieSt (dieKey s.cur.rid s.cur.die)).xdrop.isSome then .next s
    else
    let t := s.modExpert ek fun x =>
      { x with v := v, vq := rest, closed := false, joined := false, toks := [], tiles := 0, parts := [] }
    .next (s.whole ((t.settleSlots s.cur.rid s.cur.die s.cur.idx).serviceJoins s.cur.rid s.cur.die s.cur.idx))

/-- PARTIAL_ARRIVAL: a partial reaches the Caddy; it is checked and kept, and may complete the join (R156, R376). -/
def execPartialArrival (s : State) : Res :=
  let rid := s.cur.rid
  let die := s.cur.die
  let dk := dieKey rid die
  match (s.dieSt dk).creqs[s.cur.idx]? with
  | some (.part xid core va step ix out) =>
    let earlier := ((s.dieSt dk).creqs.take s.cur.idx).any fun r => match r with
      | .token t' _ => t'.core == core
      | .part _ core' .. => core' == core
    if earlier || (s.dieSt dk).xdrop.isSome then .next s
    else
      let t := (s.modDie dk fun d => { d with creqs := d.creqs.eraseIdx s.cur.idx }).freeOut rid core out
      let ek := State.expertKey rid die xid
      let e := t.expert ek
      let p : Part := { va := va, ix := ix }
      if !e.used then .next (t.badPart rid die 4 va ix step)
      else if step ≠ e.v || e.joined then .next (t.badPart rid die 1 va ix step)
      else if !e.closed then
        if e.det && e.parts.any (·.ix == ix) then .next (t.badPart rid die 3 va ix step)
        else .next (t.modExpert ek fun x => { x with parts := x.parts ++ [p] })
      else .next (s.whole ((t.keepPart rid die xid p).finishJoin rid die xid))
  | _ => .next s

/-! ### XREG, XROUTE, XGRAD, XJOIN, XSTAT, XPOL, XDROP (R309 to R318) -/

/-- ODIE of a handle (R309). -/
def odieOf (h : Word) : Nat := bitsOf h.toNat 29 24
/-- XID of a handle. -/
def xidOf (h : Word) : Nat := bitsOf h.toNat 23 0

namespace State

/-- The handle operand (R309, R337). -/
def handleBad (s : State) (a : BitVec 5) : Option Flt :=
  let h := s.rx a
  resval (bitsOf h.toNat 63 30 != 0 || xidOf h == 0xFFFFFF || s.myRealm.n ≤ odieOf h) 0x3A h.toNat 1
/-- An earlier request of the issuing core to that Caddy is still on its way, or the Caddy is performing an XDROP, which it does in full
before the next request (R308). -/
def caddyBusy (s : State) (die : Nat) : Bool :=
  (s.dieSt (dieKey s.cur.rid die)).xdrop.isSome || (s.dieSt (dieKey s.cur.rid die)).creqs.any fun r => match r with
    | .token t _ => t.core == s.cur.core
    | .part _ core .. => core == s.cur.core
/-- Write a status or word to x[d] and go on. -/
def answer (s : State) (d : BitVec 5) (w : Word) : State := (s.wx d w).retire 4
/-- Experts that a Caddy holds. -/
def expertCount (s : State) (rid die : Nat) : Nat :=
  (s.experts.filter fun p => p.1 / 2 ^ 24 == dieKey rid die && p.2.used).length

/-- XREG at the Caddy (R311, R383, log 67): the status. Where replica 0's view cannot be registered, because
the realm holds 4,096 views or the master 64, the status is 3 (log 124). A record or CAND table in the LM window is read like any other
(log 141). -/
def registerExpert (s : State) (rid die xid va : Nat) : Nat × State :=
  let ek := expertKey rid die xid
  let bad (t : State) (f : Flt) : Nat × State := (3, t.unitMem rid die 0 f)
  if (s.expert ek).used then (1, s)
  else if 4096 ≤ s.expertCount rid die then (2, s)
  else match s.unitClean rid die va 64 64 with
    | (.lack, t) => (3, t)
    | (.bad f, t) => bad t f
    | (.ok r, t) =>
      let n := ofBytes (plain r)
      let e := expertOfRec n
      if expertBad n e then (3, t)
      else match t.unitClean rid die (bitsOf n 127 64) (32 * bitsOf n 489 485) 1 with
        | (.lack, u) => (3, u)
        | (.bad f, u) => bad u f
        | (.ok cb, u) =>
          let cs := (groupsOf 32 (bitsOf n 489 485) (plain cb)).map ofBytes
          let c0 := candOf (cs.headD 0)
          if cs.any (candBad u rid e) || coreDie c0.core != die then (3, u)
          else match u.unitClean rid die (bitsOf n 63 0) 64 64 with
            | (.lack, w) => (3, w)
            | (.bad f, w) => bad w f
            | (.ok vr, w) =>
              let vrec := ofBytes (plain vr)
              if lmWindow (bitsOf n 63 0) then (3, w)
              else match w.registerView rid die vrec (replicaFix vrec die xid 0 c0) with
              | (.lack, x) => (3, x)
              | (.done 0 vid, x) =>
                let v := x.view (viewKey rid vid)
                let ver := (x.masterSt rid v.master).version
                (0, x.modExpert ek fun _ =>
                  { e with vrec := plain vr, cands := cs.map candOf, nel := v.total, v := ver, winAt := x.clock,
                           slots := { st := 1, vid := vid, at_ := ver } :: List.replicate 15 {} })
              | (.done _ _, x) => (3, x)

end State

namespace State

/-- A replica view of an expert is being dropped, and a regeneration of it is in progress (R141). -/
def droppingViews (s : State) (rid die xid : Nat) : Bool :=
  (s.realmViews rid).any fun p => p.2.dropping && (match p.2.replica with
    | some (q, x, _) => q == die && x == xid
    | none => false)
/-- The entry of an expert is released (R318); tokens that are held for it are decided again, and a task that waits in XJOIN for a later
step of it is not answered any more (log 138). -/
def releaseExpert (s : State) (rid die xid : Nat) : State :=
  (s.modExpert (expertKey rid die xid) fun _ => {}).redecide rid die
/-- The XDROP that a Caddy is performing ends once no replica view of its expert is being dropped any more (R141, R318). -/
def finishXdrop (s : State) (rid die : Nat) : State :=
  match (s.dieSt (dieKey rid die)).xdrop with
  | none => s
  | some (core, frame, xid) =>
    if s.droppingViews rid die xid then s
    else
      let t := (s.modDie (dieKey rid die) fun q => { q with xdrop := none }).releaseExpert rid die xid
      if t.waitOf rid core frame = .unit then t.setWait rid core frame (.answer 0#64) else t

end State

/-- xreg (R311). -/
def execXreg (d a b : BitVec 5) (s : State) : Res :=
  let h := s.rx a
  let va := (s.rx b).toNat
  .next (s.checked [s.handleBad a, resval (va % 64 != 0) 0x3A va 2]
    (if !s.canRelease 4 then s.awaitRelease 4 .stall
    else if s.caddyBusy (odieOf h) then s.waitFor .stall
    else
      let (st, t) := (s.release 4).registerExpert s.cur.rid (odieOf h) (xidOf h) va
      (s.waitFor .stall).whole (t.answer d (BitVec.ofNat 64 st))))

/-- xroute: a token to the Caddy of ODIE through the outbound queue (R312). -/
def execXroute (d a b c : BitVec 5) (s : State) : Res :=
  let h := s.rx a
  let w := (s.rx c).toNat
  let rctr := bitsOf w 57 50
  let roff := bitsOf w 49 32
  let slen := bitsOf w 23 18
  let soff := bitsOf w 17 0
  .next (s.checked [s.handleBad a, resval (bitsOf w 63 58 != 0 || soff % 64 != 0 || roff % 8 != 0
      || 0x30000 < soff + 64 * slen || 0x30000 < roff + 8 || (248 ≤ rctr && rctr ≤ 251)) 0x3A w 3]
    (if !s.canRelease 4 then s.awaitRelease 4 .stall
    else if !s.outRoom (64 * slen) then s.waitFor .stall
    else
      let t := s.release 4
      let bs := t.markedBytes t.cur.rid (.lm t.cur.core soff) (64 * slen)
      let tok : Token :=
        { xid := xidOf h, tid := bitsOf (s.rx b).toNat 63 32, gw := bitsOf (s.rx b).toNat 31 0, krank := bitsOf w 31 24,
          user := s.rx d, data := plain bs, marks := ((markOffsets 0 bs).map (· / 8)).eraseDups, core := s.cur.core,
          roff := roff, rctr := rctr }
      let (id, u) := t.takeOut { id := 0, frame := t.me.frame, size := 64 * slen }
      (u.modDie (dieKey s.cur.rid (odieOf h)) fun x => { x with creqs := x.creqs ++ [.token tok id] }).retire 4))

/-- xgrad: a partial to the Caddy of ODIE (R314). -/
def execXgrad (a b c : BitVec 5) (s : State) : Res :=
  let h := s.rx a
  let va := (s.rx b).toNat
  let w := (s.rx c).toNat
  .next (s.checked [s.handleBad a, resval (va % 4 != 0) 0x3A va 2]
    (if !s.canRelease 4 then s.awaitRelease 4 .stall
    else if !s.outRoom 0 then s.waitFor .stall
    else
      let (id, u) := (s.release 4).takeOut { id := 0, frame := s.me.frame }
      (u.modDie (dieKey s.cur.rid (odieOf h)) fun x =>
        { x with creqs := x.creqs ++ [.part (xidOf h) s.cur.core va (bitsOf w 63 32) (bitsOf w 31 0) id] }).retire 4))

/-- xjoin: a safe point (R315). -/
def execXjoin (d a b : BitVec 5) (s : State) : Res :=
  let h := s.rx a
  let die := odieOf h
  let xid := xidOf h
  let st := (s.rx b).toNat
  let ek := State.expertKey s.cur.rid die xid
  let fin (t : State) (w : Word) : State := ((t.acquire 4).wx d w).retireSafe 4
  .next (s.checked [s.handleBad a, resval (2 ^ 32 ≤ st) 0x3A st 2]
    (if !s.safeReady then s.waitFor .stall
    else match s.me.wait with
      | .answer w => fin s w
      | .join .. => s.waitSafe (.join die xid st)
      | _ =>
        if s.caddyBusy die then s.waitFor .stall
        else
          let t := s.flushVops s.cur.rid s.cur.core s.me.frame
          let e := t.expert ek
          if !e.used || st < e.v then fin t 0xFFFFFFFFFFFFFFFF#64
          else
            let me3 := (t.cur.core, t.me.frame, st)
            let u := (t.modExpert ek fun x => { x with waiters := x.waiters ++ [me3] }).serviceJoins t.cur.rid die xid
            let e' := u.expert ek
            (s.waitFor .stall).whole (if e'.v = st && e'.joined then
                fin (u.modExpert ek fun x => { x with waiters := x.waiters.filter (· != me3) }) (State.joinWord e')
              else u.waitSafe (.join die xid st))))

/-- Word i of a directory entry (R316). The tag of a slot that holds no view is a free value (log 11). -/
def State.statWord (s : State) (rid die xid i : Nat) : Word × State :=
  let e := s.expert (State.expertKey rid die xid)
  if !e.used then (0xFFFFFFFFFFFFFFFF#64, s)
  else if i = 0 then
    (BitVec.ofNat 64 ((if e.det then 2 ^ 54 else 0) + (if e.closed then 2 ^ 53 else 0) + e.live * 2 ^ 48
      + min e.load 65535 * 2 ^ 32 + e.v), s)
  else
    let r := e.slots[i - 1]?.getD {}
    let (tag, t) := if r.st = 0 ∨ r.st = 4 then ((Config.freeValue s.fresh).toNat % 2 ^ 32, s)
      else s.replicaTag (State.viewKey rid r.vid) true
    (BitVec.ofNat 64 (tag * 2 ^ 32 + r.out * 2 ^ 23 + r.vid * 2 ^ 7 + r.cand * 2 ^ 3 + r.st), t)
/-- xstat: a strong read at the Caddy and an acquire of scope `.dev` (R316). -/
def execXstat (d a b : BitVec 5) (s : State) : Res :=
  let h := s.rx a
  let i := (s.rx b).toNat
  .next (s.checked [s.handleBad a, resval (16 < i) 0x3A i 2]
    (if s.caddyBusy (odieOf h) then s.waitFor .stall
    else
      let t := (s.rollWindows s.cur.rid (odieOf h) (xidOf h) 64).settleSlots s.cur.rid (odieOf h) (xidOf h)
      let (w, u) := t.statWord s.cur.rid (odieOf h) (xidOf h) i
      (s.waitFor .stall).whole ((u.acquire 4).answer d w)))

/-- The field that XPOL writes: none where the value is not accepted (R317). -/
def xpolSet (e : Expert) (field v : Nat) : Option Expert :=
  match field with
  | 0 => if v = 0 ∨ 4095 < v then none else some { e with cth := v }
  | 1 => if 4095 < v then none else some { e with rth := v }
  | 2 => if v = 0 ∨ 4095 < v then none else some { e with winNext := v }
  | 3 => if 1 < v then none else some { e with ovfNext := v == 1 }
  | 4 => if 1 < v then none else some { e with hash := v == 1 }
  | 5 => if 2 ^ 32 ≤ v then none else some { e with seed := v }
  | _ => if 2 ^ 24 ≤ v then none else some { e with nextx := v }
/-- xpol (R317). -/
def execXpol (d a b c : BitVec 5) (s : State) : Res :=
  let h := s.rx a
  let ek := State.expertKey s.cur.rid (odieOf h) (xidOf h)
  .next (s.checked [s.handleBad a, resval (6 < (s.rx b).toNat) 0x3A (s.rx b).toNat 2]
    (if !s.canRelease 4 then s.awaitRelease 4 .stall
    else if s.caddyBusy (odieOf h) then s.waitFor .stall
    else
      let t := (s.release 4).rollWindows s.cur.rid (odieOf h) (xidOf h) 64
      let e := t.expert ek
      if !e.used then t.answer d 1#64
      else match xpolSet e (s.rx b).toNat (s.rx c).toNat with
        | none => t.answer d 2#64
        | some e' => (t.modExpert ek fun _ => e').answer d 0#64))

/-- xdrop: drops the replica views, waits in its slot until they are dropped (R141), and then the entry is released; the Caddy performs
nothing else meanwhile (R308, R318, log 71). -/
def execXdrop (d a : BitVec 5) (s : State) : Res :=
  let h := s.rx a
  let rid := s.cur.rid
  let die := odieOf h
  let xid := xidOf h
  let ek := State.expertKey rid die xid
  .next (s.checked [s.handleBad a]
    (match s.me.wait with
    | .answer w => s.answer d w
    | .unit => s.waitFor .unit
    | _ =>
      if !s.canRelease 4 then s.awaitRelease 4 .stall
      else if s.caddyBusy die then s.waitFor .stall
      else
        let t := ((s.release 4).rollWindows rid die xid 64).settleSlots rid die xid
        let e := t.expert ek
        (s.waitFor .stall).whole (if !e.used then t.answer d 1#64
          else if e.slots.any (fun r => r.out != 0 || r.st == 1) || (e.closed && !e.joined) then t.answer d 2#64
          else
            let held (r : RepSlot) : Bool := r.st == 2 || r.st == 3
            let u := (e.slots.filter held).foldl (fun w r => w.dropView (State.viewKey rid r.vid)) t
            let u := u.modExpert ek fun x => { x with slots := x.slots.map fun r => if held r then { r with st := 4 } else r }
            if u.droppingViews rid die xid then
              (u.modDie (dieKey rid die) fun q => { q with xdrop := some (s.cur.core, s.me.frame, xid) }).waitFor .unit
            else (u.releaseExpert rid die xid).answer d 0#64)))

/-- REGENERATION_COMPLETE: the tag and the block's state move on, and with them the timeline counter, a waiting VWDROP or XDROP and the
replica's slot (R134, R135, R137, R141, R153, R318). -/
def execRegenerationComplete (s : State) : Res :=
  let k := State.viewKey s.cur.rid s.cur.idx
  let b := s.vblock k s.cur.sub
  if !(s.view k).used || b.st != .regen || b.wrote.isNone then .next s
  else
    let t := s.endRegen k s.cur.sub
    .next (s.whole ((((t.checkAdds k (t.view k).adds.length).settleView k).tryDrop k).finishXdrop s.cur.rid
      (((s.view k).replica.map (·.1)).getD 0)))

end Sys2Proof.Machine
end

