-- ==== Sys2Proof/Machine/Sync.lean ====
section
/-! DEFINITION. Messages, trigger counters, handler binding and spawned tasks (12_isa_memory.md, R257 to R260, R263, R264;
02_execution.md, R23 to R44). -/

namespace Sys2Proof.Machine

/-! ### Sends (R257, R258) -/

/-- A value of H0 that a user task may not send; `pay`: the form carries a payload (R24, R264). -/
def h0Bad (h : Word) (pay : Bool) : Bool :=
  bitsOf h.toNat 63 58 != 0 || h0Class h == 0 || (h0Direct h && 0xF0 ≤ h0Hix h)
    || (!h0Direct h && 248 ≤ h0Ctr h && h0Ctr h ≤ 251)
    || (if pay then h0Len h == 0 || 64 < h0Len h else h0Len h != 0)
/-- A value of H1 that a user task may not send, for a payload of `len` units (R24, R264). -/
def h1Bad (h : Word) (len : Nat) : Bool :=
  bitsOf h.toNat 63 58 != 0 || h1Poff h % 64 != 0 || (len != 0 && 0x30000 < h1Poff h + 64 * len)

namespace State

/-- A send of the issuing task (R258): the checks of its operands, a release toward the destination, an outbound entry, the
copy of the payload, and the message. `src` is the payload's LM offset and the operand it stands in. -/
def sendMsg (s : State) (h0 h1 : Word) (args : List Word) (src : Option Word) : State :=
  let len := h0Len h0
  if h0Bad h0 src.isSome then s.trapVal 4 0x20 h0.toNat 1
  else if h1Bad h1 len then s.trapVal 4 0x20 h1.toNat 2
  else if src.any (fun p => p.toNat % 64 != 0 || 0x30000 < p.toNat + 64 * len) then
    s.trapVal 4 0x20 ((src.getD 0#64).toNat) 0
  else
    let here := h0Ddev h0 == 0xFFF || h0Ddev h0 == s.fabid
    if here && !s.coreExists s.cur.rid (h0Dcore h0) then s.trap 4 { code := 0x13, detail := 0x20, addr := h0.toNat }
    else
      let scope := (s.relScope (some (if here then cover s.cur.core (h0Dcore h0) else 5))).getD 0
      if !s.canRelease scope then s.awaitRelease scope .stall
      else if !s.outRoom (64 * len) then s.waitFor .stall
      else
        let t := s.release scope
        let off := (src.getD 0#64).toNat
        let m : Msg := { rid := t.cur.rid, sdev := t.fabid, score := t.cur.core, ddev := if here then 0xFFF else h0Ddev h0,
                         h0 := h0, h1 := mkH1 (h1Ord h1) (h1Rply h1) t.cur.rid t.fabid t.cur.core (h1Poff h1),
                         a0 := args[0]?.getD 0#64, a1 := args[1]?.getD 0#64, a2 := args[2]?.getD 0#64, a3 := args[3]?.getD 0#64,
                         payload := t.rdLm t.cur.rid t.cur.core off (64 * len),
                         marks := (List.range (8 * len)).filter fun i =>
                           t.poisoned (lmAddr t.cur.rid t.cur.core (off + 8 * i)) 8 }
        (t.sendOut m).retire 4

/-- The four argument registers from x[c] on; c is at most 28 (R257). -/
def argRegs (s : State) (c : BitVec 5) : List Word := (List.range 4).map fun i => s.rx (c + BitVec.ofNat 5 i)

end State

/-- msend (R258). -/
def execMsend (a b c : BitVec 5) (s : State) : Res := .next (s.sendMsg (s.rx a) (s.rx b) (s.argRegs c) none)
/-- msendp: field d names the register that holds the payload's source offset (R257, R258). -/
def execMsendp (d a b c : BitVec 5) (s : State) : Res :=
  .next (s.sendMsg (s.rx a) (s.rx b) (s.argRegs c) (some (s.rx d)))

/-! ### Trigger counters (R259, R260) -/

/-- A task record's first word that may not be bound or spawned (R41, R264). -/
def recordBad (w : Word) : Bool := bitsOf w.toNat 63 11 != 0 || bitsOf w.toNat 9 8 == 0 || 0xF0 ≤ bitsOf w.toNat 7 0
namespace State

/-- A counter event or handler-table write of the issuing task, a strong write (R76): its release part, its own or one that a fence has
lent, comes first (R77, R260). -/
def portWrite (s : State) (own : Option Nat) (k : State → State) : State :=
  match s.relScope own with
  | none => k s
  | some sc => if s.canRelease sc then k (s.release sc) else s.awaitRelease sc .stall

/-- A TRIG event that changes counter x[a] of the issuing core (R32, R259, R264): the check of the index, the release part, then the
event, which waits while the port holds earlier events or has no room for a task it creates (R34, R39). -/
def trig (s : State) (a : BitVec 5) (own : Option Nat) (ev : Counter → Nat → Counter × List TaskRec) (after : State → Nat → State) : State :=
  let ix := (s.rx a).toNat
  if 256 ≤ ix ∨ (248 ≤ ix ∧ ix ≤ 251) then s.trapVal 4 0x21 ix 1
  else s.portWrite own fun t =>
    let (c, ts) := ev (t.counter (t.ck * 256 + ix)) ix
    if !t.portTakes t.ck ts then t.waitFor .stall
    else (after (t.setCtr t.cur.rid t.cur.core ix c ts) ix).retire 4

/-- A TRIG read of counter x[a] after the event before it (R32, R259, R260). -/
def trigRead (s : State) (d a : BitVec 5) (f : Counter → Word) : State :=
  let ix := (s.rx a).toNat
  if 256 ≤ ix then s.trapVal 4 0x21 ix 1
  else if s.portBusy s.ck then s.waitFor .stall
  else (s.wx d (f (s.counter (s.ck * 256 + ix)))).retire 4

end State

/-- tarm and tarm.rep (R33, R259). -/
def tarmWith (rep : Bool) (a b c : BitVec 5) (s : State) : Res :=
  let ix := (s.rx a).toNat
  if 256 ≤ ix ∨ (248 ≤ ix ∧ ix ≤ 251) then .next (s.trapVal 4 0x21 ix 1)
  else if bitsOf (s.rx b).toNat 63 32 ≠ 0 then .next (s.trapVal 4 0x21 (s.rx b).toNat 2)
  else if rep ∧ (s.rx c).truncate 32 = 0#32 then .next (s.trapVal 4 0x21 (s.rx c).toNat 3)
  else .next (s.trig a none (fun k i => k.arm i ((s.rx b).truncate 32) ((s.rx c).truncate 32) rep) fun t _ => t)

/-- tarm (R260). -/
def execTarm (a b c : BitVec 5) (s : State) : Res := tarmWith false a b c s
/-- tarm.rep: a reload of 0 is reserved (R33, R260, R264). -/
def execTarmRep (a b c : BitVec 5) (s : State) : Res := tarmWith true a b c s
/-- tbind: a release of scope .cor (R260). -/
def execTbind (a b c : BitVec 5) (s : State) : Res :=
  let ix := (s.rx a).toNat
  if 256 ≤ ix ∨ (248 ≤ ix ∧ ix ≤ 251) then .next (s.trapVal 4 0x21 ix 1)
  else if recordBad (s.rx b) then .next (s.trapVal 4 0x21 (s.rx b).toNat 2)
  else .next (s.trig a (some 0)
    (fun k i => k.bindTo i { recordOf (s.rx b) (s.rx c) (s.rx (c + 1#5)) s.cur.core with x14 := 0#64 }) fun t _ => t)
/-- tunbind (R260). -/
def execTunbind (a : BitVec 5) (s : State) : Res := .next (s.trig a none (fun k _ => (k.unbind, [])) fun t _ => t)
/-- tdis (R260). -/
def execTdis (a : BitVec 5) (s : State) : Res := .next (s.trig a none (fun k _ => (k.disable, [])) fun t _ => t)
/-- ten: the state the remembered binding gives, a remembered zero crossing, and from then on the held decrements, one per
event-port cycle ahead of any later event (R33). -/
def execTen (a : BitVec 5) (s : State) : Res :=
  .next (s.trig a none (fun k i => k.enable i) fun t ix =>
    if 0 < (t.counter (t.ck * 256 + ix)).owed then t.modCore t.ck fun c => { c with owing := some ix } else t)
/-- tdec: one decrement, a release of scope .cor (R260). -/
def execTdec (a : BitVec 5) (s : State) : Res := .next (s.trig a (some 0) (fun k i => k.dec i) fun t _ => t)
/-- tclrf (R260). -/
def execTclrf (a : BitVec 5) (s : State) : Res := .next (s.trig a none (fun k _ => (k.clearFlags, [])) fun t _ => t)

/-- TSTAT's word (R260). -/
def statWord (k : Counter) : Word :=
  BitVec.ofNat 64 (k.held * 2 ^ 48 + (if k.ovf then 2 ^ 44 else 0) + (if k.exc then 2 ^ 43 else 0)
    + (if k.rep then 2 ^ 42 else 0) + k.state.toNat * 2 ^ 40 + k.p * 2 ^ 32 + k.value.toNat)
/-- tstat (R260). -/
def execTstat (d a : BitVec 5) (s : State) : Res := .next (s.trigRead d a statWord)
/-- tfcnt: the fire count, zero-extended (R259). -/
def execTfcnt (d a : BitVec 5) (s : State) : Res := .next (s.trigRead d a fun k => k.fires.zeroExtend 64)

/-- Bits that R28 reserves in a handler-table entry: [62:48], [39:36], LMT[3:0] and ENTRY[0]. -/
def entryReserved : Word := 0x7FFF00F0003C0001#64

/-- hbind: writes the entry; with V = 1 the queued messages for the index leave, in queue order, for the ready queues of
their classes, with this entry in force (R28, R36, R260). A release of scope .cor. -/
def execHbind (a b : BitVec 5) (s : State) : Res :=
  let ix := (s.rx a).toNat
  let e := s.rx b
  if 0xF0 ≤ ix then .next (s.trapVal 4 0x21 ix 1)
  else if e &&& entryReserved ≠ 0#64 then .next (s.trapVal 4 0x21 e.toNat 2)
  else
    .next (s.portWrite (some 0) fun s =>
    let go := if e.getLsbD 63 then (s.coreSt s.ck).unclaimed.filter (·.hix == ix) else []
    if !s.portTakes s.ck go then s.waitFor .stall
    else
      let t := { s with handlers := s.handlers.set 0#64 (s.ck * 256 + ix) e }
      let t := if e.getLsbD 63 then t.modCore t.ck fun c => { c with unclaimed := c.unclaimed.filter (·.hix != ix) } else t
      (t.createTasks t.ck (go.map fun r => { r with entry := some e })).retire 4)

/-! ### The deque (R41, R42, R263) -/

namespace State

/-- Records of a deque (R263). -/
def dequeCount (s : State) (k : Nat) : Nat := (s.coreSt k).deque.length + (s.coreSt k).spilled
/-- Push at the owner end; a push that finds 64 records in the core first moves the oldest 32 to the spill area (R42). After a
steal the area may have room for fewer than 32: then as many as it has room for move (log 112). -/
def dequePush (s : State) (rid core : Nat) (t : TaskRec) : State :=
  let k := coreKey rid core
  let c := s.coreSt k
  if 64 ≤ c.deque.length then
    let n := min 32 (128 - c.spilled)
    let u := s.wrLm rid core (spillBase + 32 * c.spilled) ((c.deque.take n).map recordBytes).flatten
    u.modCore k fun c => { c with deque := c.deque.drop n ++ [t], spilled := c.spilled + n,
                                  spillBy := c.spillBy ++ (c.deque.take n).map (·.pusher) }
  else s.modCore k fun c => { c with deque := c.deque ++ [t] }
/-- A pop that finds the in-core part empty brings back the newest 32 spilled records first (R42). -/
def dequeRefill (s : State) (rid core : Nat) : State :=
  let k := coreKey rid core
  let c := s.coreSt k
  if c.deque.isEmpty && 0 < c.spilled then
    let n := min 32 c.spilled
    let back := (List.range n).map fun i => s.spilledAt rid core (c.spilled - n + i)
    s.modCore k fun c => { c with deque := back, spilled := c.spilled - n, spillBy := c.spillBy.take (c.spilled - n) }
  else s

end State

/-- spawn: 1 when the deque holds 192 records, and nothing else happens; otherwise a release of scope .clu, the push, and 0
(R263). -/
def execSpawn (d a b c : BitVec 5) (s : State) : Res :=
  if recordBad (s.rx a) then .next (s.trapVal 4 0x23 (s.rx a).toNat 1)
  else if 192 ≤ s.dequeCount s.ck then .next ((s.wx d 1#64).retire 4)
  else if !s.canRelease 2 then .next (s.awaitRelease 2 .stall)
  else
    let t := (s.release 2).dequePush s.cur.rid s.cur.core (recordOf (s.rx a) (s.rx b) (s.rx c) s.cur.core)
    .next ((t.wx d 0#64).retire 4)
/-- dqcnt (R263). -/
def execDqcnt (d : BitVec 5) (s : State) : Res := .next ((s.wx d (BitVec.ofNat 64 (s.dequeCount s.ck))).retire 4)

end Sys2Proof.Machine
end

