-- ==== Sys2Proof/Machine/Jof.lean ====
section
/-! DEFINITION. The Jardel Object Format (10_assembly.md, R213 to R221; 22_faults_traps.md, R375): how a die command
processor prepares an image in device memory and loads it into cores. A preparation is one step of the processor (log 21). -/

namespace Sys2Proof.Machine

/-- What a piece of a preparation gives: a value, a failure with its sub-reason (R375), a fault of the processor's own access
(R383), or nothing yet, because another device or another preparation has not finished. -/
inductive JRes (α : Type) where
  /-- It went well. -/
  | ok (a : α) (s : State)
  /-- Reason 5 with this sub-reason. -/
  | fail (sub : Nat) (s : State)
  /-- An address fault or poison. -/
  | flt (f : Flt) (s : State)
  /-- Not now. -/
  | lack (s : State)

/-- Go on where a piece went well. -/
def JRes.then {α β : Type} (r : JRes α) (k : α → State → JRes β) : JRes β :=
  match r with
  | .ok a s => k a s
  | .fail n s => .fail n s
  | .flt f s => .flt f s
  | .lack s => .lack s

/-- Words of `size` bytes that a byte sequence holds. -/
def wordsOf (size : Nat) : Nat → List Byte → List Nat
  | 0, _ => []
  | n + 1, bs => ofBytes (bs.take size) :: wordsOf size n (bs.drop size)

/-! ### Fields (R213 to R218) -/

/-- IMSZ of a header. -/
def jfImsz (h : Nat) : Nat := bitsOf h 447 384
/-- FSZ. -/
def jfFsz (h : Nat) : Nat := bitsOf h 383 320
/-- SHOFF. -/
def jfShoff (h : Nat) : Nat := bitsOf h 319 256
/-- SIGOFF. -/
def jfSigoff (h : Nat) : Nat := bitsOf h 511 448
/-- STATE. -/
def jfState (h : Nat) : Nat := bitsOf h 127 96
/-- NSEC. -/
def jfNsec (h : Nat) : Nat := bitsOf h 79 64
/-- KIND of a section header. -/
def shKind (x : Nat) : Nat := bitsOf x 7 0
/-- LINK. -/
def shLink (x : Nat) : Nat := bitsOf x 23 16
/-- FBYTES. -/
def shBytes (x : Nat) : Nat := bitsOf x 63 32
/-- FOFF. -/
def shFoff (x : Nat) : Nat := bitsOf x 127 64
/-- MSZ. -/
def shMsz (x : Nat) : Nat := bitsOf x 191 128
/-- ADDR. -/
def shAddr (x : Nat) : Nat := bitsOf x 255 192
/-- Sections that reside in LM: TEXT, LMDATA, LMZERO, LIVEMASK (R202, R214). -/
def shLm (x : Nat) : Bool := shKind x == 1 || shKind x == 2 || shKind x == 3 || shKind x == 7

/-- A section header that R214 forbids, in an image with header h and section headers xs. Which conditions beyond the fields' own
ranges make a header fail is the model's choice (log 121). -/
def shBad (h : Nat) (xs : List Nat) (x : Nat) : Bool :=
  let k := shKind x
  let link := shLink x
  bitsOf x 31 24 != 0 || k == 0 || 17 < k || 12 < bitsOf x 15 8
    || (if k == 3 || k == 5 then shFoff x != 0 || shBytes x != 0 else jfFsz h < shFoff x + shBytes x)
    || (if shLm x then 0x27000 < shAddr x + max (shMsz x) (shBytes x)
        else if k == 5 then shAddr x < jfFsz h || jfImsz h < shAddr x + shMsz x
        else shAddr x != shFoff x)
    || (if k == 17 then link == 0 || xs.length < link
        else if k == 15 then (xs[link - 1]?.map shKind) != some 16 || link == 0
        else link != 0)

/-- A TRIG record that R216 forbids. -/
def trigBad (t : Nat) : Bool :=
  bitsOf t 63 21 != 0 || (248 ≤ bitsOf t 7 0 && bitsOf t 7 0 ≤ 251) || (t.testBit 19 && bitsOf t 127 96 == 0)
    || (t.testBit 20 && (bitsOf t 17 16 == 0 || 0xF0 ≤ bitsOf t 15 8))
/-- A RING record that R217 forbids. -/
def ringBad (r : Nat) : Bool :=
  let n := bitsOf r 24 16
  let sz := bitsOf r 15 8
  bitsOf r 127 50 != 0 || bitsOf r 31 25 != 0 || bitsOf r 7 4 != 0 || n == 0 || 256 < n || sz == 0 || 64 < sz
    || bitsOf r 49 32 % 64 != 0 || 0x27000 < bitsOf r 49 32 + 64 * sz * n

/-- What a relocation of a kind writes for V (R199, R218): how many bytes it patches, and the new word from the old one. -/
def patchWord (kind : Nat) (v : Word) (old : Nat) : Nat × Nat :=
  let hi := ((v + 0x800#64).sshiftRight 12).toNat
  let lo := (v - (((v + 0x800#64).sshiftRight 12) <<< 12)).toNat
  match kind with
  | 1 => (8, v.toNat)
  | 2 => (4, old % 2 ^ 12 + hi % 2 ^ 20 * 2 ^ 12)
  | 3 => (4, old % 2 ^ 17 + lo % 2 ^ 15 * 2 ^ 17)
  | 4 => (4, old % 2 ^ 20 + lo % 2 ^ 12 * 2 ^ 20)
  | _ => (4, bitsOf old 6 0 + lo % 2 ^ 5 * 2 ^ 7 + bitsOf old 24 12 * 2 ^ 12 + bitsOf lo 11 5 * 2 ^ 25)
/-- Whether V lies in the range that HI20 requires (R218). -/
def hiFits (v : Word) : Bool := -(2 ^ 31 : Int) - 2048 ≤ v.toInt && v.toInt < (2 ^ 31 : Int) - 2048

namespace State

/-- A clean read of the processor. -/
def jRead (s : State) (rid die va n : Nat) : JRes (List Byte) :=
  match s.unitClean rid die va n 1 with
  | (.ok bs, t) => .ok (plain bs) t
  | (.bad f, t) => .flt f t
  | (.lack, t) => .lack t
/-- A write of the processor. -/
def jWrite (s : State) (rid die va : Nat) (bs : List Byte) : JRes Unit :=
  match s.unitWrite rid die 3 va 1 (unmarked bs) with
  | (none, t) => .ok () t
  | (some f, t) => .flt f t

/-- RD, W and X of n pages from page p on (R220). -/
def jPages (s : State) (rid die p : Nat) : Nat → JRes Unit
  | 0 => .ok () s
  | n + 1 =>
    match s.checkForm rid (p * 4096) 0 with
    | some (.error f) => .flt f s
    | some (.ok _) => .fail 7 s
    | none => match s.unitLeaf rid die (p * 4096) with
      | (.error f, t) => .flt f t
      | (.ok e, t) =>
        if e.leaf.getLsbD 2 && e.leaf.getLsbD 3 && e.leaf.getLsbD 4 then t.jPages rid die (p + 1) n else .fail 7 t

/-- The section headers of an image (R214). -/
def jHeaders (s : State) (rid die img h : Nat) : JRes (List Nat) :=
  let n := jfNsec h
  if n = 0 ∨ 255 < n ∨ jfFsz h < jfShoff h + 32 * n then .fail 2 s
  else (s.jRead rid die (img + jfShoff h) (32 * n)).then fun bs t =>
    let xs := wordsOf 32 n bs
    if xs.any (shBad h xs) then .fail 2 t else .ok xs t

/-- The records of `size` bytes of all sections of a kind, in section order. -/
def jRecords (s : State) (rid die img kind size : Nat) : List Nat → JRes (List Nat)
  | [] => .ok [] s
  | x :: rest =>
    if shKind x ≠ kind then s.jRecords rid die img kind size rest
    else (s.jRead rid die (img + shFoff x) (shBytes x / size * size)).then fun bs t =>
      (t.jRecords rid die img kind size rest).then fun more u => .ok (wordsOf size (shBytes x / size) bs ++ more) u

/-- The digests of the keys that a realm accepts (R346). -/
def jKeys (s : State) (rid die : Nat) : JRes (List (List Byte)) :=
  let r := s.realm rid
  let n := bitsOf r.sigpol.toNat 15 8
  (s.jRead rid die r.sigkeys.toNat (32 * n)).then fun bs t => .ok ((List.range n).map fun i => (bs.drop (32 * i)).take 32) t

/-- The signature check (R219, R220): the block's form, its key among the accepted ones, its signature over the file below it
with STATE read as zero. -/
def jSignature (s : State) (rid die img h : Nat) : JRes Unit :=
  let off := jfSigoff h
  if off = 0 then (if (s.realm rid).sigpol.getLsbD 0 then .fail 3 s else .ok () s)
  else if off + 512 ≠ jfFsz h then .fail 3 s
  else (s.jRead rid die (img + off) 512).then fun blk t =>
    (t.jRead rid die img off).then fun file u =>
      (u.jKeys rid die).then fun keys w =>
        let signed := file.take 12 ++ List.replicate 4 0#8 ++ file.drop 16
        let zero (l : List Byte) : Bool := l.all (· == 0#8)
        if ofBytes (blk.take 4) == 1 && zero ((blk.drop 4).take 4) && zero ((blk.drop 40).take 24) && zero (blk.drop 448)
            && keys.contains ((blk.drop 8).take 32)
            && Config.signatureValid signed ((blk.drop 8).take 32 ++ (blk.drop 64).take 384) then .ok () w
        else .fail 3 w

/-- Every BSS section becomes zero (R220). -/
def jBss (s : State) (rid die img : Nat) : List Nat → JRes Unit
  | [] => .ok () s
  | x :: rest =>
    if shKind x ≠ 5 then s.jBss rid die img rest
    else (s.jWrite rid die (img + shAddr x) (List.replicate (shMsz x) 0#8)).then fun _ t => t.jBss rid die img rest

/-- The relocation records of one section, applied in order (R218): `at_` is where the patched section lies in the image. A SYM that names no
symbol is sub-reason 2, SEC is compared with nothing and OFF is not bounded (log 145). The target is read before it is written, for ABS64
too (log 146). -/
def jRelocs (s : State) (rid die img symtab nsym at_ : Nat) : List Nat → JRes Unit
  | [] => .ok () s
  | r :: rest =>
    let kind := bitsOf r 43 40
    let sym := bitsOf r 63 44
    if kind = 0 ∨ 5 < kind then .fail 4 s
    else if nsym ≤ sym then .fail 2 s
    else (s.jRead rid die (img + symtab + 16 * sym + 8) 8).then fun vb t =>
      let v := BitVec.ofNat 64 (img + ofBytes vb + bitsOf r 127 64)
      if kind = 2 && !hiFits v then .fail 5 t
      else
        let va := img + at_ + bitsOf r 31 0
        (t.jRead rid die va (if kind = 1 then 8 else 4)).then fun ob u =>
          let (n, w) := patchWord kind v (ofBytes ob)
          (u.jWrite rid die va (toBytes n w)).then fun _ q => q.jRelocs rid die img symtab nsym at_ rest
/-- Every RELOC section; the symbols are those of the first SYMTAB (R218, log 145). -/
def jRelocAll (s : State) (rid die img : Nat) (xs : List Nat) : List Nat → JRes Unit
  | [] => .ok () s
  | x :: rest =>
    if shKind x ≠ 17 then s.jRelocAll rid die img xs rest
    else
      let tgt := xs[shLink x - 1]?.getD 0
      let at_ := if shKind tgt = 5 then shAddr tgt else shFoff tgt
      let sym := (xs.find? fun y => shKind y == 15).getD 0
      (s.jRecords rid die img 17 16 [x]).then fun rs t =>
        (t.jRelocs rid die img (shFoff sym) (shBytes sym / 16) at_ rs).then fun _ u => u.jRelocAll rid die img xs rest

/-- The work between the two writes of STATE (R220). Reserved bits of the JOF header that are not zero are accepted: the manual gives
them no outcome (log 121). TRIG and RING records are checked last (R216, log 147). -/
def jPrepare (s : State) (rid die img h : Nat) : JRes Unit :=
  if bitsOf h 31 0 ≠ 0x01464F4A ∨ bitsOf h 47 32 ≠ 1 ∨ bitsOf h 63 48 ≠ 1 then .fail 1 s
  else (s.jHeaders rid die img h).then fun xs t1 =>
    (t1.jSignature rid die img h).then fun _ t2 =>
      (t2.jBss rid die img xs).then fun _ t3 =>
        (t3.jRelocAll rid die img xs xs).then fun _ t4 =>
          (t4.jRecords rid die img 13 32 xs).then fun ts t5 =>
            (t5.jRecords rid die img 14 16 xs).then fun rs t6 =>
              if ts.any trigBad || rs.any ringBad then .fail 6 t6 else .ok () t6

/-- The STATE word is written. -/
def jState (s : State) (rid die img v : Nat) : State := (s.unitWrite rid die 3 (img + 12) 4 (unmarked (toBytes 4 v))).2

/-- Preparation of the image at `img` through its STATE word (R220): the header of a prepared image. The pages are checked before MAGIC, the
headers and the signature (log 147); STATE returns to 0 after an address fault or poison too (R375, R383, log 148). -/
def jEnsure (s : State) (rid die img : Nat) : JRes Nat :=
  (s.jPages rid die (img / 4096) 1).then fun _ t0 =>
    (t0.jRead rid die img 64).then fun hb t1 =>
      let h := ofBytes hb
      if jfState h = 1 then .lack t1
      else
        let pages := (img % 4096 + max 64 (jfImsz h) + 4095) / 4096
        let all := t1.jPages rid die (img / 4096) pages
        if jfState h ≠ 0 then all.then fun _ t => .ok h t
        else
          let t2 := t1.jState rid die img 1
          match (t2.jPages rid die (img / 4096) pages).then fun _ t => t.jPrepare rid die img h with
          | .ok _ t => .ok h (t.jState rid die img 2)
          | .fail n t => .fail n (t.jState rid die img 0)
          | .flt f t => .flt f (t.jState rid die img 0)
          | .lack t => .lack t

/-! ### Loading (R221) -/

/-- A handler-table write as HBIND makes it: with V = 1 the queued messages for the index leave for the ready queues (R36,
R221, R260). -/
def bindHandler (s : State) (rid core ix : Nat) (e : Word) : State :=
  let k := coreKey rid core
  let go := (s.coreSt k).unclaimed.filter (·.hix == ix)
  let t := { s with handlers := s.handlers.set 0#64 (k * 256 + ix) e }
  (t.modCore k fun c => { c with unclaimed := c.unclaimed.filter (·.hix != ix) }).createTasks k
    (go.map fun r => { r with entry := some e })
/-- The handler-table entry of a HANDLERS record (R28, R215). -/
def entryOf (r : Nat) : Word :=
  BitVec.ofNat 64 (2 ^ 63 + bitsOf r 23 16 * 2 ^ 40 + bitsOf r 81 64 * 2 ^ 18 + bitsOf r 49 32)
/-- A RING record (R217, R303). -/
def loadRing (s : State) (rid core r : Nat) : State :=
  s.setRing (coreKey rid core * 16 + bitsOf r 3 0)
    { base := bitsOf r 49 32, slotsz := bitsOf r 15 8, count := bitsOf r 24 16, free := bitsOf r 24 16 }

/-- The LM contents of the sections of an image, with their places, in index order. -/
def jContents (s : State) (rid die img : Nat) : List Nat → JRes (List (Nat × List Byte))
  | [] => .ok [] s
  | x :: rest =>
    if !shLm x then s.jContents rid die img rest
    else if shKind x = 3 then
      (s.jContents rid die img rest).then fun more t => .ok ((shAddr x, List.replicate (shMsz x) 0#8) :: more) t
    else (s.jRead rid die (img + shFoff x) (shBytes x)).then fun bs t =>
      (t.jContents rid die img rest).then fun more u => .ok ((shAddr x, bs) :: more) u

/-- The tasks that an entry of a processor fires acquire at `.dev`, whichever binding they come from (R168). -/
def entryFires (r : Counter × List TaskRec) : Counter × List TaskRec := (r.1, r.2.map fun t => { t with acq := 4 })
/-- The arm of a TRIG record: the counter, and the tasks that it creates (R216, R221). -/
def trigArm (s : State) (rid core t : Nat) : Counter × List TaskRec :=
  entryFires ((s.counter (coreKey rid core * 256 + bitsOf t 7 0)).arm (bitsOf t 7 0) (BitVec.ofNat 32 (bitsOf t 95 64))
    (BitVec.ofNat 32 (bitsOf t 127 96)) (t.testBit 19))
/-- Its binding (R216, R221); what it fires acquires at `.dev` (R168). -/
def trigBind (s : State) (rid core t : Nat) : Counter × List TaskRec :=
  let b : TaskRec := { hix := bitsOf t 15 8, cls := bitsOf t 17 16, steal := t.testBit 18,
                       x10 := BitVec.ofNat 64 (bitsOf t 191 128), x11 := BitVec.ofNat 64 (bitsOf t 255 192), acq := 4 }
  (s.counter (coreKey rid core * 256 + bitsOf t 7 0)).bindTo (bitsOf t 7 0) b

end State

/-- One write of the load of a core (R221). -/
inductive LoadAct where
  /-- The LM contents. -/
  | lm
  /-- A HANDLERS record. -/
  | handler (r : Nat)
  /-- A RING record. -/
  | ring (r : Nat)
  /-- The arm of a TRIG record. -/
  | arm (t : Nat)
  /-- The binding of a TRIG record with BIND. -/
  | bind (t : Nat)
  deriving DecidableEq, Repr

/-- The writes of the load of one core, in order (R221). -/
def loadActs (hs rs ts : List Nat) : List LoadAct :=
  [.lm] ++ hs.map .handler ++ rs.map .ring ++ ts.flatMap fun t => .arm t :: if t.testBit 20 then [.bind t] else []

namespace State

/-- A write of the load of a core: none while the core's event port cannot take it (R34, R39, R221). A HANDLERS record is
loaded whatever its HIX, ENTRY, CLASS and reserved bits: no sub-reason covers them (R215, R375, log 149). -/
def loadAct (s : State) (rid core : Nat) (lms : List (Nat × List Byte)) (a : LoadAct) : Option State :=
  let k := coreKey rid core
  let ctr (t : Nat) (r : Counter × List TaskRec) : Option State :=
    if s.portTakes k r.2 then some (s.setCtr rid core (bitsOf t 7 0) r.1 r.2) else none
  match a with
  | .lm => some (lms.foldl (fun u p => u.wrLm rid core p.1 p.2) s)
  | .handler r =>
    if s.portTakes k ((s.coreSt k).unclaimed.filter (·.hix == bitsOf r 7 0)) then
      some (s.bindHandler rid core (bitsOf r 7 0) (entryOf r)) else none
  | .ring r => if s.portBusy k then none else some (s.loadRing rid core r)
  | .arm t => ctr t (s.trigArm rid core t)
  | .bind t => ctr t (s.trigBind rid core t)
/-- The writes of a load from one on, core by core, as far as the event ports take them: how many more are done (R221). -/
def loadRun (s : State) (rid : Nat) (lms : List (Nat × List Byte)) : List (Nat × LoadAct) → Nat × State
  | [] => (0, s)
  | (core, a) :: rest =>
    match s.loadAct rid core lms a with
    | none => (0, s)
    | some t =>
      let (n, u) := t.loadRun rid lms rest
      (n + 1, u)

/-- The load of a launch: preparation, page check, and every core of the set, in writes of which `done` stand already (R220, R221):
how many stand now, and whether that is all. -/
def jLoad (s : State) (rid die img : Nat) (cores : List Nat) (done : Nat) : JRes (Nat × Bool) :=
  (s.jEnsure rid die img).then fun h t0 =>
    (t0.jRead rid die (img + jfShoff h) (32 * jfNsec h)).then fun hb t1 =>
      let xs := wordsOf 32 (jfNsec h) hb
      (t1.jContents rid die img xs).then fun lms t2 =>
        (t2.jRecords rid die img 6 16 xs).then fun hs t3 =>
          (t3.jRecords rid die img 14 16 xs).then fun rs t4 =>
            (t4.jRecords rid die img 13 32 xs).then fun ts t5 =>
              let acts := cores.flatMap fun c => (loadActs hs rs ts).map fun a => (c, a)
              let (n, u) := t5.loadRun rid lms (acts.drop done)
              .ok (done + n, acts.length ≤ done + n) u

end State
end Sys2Proof.Machine
end

