-- ==== Sys2Proof/Machine/Dcq.lean ====
section
/-! DEFINITION. The die command processors (08_scheduling.md, R160 to R168; 15_isa_engines.md, R334 to R336;
18_prog_ragged_tiles.md, R339; 21_host_realms_power.md, R345; 22_faults_traps.md, R375) and the queue instructions. -/

namespace Sys2Proof.Machine

namespace State

/-! ### The queue (R160, R161) -/

/-- The queue of a die, as DCQT gives it (R346). -/
def dcqReg (s : State) (rid die : Nat) : QueueReg := (s.realm rid).dcqt.get {} die
/-- VA of a queue position. -/
def dcqVa (s : State) (rid die pos : Nat) : Nat :=
  let q := s.dcqReg rid die
  q.base.toNat + 64 * (pos % 2 ^ q.k)
/-- 2^k entries are reserved and not yet issued (R335). -/
def dcqFull (s : State) (rid die : Nat) : Bool :=
  let d := (s.dieSt (dieKey rid die)).dcq
  2 ^ (s.dcqReg rid die).k ≤ d.tail - d.head
/-- Reserve the tail, write the entry into the ring and commit it; a faulting write commits the position as a consumed entry,
with UNITMEM (R161). Answers whether it was written. -/
def dcqCommit (s : State) (rid die : Nat) (data : List Byte) : Bool × State :=
  let k := dieKey rid die
  let pos := (s.dieSt k).dcq.tail
  match s.unitWrite rid die 3 (s.dcqVa rid die pos) 64 (unmarked data) with
  | (none, t) => (true, t.modDcq k fun d => { d with tail := d.tail + 1 })
  | (some f, t) => (false, (t.modDcq k fun d => { d with tail := d.tail + 1, dead := d.dead ++ [pos] }).unitMem rid die 3 f)

/-- What the head of a queue holds for a processor that may issue. -/
inductive DHead where
  /-- Nothing that may issue now. -/
  | idle
  /-- A position was consumed without an entry. -/
  | moved (s : State)
  /-- The entry at the head, read at issue. -/
  | entry (e : Nat) (s : State)

/-- The processor goes on to the next position (R161, R162). -/
def dcqNext (s : State) (k : Nat) : State :=
  s.modDcq k fun d => { d with head := d.head + 1, cur := none, prog := 0, loaded := 0, grp := 0, flush := false }

/-- The head of the queue: consumed positions pass, an entry is read from the ring at its issue (R161, R167, R383). A realm
that halts ends the entry it has begun and issues no other (R349); so does a stopped processor, which leaves a WAIT, BRANCH or FENCE
as it stands (R390). -/
def dcqHead (s : State) (rid die : Nat) : DHead :=
  let k := dieKey rid die
  let d := (s.dieSt k).dcq
  let st := (s.realm rid).state
  let waits := match d.cur with
    | some e => [4, 5, 7].contains (ofBytes e % 256)
    | none => true
  if (d.stopped && waits) || (s.realm rid).n ≤ die || !(st == 1 || (st == 2 && d.cur.isSome)) then .idle
  else match d.cur with
    | some e => .entry (ofBytes e) s
    | none =>
      if d.tail ≤ d.head then .idle
      else if 0 < d.skip then .moved ((s.dcqNext k).modDcq k fun x => { x with skip := x.skip - 1 })
      else if d.dead.contains d.head then .moved ((s.modDcq k fun x => { x with dead := x.dead.filter (· != d.head) }).dcqNext k)
      else match s.unitClean rid die (s.dcqVa rid die d.head) 64 64 with
        | (.lack, t) => .moved t
        | (.bad f, t) => .moved ((t.unitMem rid die 3 f).dcqNext k)
        | (.ok bs, t) => .entry (ofBytes (plain bs)) ((t.modDcq k fun x => { x with cur := some (plain bs) }).progress k)

/-- Whether the entry that a processor has begun can go on: a WAIT or BRANCH reads its word, and a FENCE looks at the tasks that it
waits for; every other entry acts of itself (R166, R167, R355). -/
def curCanGo (s : State) (rid die : Nat) : Bool :=
  let d := (s.dieSt (dieKey rid die)).dcq
  match d.cur with
  | none => false
  | some bs =>
    let e := ofBytes bs
    let word (n : Nat) (p : Nat → Bool) : Bool := match s.unitClean rid die (bitsOf e 127 64) n n with
      | (.ok xs, _) => p (ofBytes (plain xs))
      | (.bad _, _) => true
      | (.lack, _) => false
    match e % 256 with
    | 4 => !d.stopped && word 8 (bitsOf e 191 128 ≤ ·)
    | 5 => !d.stopped && word 16 (fun c => bitsOf e 191 128 ≤ bitsOf c 127 64)
    | 7 => !d.stopped && !s.groups.any (fun p => p.1 / 2 ^ 32 == rid && p.2.die == die && !p.2.trail && p.2.left != 0)
    | _ => true

/-- DCQFAULT (R375). -/
def dcqFault (s : State) (rid die reason addr sub : Nat) : State :=
  let pos := (s.dieSt (dieKey rid die)).dcq.head
  s.unitReport rid die 3 0x83 reason addr (die + sub * 2 ^ 8) (pos % 2 ^ 32)
/-- A failed check consumes the entry without effect (R375). -/
def dcqRefuse (s : State) (rid die reason sub : Nat) : State :=
  let pos := (s.dieSt (dieKey rid die)).dcq.head
  (s.dcqFault rid die reason (s.dcqVa rid die pos) sub).dcqNext (dieKey rid die)

/-- The issue of an entry whose command code `p` accepts: `go` is given the entry. -/
def dcqEvent (s : State) (p : Nat → Bool) (go : State → Nat → Nat → Nat → State) : State :=
  let rid := s.cur.rid
  let die := s.cur.die
  s.whole (match s.dcqHead rid die with
  | .idle => s
  | .moved t => t
  | .entry e t => if p (e % 256) then go t rid die e else s)

end State

/-- CLASS 0 or HIX 0xF0 to 0xFF in an entry (R375). -/
def classBad (e : Nat) : Bool := bitsOf e 17 16 == 0 || 0xF0 ≤ bitsOf e 15 8

/-- DCQ_NOP (R162). -/
def execDcqNop (s : State) : Res :=
  .next (s.dcqEvent (· == 0) fun t rid die e =>
    if e ≠ 0 then t.dcqRefuse rid die 2 0 else t.dcqNext (dieKey rid die))
/-- DCQ_RESERVED_COMMAND (R162, R375). -/
def execDcqReservedCommand (s : State) : Res :=
  .next (s.dcqEvent (8 ≤ ·) fun t rid die _ => t.dcqRefuse rid die 1 0)

/-! ### LAUNCH entries (R163, R164) -/

/-- The core set of a launch record, in rank order (R30, R163). -/
def launchCores (e n : Nat) : List Nat :=
  (List.range n).flatMap fun d =>
    if (bitsOf e 191 128).testBit d then
      (List.range (bitsOf e 78 72)).flatMap fun r => (List.range (bitsOf e 95 88)).map fun c =>
        mkCore d (bitsOf e 70 64 + r) (bitsOf e 86 80 + c)
    else []
/-- The first check that a launch record fails (R375, log 78). -/
def launchBad (e n : Nat) : Option Nat :=
  if bitsOf e 255 224 != 0 || bitsOf e 127 96 != 0 || e.testBit 87 || e.testBit 79 || e.testBit 71 || bitsOf e 63 36 != 0
      || e.testBit 23 || classBad e || 248 ≤ bitsOf e 35 28 || bitsOf e 95 88 == 0 || bitsOf e 78 72 == 0 then some 2
  else if bitsOf e 191 128 / 2 ^ n != 0 || 80 < bitsOf e 70 64 + bitsOf e 78 72 || 128 < bitsOf e 86 80 + bitsOf e 95 88 then some 3
  else if e.testBit 21 && e.testBit 22 && bitsOf e 223 192 == 0 then some 4
  else none

namespace State

/-- The weight of a launch on one core (R164, R169). -/
def launchWeight (s : State) (rid core e : Nat) : State :=
  let w := bitsOf e 27 24
  if w = 0 then s else s.modOctet (octetKey rid core) fun o => { o with weights := o.weights.set (octetPos core) w }
/-- The arm of a launch on one core, with the tasks that it fires (R164). -/
def launchArm (s : State) (rid core e : Nat) : Counter × List TaskRec :=
  let ix := bitsOf e 35 28
  let v := BitVec.ofNat 32 (bitsOf e 223 192)
  entryFires ((s.counter (coreKey rid core * 256 + ix)).arm ix v v (e.testBit 22))
/-- Its binding; a task that the counter fires later acquires at `.dev` too (R164, R168). -/
def launchBind (s : State) (rid core e : Nat) : Counter × List TaskRec :=
  let ix := bitsOf e 35 28
  let b : TaskRec := { hix := bitsOf e 15 8, cls := bitsOf e 17 16, steal := e.testBit 18,
                       x10 := BitVec.ofNat 64 (bitsOf e 319 256), x11 := BitVec.ofNat 64 (bitsOf e 383 320), acq := 4 }
  (s.counter (coreKey rid core * 256 + ix)).bindTo ix b
/-- The task of a launch on the core of rank r of n (R30, R164). -/
def launchStart (s : State) (rid core e r n g : Nat) : State :=
  let pers := e.testBit 19
  let t : TaskRec := { hix := bitsOf e 15 8, cls := bitsOf e 17 16, steal := e.testBit 18,
                       x10 := BitVec.ofNat 64 (bitsOf e 319 256), x11 := BitVec.ofNat 64 (bitsOf e 383 320),
                       x12 := BitVec.ofNat 64 r, x13 := BitVec.ofNat 64 n, acq := 4, grp := if pers then none else some g }
  let u := if pers then s else s.modGroup rid g fun q => { q with left := q.left + 1 }
  u.createTask (coreKey rid core) t
/-- The cores of a launch in rank order, as far as their event ports and creation holds let it (R39, R164): position 3i + 1 is
the weight and the arm on core i, 3i + 2 the binding, 3i + 3 its task. A full hold delays what would create a task there, and nothing
else. -/
def launchRun (s : State) (rid die e : Nat) (cores : List Nat) : Nat → State
  | 0 => s
  | fuel + 1 =>
    let k := dieKey rid die
    let d := (s.dieSt k).dcq
    let i := (d.prog - 1) / 3
    match cores[i]? with
    | none =>
      let t := if e.testBit 19 then s else s.modGroup rid d.grp fun q => { q with closed := true }
      let t := if e.testBit 19 && bitsOf e 447 384 != 0 then t.unitAddOrReport rid die 3 (bitsOf e 447 384) 1 else t
      t.dcqNext k
    | some core =>
      let ck := coreKey rid core
      let more (t : State) : State := (t.modDcq k fun x => { x with prog := x.prog + 1 }).launchRun rid die e cores fuel
      let port (t : State) (r : Counter × List TaskRec) : State :=
        if s.portTakes ck r.2 then more (t.setCtr rid core (bitsOf e 35 28) r.1 r.2) else s
      if d.prog % 3 = 1 then
        if e.testBit 21 then port (s.launchWeight rid core e) (s.launchArm rid core e) else more (s.launchWeight rid core e)
      else if d.prog % 3 = 2 then if e.testBit 21 then port s (s.launchBind rid core e) else more s
      else if !e.testBit 20 then more s
      else if s.portBusy ck || !s.hasRoom ck then s
      else more (s.launchStart rid core e i cores.length d.grp)

/-- A task group begins for the command at the head of a queue. -/
def openGroup (s : State) (rid die tlc : Nat) : State :=
  let k := dieKey rid die
  let g := s.grpNext
  let q : Grp := { die := die, tlc := tlc, pos := (s.dieSt k).dcq.head }
  ({ s with grpNext := g + 1 }.modGroup rid g fun _ => q).modDcq k fun d => { d with grp := g, prog := 1 }

/-- A launch record (R164): its checks, the load of its image, and its cores. An IMAGE that is not 4 KiB aligned is a field outside its
limits, reason 2, after the checks of `launchBad` (R220, R375, log 144). -/
def dcqLaunch (t : State) (rid die e : Nat) : State :=
  let k := dieKey rid die
  let cores := launchCores e (t.realm rid).n
  if (t.dieSt k).dcq.prog = 0 then
    match launchBad e (t.realm rid).n with
    | some r => t.dcqRefuse rid die r 0
    | none =>
      let begin_ (u : State) : State :=
        (if e.testBit 19 then u.modDcq k fun d => { d with prog := 1 } else u.openGroup rid die (bitsOf e 447 384)).launchRun
          rid die e cores (3 * cores.length + 1)
      let img := bitsOf e 511 448
      if img = 0 then begin_ t
      else if img % 4096 ≠ 0 then t.dcqRefuse rid die 2 0
      else match t.jLoad rid die img cores (t.dieSt k).dcq.loaded with
        | .ok (n, all) u =>
          let v := u.modDcq k fun d => { d with loaded := n }
          if all then begin_ v else v
        | .fail n u => u.dcqRefuse rid die 5 n
        | .flt f u => (u.unitMem rid die 3 f).dcqNext k
        | .lack u => u
  else t.launchRun rid die e cores (3 * cores.length + 1)

end State

/-- DCQ_LAUNCH (R164). -/
def execDcqLaunch (s : State) : Res := .next (s.dcqEvent (· == 1) fun t rid die e => t.dcqLaunch rid die e)

/-! ### TILES entries (R165, R339) -/

namespace State

/-- The core behind slot `repl` of expert `xid` (R159): the Caddy on the lowest logical die that holds it answers. -/
def tileCore (s : State) (rid xid repl : Nat) : Option Nat × State :=
  match (List.range (s.realm rid).n).find? fun d => (s.expert (expertKey rid d xid)).used with
  | none => (none, s)
  | some d =>
    let t := (s.rollWindows rid d xid 64).settleSlots rid d xid
    let e := t.expert (expertKey rid d xid)
    match e.slots[repl]? with
    | some r => (if r.st = 2 ∨ r.st = 3 then some (e.cands[r.cand]?.getD {}).core else none, t)
    | none => (none, t)

/-- The records of a TILES entry in index order (R339): position i + 1 is record i. -/
def tilesRun (s : State) (rid die e : Nat) : Nat → State
  | 0 => s
  | fuel + 1 =>
    let k := dieKey rid die
    let d := (s.dieSt k).dcq
    let i := d.prog - 1
    let nrec := bitsOf e 143 128
    let close (t : State) : State :=
      (t.modGroup rid d.grp fun q => { q with closed := true }).dcqNext k
    let more (t : State) : State := (t.modDcq k fun x => { x with prog := x.prog + 1 }).tilesRun rid die e fuel
    if nrec ≤ i then close s
    else
      let va := bitsOf e 127 64 + 16 * i
      match s.unitClean rid die va 16 16 with
      | (.lack, t) => t
      | (.bad f, t) => close (t.unitMem rid die 3 f)
      | (.ok bs, t) =>
        let r := ofBytes (plain bs)
        let rows := bitsOf r 31 24
        if rows = 0 then more t
        else
          let (core, u) := if 32 < rows then (none, t) else t.tileCore rid (bitsOf r 23 0) (bitsOf r 63 48)
          match core with
          | none => more (u.dcqFault rid die 6 va 0)
          | some c =>
            if u.portBusy (coreKey rid c) || !u.hasRoom (coreKey rid c) then s
            else
              let task : TaskRec := { hix := bitsOf e 15 8, cls := bitsOf e 17 16, x10 := BitVec.ofNat 64 va,
                                      x11 := BitVec.ofNat 64 (bitsOf e 255 192), x12 := BitVec.ofNat 64 i,
                                      x13 := BitVec.ofNat 64 nrec, acq := 4, grp := some d.grp }
              let w := u.modGroup rid d.grp fun q => { q with left := q.left + 1 }
              more (w.createTask (coreKey rid c) task)

/-- A TILES entry that R375 refuses for reason 2. -/
def tilesBad (e : Nat) : Bool :=
  bitsOf e 511 448 != 0 || bitsOf e 383 256 != 0 || bitsOf e 191 144 != 0 || bitsOf e 63 18 != 0 || classBad e
    || bitsOf e 143 128 == 0 || bitsOf e 127 64 % 16 != 0
/-- A TILES entry. -/
def dcqTiles (t : State) (rid die e : Nat) : State :=
  if (t.dieSt (dieKey rid die)).dcq.prog = 0 then
    if tilesBad e then t.dcqRefuse rid die 2 0
    else (t.openGroup rid die (bitsOf e 447 384)).tilesRun rid die e (bitsOf e 143 128 + 1)
  else t.tilesRun rid die e (bitsOf e 143 128 + 1)

end State

/-- DCQ_TILES (R165, R339). -/
def execDcqTiles (s : State) : Res := .next (s.dcqEvent (· == 2) fun t rid die e => t.dcqTiles rid die e)

/-- COMMAND_TLC_ADD: every task of a LAUNCH or TILES command has reached DONE (R164, R165). The turn's `sub` is the group's
number. -/
def execCommandTlcAdd (s : State) : Res :=
  let rid := s.cur.rid
  let q := s.group rid s.cur.sub
  if !s.acts rid || !q.closed || q.left ≠ 0 || q.trail then .next s
  else
    let t := s.modGroup rid s.cur.sub fun _ => {}
    .next (if q.tlc = 0 then t else t.unitAddOrReport rid q.die 3 q.tlc 1)

/-! ### The other commands (R166, R167) -/

/-- DCQ_COLLECTIVE_STEP (R166). -/
def execDcqCollectiveStep (s : State) : Res :=
  .next (s.dcqEvent (· == 3) fun t rid die e =>
    let dcore := bitsOf e 83 64
    let arg (i : Nat) : Word := BitVec.ofNat 64 (bitsOf e (191 + 64 * i) (128 + 64 * i))
    if bitsOf e 511 384 != 0 || bitsOf e 127 84 != 0 || bitsOf e 63 18 != 0 || classBad e then t.dcqRefuse rid die 2 0
    else if !t.coreExists rid dcore then t.dcqRefuse rid die 3 0
    else
      let m : Msg := { rid := rid, sdev := t.fabid, score := unitCore die, scope := 4,
                       h0 := mkH0 0 (bitsOf e 17 16) true 0 (bitsOf e 15 8) 0xFFF dcore,
                       h1 := mkH1 false false rid t.fabid (unitCore die) 0, a0 := arg 0, a1 := arg 1, a2 := arg 2, a3 := arg 3 }
      (t.send m).dcqNext (dieKey rid die))

/-- DCQ_WAIT: an unsigned read of CTR gives at least VAL (R94, R166); else the entry waits on. -/
def execDcqWait (s : State) : Res :=
  .next (s.dcqEvent (· == 4) fun t rid die e =>
    if bitsOf e 511 192 != 0 || bitsOf e 63 8 != 0 then t.dcqRefuse rid die 2 0
    else match t.unitClean rid die (bitsOf e 127 64) 8 8 with
      | (.lack, u) => u
      | (.bad f, u) => (u.unitMem rid die 3 f).dcqNext (dieKey rid die)
      | (.ok bs, u) => if bitsOf e 191 128 ≤ ofBytes (plain bs) then u.dcqNext (dieKey rid die) else u)

/-- DCQ_BRANCH (R167): once SEQ has come, the next SKIP entries are consumed where VALUE does not match. -/
def execDcqBranch (s : State) : Res :=
  .next (s.dcqEvent (· == 5) fun t rid die e =>
    let k := dieKey rid die
    if bitsOf e 511 320 != 0 || bitsOf e 63 16 != 0 || bitsOf e 127 64 % 16 != 0 then t.dcqRefuse rid die 2 0
    else match t.unitClean rid die (bitsOf e 127 64) 16 16 with
      | (.lack, u) => u
      | (.bad f, u) => (u.unitMem rid die 3 f).dcqNext k
      | (.ok bs, u) =>
        let c := ofBytes (plain bs)
        if bitsOf c 127 64 < bitsOf e 191 128 then u
        else if bitsOf c 63 0 &&& bitsOf e 255 192 = bitsOf e 319 256 then u.dcqNext k
        else (u.modDcq k fun d => { d with skip := bitsOf e 15 8 }).dcqNext k)

/-- DCQ_SIGNAL: the processor's release toward the host begins with a flushing read (R90, R166); the read's completion posts
the write. -/
def execDcqSignal (s : State) : Res :=
  .next (s.dcqEvent (· == 6) fun t rid die e =>
    let k := dieKey rid die
    if bitsOf e 511 192 != 0 || bitsOf e 63 27 != 0 || bitsOf e 15 8 != 0 || bitsOf e 127 64 % 8 != 0 then t.dcqRefuse rid die 2 0
    else if (t.dieSt k).dcq.flush then t
    else
      let rd : HostRd := { flush := true, rid := rid, die := die, at_ := t.clock }
      let u := { t with hostRds := t.hostRds ++ [rd] }
      (u.toHost .flush).modDcq k fun d => { d with flush := true })

/-- FLUSHING_READ_COMPLETE: the host has completed the flushing read; the release write and the vector go out, and the SIGNAL
entry ends (R90, R166, R406). -/
def execFlushingReadComplete (s : State) : Res :=
  let rid := s.cur.rid
  let die := s.cur.die
  let k := dieKey rid die
  let mine (r : HostRd) : Bool := r.flush && r.rid == rid && r.die == die
  if !s.hostUp || !s.acts rid || !s.hostRds.any mine then .next s
  else
    let t := { s with hostRds := s.hostRds.filter (!mine ·) }
    match (s.dieSt k).dcq.cur with
    | some bs =>
      let e := ofBytes bs
      if e % 256 = 6 && (s.dieSt k).dcq.flush then
        .next (((t.toHost (.write (bitsOf e 127 64) (toBytes 8 (bitsOf e 191 128)))).toHost (.msi (bitsOf e 26 16))).dcqNext k)
      else .next t
    | none => .next t

/-- DCQ_FENCE (R166): every task of an earlier PERS = 0 LAUNCH or TILES of this queue has reached DONE. Earlier SIGNAL writes
have been posted when their entries ended; the processor itself buffers no write. -/
def execDcqFence (s : State) : Res :=
  .next (s.dcqEvent (· == 7) fun t rid die e =>
    let sc := bitsOf e 10 8
    if bitsOf e 511 11 != 0 || !(sc == 3 || sc == 4 || sc == 6) then t.dcqRefuse rid die 2 0
    else if t.groups.any (fun p => p.1 / 2 ^ 32 == rid && p.2.die == die && !p.2.trail && p.2.left != 0) then t
    else t.dcqNext (dieKey rid die))

/-! ### Reservations, doorbells and host queues (R161, R335, R345) -/

/-- DCQ_RESERVATION: a LAUNCH request reaches the processor (R335): status 1 on a full queue, 2 where the write into the ring
faults, else 0. -/
def execDcqReservation (s : State) : Res :=
  let rid := s.cur.rid
  let die := s.cur.die
  let k := dieKey rid die
  match (s.dieSt k).dcq.reqs[s.cur.idx]? with
  | none => .next s
  | some r =>
    if ((s.dieSt k).dcq.reqs.take s.cur.idx).any (·.core == r.core) then .next s
    else
      let t := s.modDcq k fun d => { d with reqs := d.reqs.eraseIdx s.cur.idx }
      let reply (u : State) (v : Word) : State := if r.frame < 16 then u.setWait rid r.core r.frame (.answer v) else u
      if t.dcqFull rid die then .next (reply t 1#64)
      else match t.dcqCommit rid die r.data with
        | (true, u) => .next (reply u 0#64)
        | (false, u) => .next (reply u 2#64)

namespace State

/-- Whether a doorbell's value is ignored (R345). -/
def doorbellBad (s : State) (rid die v : Nat) : Bool := 2 ^ ((s.realm rid).hqt.get {} die).k ≤ v
/-- Host-queue entries that a doorbell has named and that are not yet committed (R345). -/
def hostWaiting (s : State) (rid die : Nat) : Bool :=
  (s.dieSt (dieKey rid die)).dcq.htail != ((s.realm rid).hqt.get {} die).head

end State

/-- DOORBELL: the host writes `inp.b` at offset `inp.a` of BAR4 (R343, R345, log 87). -/
def execDoorbell (s : State) : Res :=
  let rid := s.cur.inp.a / 0x200
  let die := s.cur.inp.a % 0x200 / 8
  let v := s.cur.inp.b
  if !s.hostReady || 64 ≤ rid || s.cur.inp.a % 8 ≠ 0 then .next s
  else
    let t := s.wake
    if t.doorbellBad rid die v then .next (t.modRealm rid fun r => { r with dberr := true })
    else .next (t.modDcq (dieKey rid die) fun d => { d with htail := v, bell := true })

/-- HOST_QUEUE_FETCH: I/O die 0 reads the host queue's next entry, and, when the host has answered with its 64 bytes, commits
it into the die's queue and advances HEAD; a full queue delays it (R345). -/
def execHostQueueFetch (s : State) : Res :=
  let rid := s.cur.rid
  let die := s.cur.die
  let q := (s.realm rid).hqt.get {} die
  let mine (r : HostRd) : Bool := !r.flush && r.rid == rid && r.die == die
  if !s.hostUp || (s.realm rid).state != 1 || (s.realm rid).n ≤ die || !s.hostWaiting rid die then .next s
  else if !s.hostRds.any mine then
    let rd : HostRd := { flush := false, rid := rid, die := die, at_ := s.clock }
    let u := { s with hostRds := s.hostRds ++ [rd] }
    .next (u.toHost (.read (q.base.toNat + 64 * q.head) 64))
  else if s.cur.inp.data.length ≠ 64 || s.dcqFull rid die then .next s
  else
    let t := { s with hostRds := s.hostRds.filter (!mine ·) }
    let (_, u) := t.dcqCommit rid die s.cur.inp.data
    let next := (q.head + 1) % 2 ^ q.k
    let u := u.modDcq (dieKey rid die) fun d => { d with bell := d.bell && d.htail != next }
    .next (u.modRealm rid fun r => { r with hqt := r.hqt.set {} die { q with head := next } })

/-! ### The queue instructions (R334 to R337) -/

/-- launch (R335). -/
def execLaunch (d a b : BitVec 5) (s : State) : Res :=
  let die := (s.rx a).toNat
  let va := (s.rx b).toNat
  .next (s.checked [resval (64 ≤ die || s.myRealm.n ≤ die) 0x3D die 1, resval (va % 64 != 0) 0x3D va 2]
    (match s.me.wait with
    | .answer v => (s.wx d v).retire 4
    | .unit => s.waitFor .unit
    | _ =>
      if !s.canRelease 4 then s.awaitRelease 4 .stall
      else (s.release 4).readThen 4 0x3D va 64 false fun t _ v =>
        (t.modDcq (dieKey t.cur.rid die) fun x =>
          { x with reqs := x.reqs ++ [{ core := t.cur.core, frame := t.me.frame, data := toBytes 64 v }] }).waitFor .unit))

/-- cqpost: VALUE and SEQ change in one step at the cell's owner, a release of scope .dev (R336, log 80). -/
def execCqpost (d a b : BitVec 5) (s : State) : Res :=
  let va := (s.rx a).toNat
  .next (s.checked [resval (va % 16 != 0) 0x3D va 1]
    (s.atomicThen 4 0x3D va 16 .post (s.rx b).toNat 0 (osRel 4#3) fun t old =>
      (t.wx d (BitVec.ofNat 64 (old / 2 ^ 64 + 1))).retire 4))

/-- cqwait: waits until SEQ is at least x[b]; the VALUE of the same read goes to x[d], an acquire of scope .dev; no safe point
(R336, R350). -/
def execCqwait (d a b : BitVec 5) (s : State) : Res :=
  let va := (s.rx a).toNat
  .next (s.checked [resval (va % 16 != 0) 0x3D va 1]
    (match s.me.wait with
    | .watch l v thr cell => s.holdWait (.watch l v thr cell)
    | _ => s.readThen 4 0x3D va 16 true fun t l v =>
      if (s.rx b).toNat ≤ v / 2 ^ 64 then (((t.acquire 4).unwatch).wx d (BitVec.ofNat 64 v)).retire 4
      else ((t.acquire 4).watch l).holdWait (.watch l va (s.rx b).toNat true)))

end Sys2Proof.Machine
end

