-- ==== Sys2Proof/Machine/Fpu.lean ====
section
/-! DEFINITION. Scalar floating point: FPU and FFMA (11_isa_scalar.md, R231 to R237). -/

namespace Sys2Proof.Machine

/-- The narrow format of an nfmt code (R231). -/
def nfmtOf (n : Nat) : Fmt :=
  match n with
  | 0 => .bf16 | 1 => .f16 | 2 => .e4m3 | 3 => .e5m2 | _ => .e2m1
/-- The integer type of a ty code (R231). -/
def intTyOf (t : BitVec 2) : IntTy := ⟨!t.getLsbD 0, if t.getLsbD 1 then 64 else 32⟩

/-- f[d] ← op(f[a], f[b]) with its flags, after `lat` cycles (R222, R232, R237). -/
def fpu2 (lat : Nat) (op : Nat → Nat → Nat × Flags) (d a b : BitVec 5) (s : State) : Res :=
  .next ((s.putF lat d (op (s.rf a).toNat (s.rf b).toNat)).retire 4)
/-- x[d] ← 1 or 0 with the comparison's flags (R233). -/
def fpuCmp (op : Nat → Nat → Bool × Flags) (d a b : BitVec 5) (s : State) : Res :=
  let r := op (s.rf a).toNat (s.rf b).toNat
  .next ((s.putX 2 d (boolWord r.1) r.2).retire 4)
/-- f[d] ← round(±(f[a] × f[b]) ± f[c]), one rounding (R236). -/
def fpuFma (negP negC : Bool) (d a b c : BitVec 5) (r : BitVec 3) (s : State) : Res :=
  .next ((s.putF 4 d (fFma .f32 (s.rnd r.toNat) negP negC (s.rf a).toNat (s.rf b).toNat (s.rf c).toNat)).retire 4)

/-- fadd (R231, R232). -/
def execFadd (d a b : BitVec 5) (r : BitVec 3) (s : State) : Res :=
  fpu2 4 (fAdd .f32 (s.rnd r.toNat)) d a b s
/-- fsub (R231, R232). -/
def execFsub (d a b : BitVec 5) (r : BitVec 3) (s : State) : Res :=
  fpu2 4 (fSub .f32 (s.rnd r.toNat)) d a b s
/-- fmul (R231, R232). -/
def execFmul (d a b : BitVec 5) (r : BitVec 3) (s : State) : Res :=
  fpu2 4 (fMul .f32 (s.rnd r.toNat)) d a b s
/-- fdiv (R231, R232). -/
def execFdiv (d a b : BitVec 5) (r : BitVec 3) (s : State) : Res :=
  fpu2 14 (fDiv .f32 (s.rnd r.toNat)) d a b s
/-- fsqrt (R231, R232). -/
def execFsqrt (d a : BitVec 5) (r : BitVec 3) (s : State) : Res :=
  .next ((s.putF 16 d (fSqrt .f32 (s.rnd r.toNat) (s.rf a).toNat)).retire 4)
/-- fmin (R105, R232). -/
def execFmin (d a b : BitVec 5) (s : State) : Res :=
  fpu2 2 (fMinMax .f32 false) d a b s
/-- fmax (R105, R232). -/
def execFmax (d a b : BitVec 5) (s : State) : Res :=
  fpu2 2 (fMinMax .f32 true) d a b s
/-- fcpsgn: bits only, no flag (R232). -/
def execFcpsgn (d a b : BitVec 5) (s : State) : Res :=
  fpu2 2 (fun x y => (fSignOf .f32 (y.testBit 31) x, 0#5)) d a b s
/-- fcpsgnn: bits only, no flag (R232). -/
def execFcpsgnn (d a b : BitVec 5) (s : State) : Res :=
  fpu2 2 (fun x y => (fSignOf .f32 (!y.testBit 31) x, 0#5)) d a b s
/-- fcpsgnx: bits only, no flag (R232). -/
def execFcpsgnx (d a b : BitVec 5) (s : State) : Res :=
  fpu2 2 (fun x y => (fSignOf .f32 (x.testBit 31 != y.testBit 31) x, 0#5)) d a b s
/-- feq (R233). -/
def execFeq (d a b : BitVec 5) (s : State) : Res :=
  fpuCmp (fEq .f32) d a b s
/-- flt (R233). -/
def execFlt (d a b : BitVec 5) (s : State) : Res :=
  fpuCmp (fCmp .f32 false) d a b s
/-- fle (R233). -/
def execFle (d a b : BitVec 5) (s : State) : Res :=
  fpuCmp (fCmp .f32 true) d a b s
/-- fclass (R233). -/
def execFclass (d a : BitVec 5) (s : State) : Res :=
  .next ((s.wx d (BitVec.ofNat 64 (fClass .f32 (s.rf a).toNat))).retire 4)
/-- fcvt.f32.ty: FP32 to an integer; s32 is sign-extended, z32 zero-extended (R116, R234). -/
def execFcvtF32Ty (d a : BitVec 5) (t : BitVec 2) (r : BitVec 3) (s : State) : Res :=
  let v := fToInt .f32 (intTyOf t) (s.rnd r.toNat) (s.rf a).toNat
  .next ((s.putX 2 d (BitVec.ofInt 64 v.1) v.2).retire 4)
/-- fcvt.ty.f32: an integer to FP32 (R116, R234). -/
def execFcvtTyF32 (d a : BitVec 5) (t : BitVec 2) (r : BitVec 3) (s : State) : Res :=
  let w := (s.rx a).toNat % 2 ^ (intTyOf t).bits
  let v : Int := if (intTyOf t).signed && 2 ^ ((intTyOf t).bits - 1) ≤ w then (w : Int) - 2 ^ (intTyOf t).bits else w
  .next ((s.putF 2 d (fOfInt .f32 (s.rnd r.toNat) v)).retire 4)
/-- fmv.x.f (R234). -/
def execFmvXF (d a : BitVec 5) (s : State) : Res :=
  .next ((s.wx d ((s.rf a).zeroExtend 64)).retire 4)
/-- fmv.f.x (R234). -/
def execFmvFX (d a : BitVec 5) (s : State) : Res :=
  .next ((s.wrf d ((s.rx a).truncate 32)).retire 4)
/-- fcvt.f32.nfmt: one rounding into the narrow format; the index of a stochastic rounding is x[d] before the write (R113 to
R115, R235). -/
def execFcvtF32Nfmt (d a : BitVec 5) (r : BitVec 3) (st : BitVec 1) (n : BitVec 3) (s : State) : Res :=
  let rm := srRnd s r.toNat (s.coreSt s.ck).srseed ((s.rx d).truncate 32)
  let v := fConv .f32 (nfmtOf n.toNat) rm (st == 1#1) (s.rf a).toNat
  .next ((s.putX 2 d (BitVec.ofNat 64 v.1) v.2).retire 4)
/-- fcvt.nfmt.f32: exact widening; a NaN gives 0x7FC0_0000 (R235). -/
def execFcvtNfmtF32 (d a : BitVec 5) (n : BitVec 3) (s : State) : Res :=
  .next ((s.putF 2 d (fConv (nfmtOf n.toNat) .f32 .rne false ((s.rx a).toNat % 2 ^ (nfmtOf n.toNat).width))).retire 4)
/-- ffma (R236). -/
def execFfma (d a b c : BitVec 5) (r : BitVec 3) (s : State) : Res :=
  fpuFma false false d a b c r s
/-- ffms (R236). -/
def execFfms (d a b c : BitVec 5) (r : BitVec 3) (s : State) : Res :=
  fpuFma false true d a b c r s
/-- fnma (R236). -/
def execFnma (d a b c : BitVec 5) (r : BitVec 3) (s : State) : Res :=
  fpuFma true false d a b c r s
/-- fnms (R236). -/
def execFnms (d a b c : BitVec 5) (r : BitVec 3) (s : State) : Res :=
  fpuFma true true d a b c r s

end Sys2Proof.Machine
end

