-- ==== Sys2Proof/Machine/Matrix.lean ====
section
/-! DEFINITION. The matrix engine (14_isa_matrix.md, R283 to R294; 08_scheduling.md, R169; 22_faults_traps.md, R374): queueing a
command, the arbiter, and what a command does when it runs. -/

namespace Sys2Proof.Machine

/-! ### Accumulator slice, weight buffers and scale stores (R60, R288) -/

/-- Offset of weight buffer b in a core's engine storage (the model's own layout: the accumulator slice lies at 0). -/
def wbufAt (b : Nat) : Nat := 0x4000 * (b + 1)
/-- Offset of the scale store beside weight buffer b. -/
def scaleAt (b : Nat) : Nat := 0xC000 + 0x400 * b
/-- Tile formats by form: 0 FP32, 1 BF16, 2 FP16 (R285, R290). -/
def formFmt (form : Nat) : Fmt :=
  match form with
  | 0 => .f32 | 1 => .bf16 | _ => .f16
/-- Bytes of a tile row in a form. -/
def formRow (form : Nat) : Nat := if form = 0 then 128 else 64
/-- Offset of row i of tile z in its form (R60). -/
def tileRow (form z i : Nat) : Nat := 32 * formRow form * z + formRow form * i

namespace State

/-- n bytes of a core's engine storage. -/
def rdEng (s : State) (k off n : Nat) : List Byte := (List.range n).map fun i => s.emem.get 0#8 (k * 65536 + off + i)
/-- Write a core's engine storage; words written whole lose their poison mark (R383). -/
def wrEng (s : State) (k off : Nat) (bs : List Byte) : State :=
  let a := k * 65536 + off
  { s with emem := s.emem.setAll 0#8 ((enumBytes 0 bs).map fun p => (a + p.1, p.2))
           epoison := s.epoison.filter fun p => !(a ≤ 8 * p.1 && 8 * p.1 + 8 ≤ a + bs.length) }
/-- Whether one of n bytes of the engine storage lies in a poisoned word. -/
def engPoison (s : State) (k off n : Nat) : Bool :=
  let a := k * 65536 + off
  s.epoison.any fun p => a / 8 ≤ p.1 && p.1 ≤ (a + n - 1) / 8 && p.2

end State

/-! ### The multiply (R126, R285 to R288) -/

/-- Formats of A and B by pair (R285). -/
def pairFmts (pair : Nat) : Fmt × Fmt :=
  match pair with
  | 0 => (.bf16, .bf16) | 1 => (.f16, .f16) | 2 => (.e4m3, .e4m3) | 3 => (.e4m3, .e5m2) | 4 => (.e5m2, .e4m3)
  | 5 => (.e5m2, .e5m2) | _ => (.e2m1, .e2m1)
/-- NR. -/
def ctlRows (c : Word) : Nat := bitsOf c.toNat 5 0
/-- RB. -/
def ctlBoundary (c : Word) : Nat := bitsOf c.toNat 13 8
/-- Element k of an operand row, in a format (R101). -/
def rowElem (f : Fmt) (row : List Byte) (k : Nat) : Nat :=
  let byte (i : Nat) : Nat := (row[i]?.getD 0#8).toNat
  match f.width with
  | 16 => byte (2 * k) + 256 * byte (2 * k + 1)
  | 8 => byte k
  | _ => byte (k / 2) / (if k % 2 = 0 then 1 else 16) % 16
/-- Row i of 512 stored bytes read under a swizzle mode (R287, R300). -/
def unswizzle (mode i : Nat) (row : List Byte) : List Byte :=
  let x := if mode = 1 then i % 8 else if mode = 2 then i % 4 else 0
  ((List.range 8).map fun q => (row.drop (64 * (q ^^^ x))).take 64).flatten

/-- One output element: the accumulator's value plus sA × sB × Σ A × B, block scales included, rounded once (R126, R287,
R288). `sc` gives the E8M0 bytes of A and B for element k. -/
def mmaElem (acc : Fmt) (a0 : FVal) (sa sb : Nat) (pair : Nat) (arow bcol : List Byte) (sc : Option (Nat → Nat × Nat)) : Nat :=
  let (fa, fb) := pairFmts pair
  let n := 4096 / fa.width
  let term (k : Nat) : FVal :=
    let base := [Fmt.val .f32 sa, Fmt.val .f32 sb, fa.val (rowElem fa arow k), fb.val (rowElem fb bcol k)]
    mulAll (match sc with
      | some g => base ++ [e8m0Val (g k).1, e8m0Val (g k).2]
      | none => base)
  ((List.range n).foldl (fun t k => t.add (term k)) (ExactSum.empty.add a0)).result acc

/-- Number of E8M0 scales of a row (R288). -/
def rowScales (pair : Nat) : Nat := if pair = 6 then 32 else 16

/-- An element's bytes. -/
def elemBytes (f : Fmt) (v : Nat) : List Byte := toBytes (f.width / 8) v

namespace State

/-- The new bytes of row i of an MMA's tile, from the A bytes read (R287, R288). -/
def mmaRow (s : State) (k pair acc tile : Nat) (ctl : Word) (sa sb : Nat) (blk : Bool) (aBytes : List Byte) (i : Nat) :
    List Byte :=
  let f := formFmt acc
  let nr := ctlRows ctl
  let arow := (aBytes.drop (512 * i)).take 512
  let ascale := (aBytes.drop (512 * nr + rowScales pair * i)).take (rowScales pair)
  let buf := if i < ctlBoundary ctl then 0 else 1
  let old := s.rdEng k (tileRow acc tile i) (formRow acc)
  ((List.range 32).map fun j =>
    let a0 : FVal := if ctl.getLsbD 16 then .fin false 0 0 else f.val (rowElemAcc f old j)
    let sc : Option (Nat → Nat × Nat) := if blk then
        some fun e => ((ascale[e / 32]?.getD 0#8).toNat, (s.emem.get 0#8 (k * 65536 + scaleAt buf + 32 * j + e / 32)).toNat)
      else none
    elemBytes f (mmaElem f a0 sa sb pair arow (s.rdEng k (wbufAt buf + 512 * j) 512) sc)).flatten
where
  /-- Accumulator element j of a tile row. -/
  rowElemAcc (f : Fmt) (row : List Byte) (j : Nat) : Nat := ofBytes ((row.drop (f.width / 8 * j)).take (f.width / 8))

/-- n bytes of an operand at an LM offset: of each 64-byte chunk as the engine has read it, or reads it now (R96). -/
def opBytes (s : State) (rid core : Nat) (got : List (Nat × List Byte × List Nat)) (off n : Nat) : List Byte :=
  if got.isEmpty then s.rdLm rid core off n
  else (List.range n).map fun i => match got.find? (·.1 == (off + i) / 64) with
    | some g => g.2.1.getD ((off + i) % 64) 0#8
    | none => (s.rdLm rid core (off + i) 1).headD 0#8
/-- A number in an operand. -/
def opNum (s : State) (rid core : Nat) (got : List (Nat × List Byte × List Nat)) (off n : Nat) : Nat := ofBytes (s.opBytes rid core got off n)
/-- The VA of the first poisoned word among n bytes of an operand (R366, R383). -/
def opPoison (s : State) (rid core : Nat) (got : List (Nat × List Byte × List Nat)) (off n : Nat) : Option Nat :=
  if got.isEmpty then s.poisonedLm rid core off n
  else
    let bad (w : Nat) : Bool := match got.find? (·.1 == w / 8) with
      | some g => g.2.2.contains (w % 8)
      | none => s.poisoned (lmAddr rid core (8 * w)) 8
    (((List.range ((off + n - 1) / 8 + 1 - off / 8)).map (off / 8 + ·)).find? bad).map fun w => lmBase core + 8 * w
/-- Chunk q of LM as the engine reads it now. -/
def readChunk (s : State) (rid core q : Nat) : Nat × List Byte × List Nat :=
  (q, s.rdLm rid core (64 * q) 64, (List.range 8).filter fun w => s.poisoned (lmAddr rid core (64 * q + 8 * w)) 8)
/-- The poison that an MMA meets (R366, R383): the first poisoned word of what it has read of A, or in the tile or a buffer. -/
def mmaFault (s : State) (rid core acc tile : Nat) (ctl : Word) (blk : Bool) (read : Option Nat) : Option (Nat × Nat) :=
  let k := coreKey rid core
  let nr := ctlRows ctl
  match read with
  | some va => some (0x21, va)
  | none =>
    let buf (b : Nat) : Bool := s.engPoison k (wbufAt b) 16384 || (blk && s.engPoison k (scaleAt b) 1024)
    let bad := (!ctl.getLsbD 16 && s.engPoison k (tileRow acc tile 0) (formRow acc * nr))
      || (0 < ctlBoundary ctl && buf 0) || (ctlBoundary ctl < nr && buf 1)
    if bad then some (0x21, 0) else none

/-- A matrix command was aborted (R374): the abort id, the flag and the report. -/
def engAbort (s : State) (rid core : Nat) (job : BitVec 32) (f : Nat × Nat) : State :=
  (s.modCore (coreKey rid core) fun c => { c with aj := job, ajSet := true }).coreReport rid core 0x86 0 f.2 job.toNat
    (f.1 * 2 ^ 16)

end State

/-! ### XPB (R121, R122) -/

/-- Bit i of a byte stream, from bit 0 of its first byte upward. -/
def streamBit (bs : List Byte) (i : Nat) : Bool := (bs[i / 8]?.getD 0#8).getLsbD (i % 8)
/-- n bits from bit i on, the first the most significant. -/
def streamBits (bs : List Byte) (i : Nat) : Nat → Nat
  | 0 => 0
  | n + 1 => (if streamBit bs i then 2 ^ n else 0) + streamBits bs (i + 1) n
/-- The exponent field of a token and the bit after it; `w` is the field's width, `b` the base exponent. -/
def xpbToken (bs : List Byte) (w b i : Nat) : Nat × Nat :=
  let near (d : Int) : Nat :=
    let v := (b : Int) + d
    if 0 ≤ v ∧ v < 2 ^ w then v.toNat else Config.xpbField b (d + 8).toNat % 2 ^ w
  if !streamBit bs i then (b, i + 1)
  else if !streamBit bs (i + 1) then (near (if streamBit bs (i + 2) then -1 else 1), i + 3)
  else if !streamBit bs (i + 2) then (near (if streamBit bs (i + 3) then -2 else 2), i + 4)
  else (streamBits bs (i + 3) w, i + 3 + w)
/-- The exponent fields of the next n tokens, and the bit after them. -/
def xpbTokens (bs : List Byte) (w b : Nat) : Nat → Nat → List Nat × Nat
  | 0, i => ([], i)
  | n + 1, i =>
    let (e, j) := xpbToken bs w b i
    let (es, k) := xpbTokens bs w b n j
    (e :: es, k)
/-- A block decoded from its bytes (and what follows them): its 32 elements and its length (R121, R122). Reserved bits of the header and
padding bits that are not zero are ignored: the manual gives them no outcome (log 122). -/
def xpbBlock (e4 : Bool) (bs : List Byte) : List Byte × Nat :=
  let w := if e4 then 4 else 5
  let sm := if e4 then 4 else 3
  let head := 1 + 4 * sm
  let b := (bs.headD 0#8).toNat % 2 ^ w
  let (es, n) := xpbTokens (bs.drop head) w b 32 0
  let field (i : Nat) : Nat :=
    ((List.range sm).map fun k => if streamBit (bs.drop 1) (sm * i + k) then 2 ^ k else 0).sum
  let elem (p : Nat × Nat) : Byte :=
    let f := field p.1
    BitVec.ofNat 8 (f / 2 ^ (sm - 1) * 128 + p.2 * 2 ^ (sm - 1) + f % 2 ^ (sm - 1))
  (((List.range 32).zip es).map elem, head + (n + 7) / 8)

namespace State

/-- WLD from XPB (R294): block after block, the decoded bytes or the first fault. -/
def xpbAll (s : State) (rid core : Nat) (got : List (Nat × List Byte × List Nat)) (e4 : Bool) (src offs : Nat) : Nat → Nat → Except (Nat × Nat) (List Byte)
  | 0, _ => .ok []
  | n + 1, j =>
    let at_ := offs + 4 * j
    match s.opPoison rid core got at_ 8 with
    | some va => .error (0x21, va)
    | none =>
      let o := s.opNum rid core got at_ 4
      let o' := s.opNum rid core got (at_ + 4) 4
      let a := src + o
      let (el, len) := xpbBlock e4 (s.opBytes rid core got a 45)
      if 0x30000 < a + len then .error (0x12, lmBase core + max a 0x30000)
      else match s.opPoison rid core got a len with
        | some va => .error (0x21, va)
        | none =>
          if o + len ≠ o' then .error (0x24, lmBase core + a)
          else match xpbAll s rid core got e4 src offs n (j + 1) with
            | .error f => .error f
            | .ok rest => .ok (el ++ rest)

/-- The bytes that a WLD brings into its buffer, or its fault (R294, R374). -/
def wldBytes (s : State) (rid core : Nat) (got : List (Nat × List Byte × List Nat)) (kind src offs : Nat) (scale : Option Nat) : Except (Nat × Nat) (List Byte) :=
  let sc := scale.bind fun a => (s.opPoison rid core got a 1024).map fun va => (0x21, va)
  match (if kind = 0 then
      match s.opPoison rid core got src 16384 with
      | some va => .error (0x21, va)
      | none => .ok (s.opBytes rid core got src 16384)
    else s.xpbAll rid core got (kind == 1) src offs 512 0), sc with
  | .error f, _ => .error f
  | .ok _, some f => .error f
  | .ok bs, none => .ok bs

/-- The bytes of a ZST (R291). -/
def zstBytes (s : State) (k form tile dfmt rm : Nat) (sat : Bool) (seed : Word32) : List Byte :=
  let f := formFmt form
  let g := match dfmt with
    | 0 => Fmt.f32 | 1 => .bf16 | 2 => .f16 | 3 => .e4m3 | _ => .e5m2
  ((List.range 1024).map fun i =>
    let v := ofBytes (s.rdEng k (tileRow form tile 0 + f.width / 8 * i) (f.width / 8))
    let r := if rm = 4 then Rnd.sr (srThreshold seed (BitVec.ofNat 32 i)) else Rnd.ofCode rm
    elemBytes g (fConv f g r sat v).1).flatten
/-- ZST after an abort: each 64-byte chunk of the destination old or new (R374, log 9). -/
def mixChunks (s : State) (rid core dst : Nat) (bs : List Byte) : List Byte :=
  ((List.range (bs.length / 64)).map fun q =>
    if Config.oldOrNew (s.fresh * 4096 + q) then (bs.drop (64 * q)).take 64 else s.rdLm rid core (dst + 64 * q) 64).flatten

/-- What a command does at its completion: the state, and the fault it met (R287 to R294, R374, log 34). -/
def runMatrix (s : State) (rid core : Nat) (j : MJob) : Option (Nat × Nat) × State :=
  let k := coreKey rid core
  match j.cmd with
  | .zclr form tile => (none, s.wrEng k (tileRow form tile 0) (List.replicate (32 * formRow form) 0#8))
  | .zld form tile src =>
    let n := 32 * formRow form
    match s.opPoison rid core j.got src n with
    | some va => (some (0x21, va), s.wrEng k (tileRow form tile 0) (List.replicate n 0#8))
    | none => (none, s.wrEng k (tileRow form tile 0) (s.opBytes rid core j.got src n))
  | .zst form tile dst dfmt rm sat seed =>
    let bs := s.zstBytes k form tile dfmt rm sat seed
    if s.engPoison k (tileRow form tile 0) (32 * formRow form) then
      (some (0x21, 0), s.wrLm rid core dst (s.mixChunks rid core dst bs))
    else (none, s.wrLm rid core dst bs)
  | .wld kind buf src offs scale =>
    match s.wldBytes rid core j.got kind src offs scale with
    | .ok bs =>
      let t := s.wrEng k (wbufAt buf) bs
      (none, match scale with
        | some a => t.wrEng k (scaleAt buf) (s.opBytes rid core j.got a 1024)
        | none => t)
    | .error f =>
      let t := s.wrEng k (wbufAt buf) (List.replicate 16384 0#8)
      (some f, if scale.isSome then t.wrEng k (scaleAt buf) (List.replicate 1024 0#8) else t)
  | .mma pair acc tile _ ctl sa sb blk =>
    let f := formFmt acc
    let rows := List.range (ctlRows ctl)
    match j.fail with
    | some e => (some e, rows.foldl (fun t i =>
        t.wrEng k (tileRow acc tile i) (List.replicate 32 (elemBytes f f.nan)).flatten) s)
    | none => (none, rows.foldl (fun t i => t.wrEng k (tileRow acc tile i) (s.mmaRow k pair acc tile ctl sa sb blk j.aBytes i)) s)

/-! ### Queueing a command (R283, R284, R307) -/

/-- A matrix command of the issuing task after its checks: it waits for a place in the queue, is a release of scope .oct toward
the command, and takes the next job id (R92, R283, R284). -/
def pushMatrix (s : State) (cmd : MCmd) (cd od : Option Nat) : State :=
  if 4 ≤ (s.coreSt s.ck).mq.length || !s.canEngine then s.waitFor .stall
  else
    let t := s.engineRelease
    let job := (t.coreSt t.ck).jobs + 1#32
    let cap (i : Option Nat) : Word := match i with
      | some n => t.cdesc t.cur.rid t.cur.core n
      | none => 0#64
    let j : MJob := { cmd := cmd, job := job, cdesc := cap cd, odesc := cap od, cix := cd.getD 0, oix := od.getD 0 }
    (((t.modCore t.ck fun c => { c with jobs := job, mq := c.mq ++ [j] }).modFrame t.fk fun f => { f with mjob := job })).retire 4

end State

/-- Bits of a control word that R286 reserves. -/
def ctlReserved : Word := 0xFFFFFFFFC002C0C0#64
/-- A control word with a reserved value (R286, R307). -/
def ctlBad (c : Word) : Bool :=
  c &&& ctlReserved != 0#64 || ctlRows c == 0 || 32 < ctlRows c || 32 < ctlBoundary c || bitsOf c.toNat 19 18 == 3

/-- MMA and MMAB (R285 to R288, R307). -/
def mmaWith (blk : Bool) (d a b c : BitVec 5) (q : BitVec 2) (p : BitVec 3) (s : State) : Res :=
  let maj := if blk then 0x33 else 0x32
  let va := s.rx a
  let ctl := s.rx b
  let nr := ctlRows ctl
  let cix := if ctl.getLsbD 24 then some (bitsOf ctl.toNat 23 20) else none
  let oix := if ctl.getLsbD 29 then some (bitsOf ctl.toNat 28 25) else none
  .next (s.checked [s.ownLm maj va 1, resval (ctlBad ctl) maj ctl.toNat 2, s.descCheck maj (cix.getD 0) cix.isSome,
      s.descCheck maj (oix.getD 0) oix.isSome, State.alignTo va 64, s.lmRange va (512 * nr),
      if blk then s.lmRangeFrom (va.toNat % 2 ^ 18 + 16384) (rowScales p.toNat * nr) else none]
    (s.pushMatrix (.mma p.toNat q.toNat d.toNat (va.toNat % 2 ^ 18) ctl (s.rf c).toNat (s.rf (c + 1#5)).toNat blk) cix oix))
/-- mma (R287). -/
def execMma (d a b c : BitVec 5) (q : BitVec 2) (p : BitVec 3) (s : State) : Res := mmaWith false d a b c q p s
/-- mmab (R288). -/
def execMmab (d a b c : BitVec 5) (q : BitVec 2) (p : BitVec 3) (s : State) : Res := mmaWith true d a b c q p s
/-- zclr (R291). -/
def execZclr (d : BitVec 5) (f : BitVec 2) (s : State) : Res := .next (s.pushMatrix (.zclr f.toNat d.toNat) none none)
/-- zld (R291). -/
def execZld (d a : BitVec 5) (f : BitVec 2) (s : State) : Res :=
  let va := s.rx a
  .next (s.checked [s.ownLm 0x34 va 1, State.alignTo va 64, s.lmRange va (32 * formRow f.toNat)]
    (s.pushMatrix (.zld f.toNat d.toNat (va.toNat % 2 ^ 18)) none none))
/-- zst: the rounding mode and the seed are those at issue (R291). -/
def execZst (d a : BitVec 5) (r : BitVec 3) (f : BitVec 2) (st : BitVec 1) (t : BitVec 3) (s : State) : Res :=
  let va := s.rx a
  let n := match t.toNat with
    | 0 => 4096 | 1 => 2048 | 2 => 2048 | _ => 1024
  let rm := if r.toNat = 7 then s.me.frm.toNat else r.toNat
  .next (s.checked [s.ownLm 0x34 va 1, State.alignTo va 64, s.lmRange va n]
    (s.pushMatrix (.zst f.toNat d.toNat (va.toNat % 2 ^ 18) t.toNat rm (st == 1#1) (s.coreSt s.ck).srseed) none none))
/-- WLD (R293, R294, R307). -/
def wldWith (kind : Nat) (d : BitVec 1) (a : BitVec 5) (b : Option (BitVec 5)) (c : BitVec 5) (s : State) : Res :=
  let va := s.rx a
  let vb := (b.map s.rx).getD 0#64
  let vc := s.rx c
  let hasC := c != 0#5
  .next (s.checked [s.ownLm 0x35 va 1, if b.isSome then s.ownLm 0x35 vb 2 else none, if hasC then s.ownLm 0x35 vc 3 else none,
      if kind = 0 then State.alignTo va 64 else none, if b.isSome then State.alignTo vb 4 else none,
      if hasC then State.alignTo vc 64 else none, s.lmRange va (if kind = 0 then 16384 else 1),
      if b.isSome then s.lmRange vb 2052 else none, if hasC then s.lmRange vc 1024 else none]
    (s.pushMatrix (.wld kind d.toNat (va.toNat % 2 ^ 18) (vb.toNat % 2 ^ 18)
      (if hasC then some (vc.toNat % 2 ^ 18) else none)) none none))
/-- wld.plain (R294). -/
def execWldPlain (d : BitVec 1) (a c : BitVec 5) (s : State) : Res := wldWith 0 d a none c s
/-- wld.xpb4 (R294). -/
def execWldXpb4 (d : BitVec 1) (a b c : BitVec 5) (s : State) : Res := wldWith 1 d a (some b) c s
/-- wld.xpb5 (R294). -/
def execWldXpb5 (d : BitVec 1) (a b c : BitVec 5) (s : State) : Res := wldWith 2 d a (some b) c s

/-- Whether job id j is complete (R284). -/
def jobDone (jdone j : BitVec 32) : Bool := (jdone - j).toNat < 2 ^ 31
/-- mwait: waits for the job at a safe point; a job at or after the abort id traps with MJABORT, which clears the flag (R292,
R374). -/
def execMwait (a : BitVec 5) (s : State) : Res :=
  let v := (s.rx a).toNat
  let j := BitVec.ofNat 32 v
  let c := s.coreSt s.ck
  if 2 ^ 32 ≤ v ∨ 2 ^ 31 ≤ (c.jobs - j).toNat then .next (s.trapVal 4 0x34 v 1)
  else if !s.safeReady then .next (s.waitFor .stall)
  else if !jobDone c.jdone j then .next ((s.flushVops s.cur.rid s.cur.core s.me.frame).waitSafe (.job j))
  else if c.ajSet && (j - c.aj).toNat < 2 ^ 31 then
    .next ((s.modCore s.ck fun x => { x with ajSet := false }).trap 4 { code := 9, info := c.aj.toNat })
  else .next (((s.flushVops s.cur.rid s.cur.core s.me.frame).acquire 1).retireSafe 4)

/-! ### Events of the engine -/

/-- The number, among the requests of a core's engines, of the completion action of a job, or of its operands-consumed action. -/
def jobReq (job : BitVec 32) (operands : Bool) : Nat := 4 * job.toNat + (if operands then 3 else 2)

/-- The arbiter's weighted rotation (R169): the position and the count taken. -/
def selectNext (o : OctetSt) (busy : Nat → Bool) : Option (Nat × Nat) :=
  if busy o.arb && o.arbTaken < (o.weights[o.arb]?.getD 1) then some (o.arb, o.arbTaken + 1)
  else (((List.range 8).map fun i => (o.arb + 1 + i) % 8).find? busy).map fun k => (k, 1)

/-- MATRIX_SELECT: the free engine of the octet takes the next command (R169). -/
def execMatrixSelect (s : State) : Res :=
  let o := s.octetSt s.octk
  if o.running.isSome then .next s
  else match selectNext o (fun p => !(s.coreSt (coreKey s.cur.rid (coreAtOctetPos s.cur.core p))).mq.isEmpty) with
    | none => .next s
    | some (k, n) => .next (s.modOctet s.octk fun o => { o with arb := k, arbTaken := n, running := some k })

/-- OPERANDS_CONSUMED: the running MMA has read its last A byte; its OIX descriptor acts (R93, R289). A write may fall between the reads
of two chunks (R96): where `sub` is not 0, the engine reads 64-byte chunk `idx` of LM for the running command, and goes on (log 34). -/
def execOperandsConsumed (s : State) : Res :=
  match (s.octetSt s.octk).running with
  | none => .next s
  | some p =>
    let rid := s.cur.rid
    let core := coreAtOctetPos s.cur.core p
    let k := coreKey rid core
    match (s.coreSt k).mq with
    | [] => .next s
    | j :: rest =>
      if s.cur.sub ≠ 0 then
        if j.consumed || 0xC00 ≤ s.cur.idx || j.got.any (·.1 == s.cur.idx) then .next s
        else .next (s.modCore k fun c => { c with mq := { j with got := j.got ++ [s.readChunk rid core s.cur.idx] } :: rest })
      else match j.cmd with
      | .mma pair acc tile a ctl _ _ blk =>
        if j.consumed then .next s
        else
          let nr := ctlRows ctl
          let n := rowScales pair * nr
          let bs := s.opBytes rid core j.got a (512 * nr)
          let scales := if blk then s.opBytes rid core j.got (a + 16384) n else []
          let poison := (s.opPoison rid core j.got a (512 * nr)).or (if blk then s.opPoison rid core j.got (a + 16384) n else none)
          let rows := ((List.range nr).map fun i =>
            unswizzle (bitsOf ctl.toNat 19 18) i ((bs.drop (512 * i)).take 512)).flatten
          let fail := s.mmaFault rid core acc tile ctl blk poison
          let j' := { j with consumed := true, got := [], aBytes := rows ++ scales, fail := fail }
          let t := s.modCore k fun c => { c with mq := j' :: rest }
          let (done, u) := if fail.isSome then (true, t) else t.descAction rid core j.odesc j.oix 5 (jobReq j.job true)
          .next (if done then u else (s.descAction rid core j.odesc j.oix 5 (jobReq j.job true)).2)
      | _ => .next s

/-- MATRIX_COMPLETE: the running command's results are written, jdone takes its job id, and its CIX descriptor acts, unless it
was aborted (R284, R289, R374). -/
def execMatrixComplete (s : State) : Res :=
  match (s.octetSt s.octk).running with
  | none => .next s
  | some p =>
    let rid := s.cur.rid
    let core := coreAtOctetPos s.cur.core p
    let k := coreKey rid core
    match (s.coreSt k).mq with
    | [] => .next (s.modOctet s.octk fun o => { o with running := none })
    | j :: rest =>
      let waiting := match j.cmd with
        | .mma .. => !j.consumed
        | _ => false
      if waiting then .next s
      else
        let (fail, t) := s.runMatrix rid core j
        let t := (t.modCore k fun c => { c with mq := rest, jdone := j.job }).modOctet s.octk fun o => { o with running := none }
        match fail with
        | some f => .next (t.engAbort rid core j.job f)
        | none =>
          let (done, u) := t.descAction rid core j.cdesc j.cix 5 (jobReq j.job false)
          .next (if done then u else (s.descAction rid core j.cdesc j.cix 5 (jobReq j.job false)).2)

end Sys2Proof.Machine
end

