-- ==== Sys2Proof/Machine/Sched.lean ====
section
/-! DEFINITION. The scheduler of a core and the agents beside it (02_execution.md, R33, R38 to R44, R49, R411; 03_memory.md,
R71, R72; 12_isa_memory.md, R256; 23_state_failures.md, R379): which task takes a free slot, the creation hold, promotion,
stealing, evicted tasks that become ready, and the timers of waits. -/

namespace Sys2Proof.Machine

namespace State

/-! ### The choice of a task (R38, R411) -/

/-- Where a candidate for a slot stands. -/
inductive Pick where
  /-- In the ready queue of a class, at a place. -/
  | ready (cls i : Nat) (item : ReadyItem)
  /-- At the owner end of the deque. -/
  | deque (t : TaskRec)

/-- The ready queue of a class. -/
def readyQ (s : State) (k cls : Nat) : List ReadyItem :=
  match cls with
  | 1 => (s.coreSt k).urgent
  | 3 => (s.coreSt k).backgr
  | _ => (s.coreSt k).normal
/-- Change the ready queue of a class. -/
def setReadyQ (s : State) (k cls : Nat) (q : List ReadyItem) : State :=
  s.modCore k fun c => match cls with
    | 1 => { c with urgent := q }
    | 3 => { c with backgr := q }
    | _ => { c with normal := q }
/-- The candidates of R38 in their order: class by class the queue, or, where that is empty, the deque's owner end. "The entry at the owner
end whose class matches" is read as the one entry at the owner end, where its class matches, not the nearest that matches (log 84). -/
def candidates (s : State) (rid core : Nat) : List Pick :=
  let k := coreKey rid core
  [1, 2, 3].flatMap fun cls =>
    let q := s.readyQ k cls
    if q.isEmpty then
      match s.ownerEnd rid core with
      | some t => if t.cls = cls then [Pick.deque t] else []
      | none => []
    else q.zipIdx.map fun p => Pick.ready cls p.2 p.1

/-- Take a candidate out of its queue. -/
def takeCand (s : State) (rid core : Nat) (c : Pick) : State :=
  let k := coreKey rid core
  match c with
  | .ready cls i _ => s.setReadyQ k cls ((s.readyQ k cls).eraseIdx i)
  | .deque _ => (s.dequeRefill rid core).modCore k fun x => { x with deque := x.deque.dropLast }
/-- The frame a starting task takes: the one the turn names where it is free, else the first free one (R29, log 1). -/
def frameFor (s : State) (rid core : Nat) : Option Nat :=
  let free (f : Nat) : Bool := f < 16 && !(s.frameSt (unitKey rid core f)).used
  if free s.cur.sub then some s.cur.sub else (List.range 16).find? free

/-- The task that takes a free slot (R38, R411): candidates that may not start now are passed over; a task whose entry is
unbound moves to the unclaimed-message queue while that has room. Its dispatch lookup is made here, in the step of its choice, even while
earlier events wait at the event port (log 118). A task of the deque acquires at the scope that covers the core that pushed it
(R85). -/
def startFirst (s : State) (rid core slot : Nat) : List Pick → State
  | [] => s
  | c :: rest =>
    let k := coreKey rid core
    let fresh (t : TaskRec) : State :=
      match s.frameFor rid core with
      | none => s.startFirst rid core slot rest
      | some f =>
        let e := t.entry.getD (s.handlers.get 0#64 (k * 256 + t.hix))
        if t.entry.isSome || e.getLsbD 63 then ((s.takeCand rid core c).startTask rid core slot f t e).progress (dieKey rid (coreDie core))
        else if (s.coreSt k).unclaimed.length < 16 then
          let u := (s.takeCand rid core c).modCore k fun x => { x with unclaimed := x.unclaimed ++ [t] }
          u
        else s.startFirst rid core slot rest
    match c with
    | .ready _ _ (.resumed f _) => ((s.takeCand rid core c).resume rid core slot f).progress (dieKey rid (coreDie core))
    | .ready _ _ (.fresh t) => fresh t
    | .deque t => fresh { t with acq := cover t.pusher core }

end State

/-- TASK_START: a free slot takes the task that R38 chooses (R29, R30, R47, R49, R411, log 83). -/
def execTaskStart (s : State) : Res :=
  let rid := s.cur.rid
  let core := s.cur.core
  let slot := s.cur.slot
  if (s.realm rid).state != 1 || 8 ≤ slot || (s.slotSt (unitKey rid core slot)).busy || (s.coreSt (coreKey rid core)).fenced
      || s.power != 0 || !s.coreExists rid core then .next s
  else .next (s.startFirst rid core slot (s.candidates rid core))

/-- CREATION_HOLD_RELEASE: the first task of the hold enters the ready queue of its class once the queues have room, and the
event port goes on (R39). -/
def execCreationHoldRelease (s : State) : Res :=
  let rid := s.cur.rid
  let core := s.cur.core
  let k := coreKey rid core
  match (s.coreSt k).hold with
  | [] => .next (if s.acts rid then s.pumpPort rid core 64 else s)
  | t :: rest =>
    if !s.acts rid || 64 ≤ s.freshCount k then .next s
    else .next (((s.modCore k fun c => { c with hold := rest }).pushReady k t.cls (.fresh { t with since := s.clock })).pumpPort rid core 64)

/-- HELD_DECREMENT: after an enable, one held decrement per event-port cycle, ahead of any later event, and after the tasks that the enable
itself creates (R33, R39). -/
def execHeldDecrement (s : State) : Res :=
  let rid := s.cur.rid
  let core := s.cur.core
  let k := coreKey rid core
  match (s.coreSt k).owing with
  | none => .next s
  | some ix =>
    let c := s.counter (k * 256 + ix)
    let (d, ts) := ({ c with owed := c.owed - 1 } : Counter).dec ix
    if !s.acts rid || (!ts.isEmpty && !s.hasRoom k) || ((s.coreSt k).evq.head?).any (·.isCreate) then .next s
    else
      let t := ts.foldl (fun u r => u.createTask k r) (s.setCtr rid core ix d [])
      if c.owed ≤ 1 then .next ((t.modCore k fun x => { x with owing := none }).pumpPort rid core 64) else .next t

namespace State

/-- Whether an item of the normal queue has been ready for 65,536 cycles (R40). -/
def promotes (s : State) (i : ReadyItem) : Bool :=
  match i with
  | .fresh t => t.since + 65536 ≤ s.clock
  | .resumed _ since => since + 65536 ≤ s.clock
/-- The item in class urgent. An evicted task keeps its class in its resume word too (R45, log 82). -/
def makeUrgent (s : State) (rid core : Nat) (i : ReadyItem) : State :=
  let k := coreKey rid core
  match i with
  | .fresh t => s.pushReady k 1 (.fresh { t with cls := 1 })
  | .resumed f since =>
    let w := s.rdLmNum rid core (frameBase f) 8
    let w' := w - bitsOf w 27 26 * 2 ^ 26 + 2 ^ 26
    ((s.wrLm rid core (frameBase f) (toBytes 8 w')).modFrame (unitKey rid core f) fun x => { x with cls := 1 }).pushReady k 1
      (.resumed f since)

end State

/-- TASK_PROMOTION: the first normal task that has been ready for 65,536 cycles joins the tail of the urgent queue (R40). -/
def execTaskPromotion (s : State) : Res :=
  let rid := s.cur.rid
  let core := s.cur.core
  let k := coreKey rid core
  let q := (s.coreSt k).normal
  match q.findIdx? s.promotes with
  | none => .next s
  | some i =>
    match q[i]? with
    | none => .next s
    | some item => if s.acts rid then .next ((s.modCore k fun c => { c with normal := q.eraseIdx i }).makeUrgent rid core item) else .next s

/-! ### Evicted tasks (R49) -/

namespace State

/-- The tag words of a view from those given on, as far as they have come. -/
def readTags (s : State) (k : Nat) : List Nat → List URead × State
  | [] => ([], s)
  | j :: rest =>
    let (r, t) := s.readTag k j
    let (rs, u) := t.readTags k rest
    (r :: rs, u)
/-- Whether every tag of a view reaches a version, or one is poisoned or unreadable: VWSYNC then ends (R139, R385). -/
def tagsSettled (s : State) (k ver : Nat) : Bool × State :=
  let v := s.view k
  let (tags, t) := s.readTags k (List.range v.nblk)
  let bad (r : URead) : Bool := match r with
    | .ok bs => ofBytes (plain bs) == tagPoisoned
    | .bad _ => true
    | .lack => false
  let good (r : URead) : Bool := match r with
    | .ok bs => reaches (ofBytes (plain bs)) ver
    | _ => false
  if v.used then (tags.any bad || tags.all good, t) else (true, s)

/-- Whether the condition that a task of a core waits for holds (R49), and the state after what it takes to tell. -/
def waitMet (s : State) (rid core : Nat) (w : Wait) : Bool × State :=
  match w with
  | .job j => (jobDone (s.coreSt (coreKey rid core)).jdone j, s)
  | .ring h free n =>
    let r := s.ring (coreKey rid core * 16 + h)
    (r.count < n || n ≤ (if free then r.free else r.fill), s)
  | .vsync vid ver => s.tagsSettled (viewKey rid vid) ver
  | .vread vid j ver lag =>
    match s.readTag (viewKey rid vid) j with
    | (.ok bs, t) =>
      (reaches (ofBytes (plain bs)) (ver - lag) || ofBytes (plain bs) == tagPoisoned || !(s.view (viewKey rid vid)).used, t)
    | (.bad _, t) => (true, t)
    | (.lack, t) => (false, t)
  | .watch .. | .again .. | .barReply .. | .bara _ | .barWait .. | .claim _ | .join .. | .walk _ | .load _ | .unit => (false, s)
  | .none | .stall | .early _ | .ahead _ | .dying .. | .walkFault .. | .loaded .. | .refused .. | .barDone .. | .granted _ | .answer _ =>
    (true, s)

end State

/-- EVICTED_TASK_READY: an evicted task whose wait condition holds enters the ready queue of its class (R38, R49). The turn's
`sub` is its frame. -/
def execEvictedTaskReady (s : State) : Res :=
  let rid := s.cur.rid
  let core := s.cur.core
  let fk := unitKey rid core s.cur.sub
  let f := s.frameSt fk
  if !s.acts rid || !f.used || !f.evicted || f.ready || 16 ≤ s.cur.sub then .next s
  else
    let (met, t) := s.waitMet rid core f.wait
    .next (s.whole (if met then
        (t.modFrame fk fun x => { x with ready := true }).pushReady (coreKey rid core) f.cls (.resumed s.cur.sub s.clock)
      else t))

namespace State

/-- A task that watches a line reads again (R256, R336): in its slot it is issued again; evicted, it becomes ready only where
the word it reads meets its threshold or cannot be read. What lies on another device is asked for. -/
def rereadWatch (s : State) (rid core frame : Nat) : State :=
  match s.waitOf rid core frame with
  | .watch l va thr cell =>
    if (s.slotOf rid core frame).isSome then s.setWait rid core frame (.again l va thr cell)
    else
      let m := if cell then l.plus 8 else l
      match l with
      | .far .. =>
        if s.farQ.any fun r => r.unit == some 8 && r.rid == rid && r.core == core && r.frame == frame then s
        else
          let r : FarReq := { rid := rid, core := core, id := 0, loc := m, va := va, size := 8, op := .load, frame := frame, unit := some 8 }
          let t := s.countRead (dieKey rid (coreDie core)) m
          { t with farQ := t.farQ ++ [r] }
      | _ =>
        let (v, t) := s.strongRead rid core false m 8
        if thr ≤ v || s.poisoned (locAddr rid l) (if cell then 16 else 8) then t.setWait rid core frame .none
        else t.modFrame (unitKey rid core frame) fun f => { f with since := s.clock }
  | _ => s

end State

/-- WRITE_REPORT: the owner's report of a write to a watched line reaches a waiting core (R256): a report of this device, or, with `sub` 1,
another device's report to the core of a watch of its memory: a message that comes through a port that is UP, and that brings the module
back to D0 (R356, R402). -/
def execWriteReport (s : State) : Res :=
  if s.cur.sub = 1 then
    match s.watches[s.cur.idx]? with
    | none => .next s
    | some w =>
      let dev := w.line * 64 / 2 ^ 45 % 4096
      if !s.acts w.rid || w.line * 64 < 2 ^ 80 || !s.hears dev then .next s
      else .next (if s.power = 4 then s.wake else s.wake.rereadWatch w.rid w.core w.frame)
  else match s.reports[s.cur.idx]? with
    | none => .next s
    | some w =>
      if !s.acts w.rid then .next s
      else .next ({ s with reports := s.reports.eraseIdx s.cur.idx }.rereadWatch w.rid w.core w.frame)

/-- WAIT_TIMEOUT: 4,096 cycles after the last read a WAITGE or CQWAIT reads again; suspended in D1 and D2 (R256, R336, R355). -/
def execWaitTimeout (s : State) : Res :=
  let rid := s.cur.rid
  let core := s.cur.core
  let f := s.cur.sub
  let since := match s.slotOf rid core f with
    | some i => (s.slotSt (unitKey rid core i)).since
    | none => (s.frameSt (unitKey rid core f)).since
  if !s.acts rid || s.power != 0 || 16 ≤ f || s.clock < since + 4096 then .next s
  else .next (s.rereadWatch rid core f)

/-! ### Stealing (R43, R44) -/

namespace State

/-- A core with nothing to run, a free slot and a free frame (R43). -/
def idleCore (s : State) (rid core : Nat) : Bool :=
  let k := coreKey rid core
  let c := s.coreSt k
  c.urgent.isEmpty && c.normal.isEmpty && c.backgr.isEmpty && s.dequeCount k == 0 && !c.fenced
    && ((List.range 8).any fun i => !(s.slotSt (unitKey rid core i)).busy)
    && ((List.range 16).any fun i => !(s.frameSt (unitKey rid core i)).used)
/-- The records of a deque from the far end on (R42). -/
def wholeDeque (s : State) (rid core : Nat) : List TaskRec :=
  let c := s.coreSt (coreKey rid core)
  (List.range c.spilled).map (s.spilledAt rid core) ++ c.deque
/-- The deque without the record at place i from the far end. -/
def dequeRemove (s : State) (rid core i : Nat) : State :=
  let k := coreKey rid core
  let c := s.coreSt k
  if i < c.spilled then
    let rest := ((List.range c.spilled).drop (i + 1)).map fun j => recordBytes (s.spilledAt rid core j)
    (s.wrLm rid core (spillBase + 32 * i) rest.flatten).modCore k fun x =>
      { x with spilled := x.spilled - 1, spillBy := x.spillBy.eraseIdx i }
  else s.modCore k fun x => { x with deque := x.deque.eraseIdx (i - c.spilled) }

end State

/-- STEAL_REQUEST: an idle core asks the next victim of its rotation (R43). -/
def execStealRequest (s : State) : Res :=
  let rid := s.cur.rid
  let core := s.cur.core
  let k := coreKey rid core
  let c := s.coreSt k
  if (s.realm rid).state != 1 || s.power != 0 || !s.coreExists rid core || !s.idleCore rid core || c.stealTo.isSome
      || 31 ≤ c.refusals then .next s
  else .next (s.modCore k fun x => { x with stealTo := some ((clusterPos core + 1 + c.refusals) % 32) })

/-- STEAL_BACKOFF: 256 cycles after a whole rotation of refusals the rotation begins again (R43). -/
def execStealBackoff (s : State) : Res :=
  let k := coreKey s.cur.rid s.cur.core
  let c := s.coreSt k
  if c.refusals < 31 || s.clock < c.backoff then .next s
  else .next (s.modCore k fun x => { x with refusals := 0, backoff := 0 })

/-- STEAL_HANDOVER: the victim hands over the stealable record nearest the far end of its deque, or refuses (R43, R44). The
record goes to the owner end of the thief's deque, where R38 chooses it (R411). After a hand-over the thief's rotation begins again with
the core after its own (log 119). -/
def execStealHandover (s : State) : Res :=
  let rid := s.cur.rid
  let core := s.cur.core
  let k := coreKey rid core
  match (s.coreSt k).stealTo with
  | none => .next s
  | some p =>
    if !s.acts rid then .next s
    else
      let victim := coreAtClusterPos core p
      let q := s.wholeDeque rid victim
      match q.findIdx? (·.steal) with
      | none =>
        let n := (s.coreSt k).refusals + 1
        .next (s.modCore k fun x => { x with stealTo := none, refusals := n, backoff := if 31 ≤ n then s.clock + 256 else 0 })
      | some i =>
        let t := s.dequeRemove rid victim i
        .next ((t.dequePush rid core (q[i]?.getD {})).modCore k fun x => { x with stealTo := none, refusals := 0, backoff := 0 })

/-! ### Walks and the combining buffer (R71, R72, R379) -/

/-- PAGE_WALK_COMPLETE: a walk of the die ends: its leaf enters the TLBs of the clusters that missed, or every request takes
its fault; then the next walk that waits begins (R72, R378, R379). Where `inp.c` is 1, a 64 KiB group is held by its part alone (R64).
With `sub` 1, the TLB of the core's cluster drops entry `idx` where that is superseded, as it may at any time (R72). -/
def execPageWalkComplete (s : State) : Res :=
  let rid := s.cur.rid
  let die := s.cur.die
  if s.cur.sub = 1 then .next (s.tlbForget rid s.clk s.cur.idx)
  else match (s.dieSt (dieKey rid die)).walks[s.cur.idx]? with
  | none => .next s
  | some w =>
    if !s.acts rid then .next s else .next (s.endWalk rid die s.cur.idx w (s.cur.inp.c == 1))

/-- COMBINING_DRAIN_TIMEOUT: an entry of the combining buffer drains 1,024 cycles after its first store (R71). -/
def execCombiningDrainTimeout (s : State) : Res :=
  let rid := s.cur.rid
  let core := s.cur.core
  let k := coreKey rid core
  match (s.coreSt k).cbuf[s.cur.idx]? with
  | none => .next s
  | some e =>
    if !s.acts rid || s.clock < e.born + 1024 then .next s
    else .next ((s.modCore k fun c => { c with cbuf := c.cbuf.eraseIdx s.cur.idx }).postDrain rid core e)

end Sys2Proof.Machine
end

