-- ==== Sys2Proof/Machine/Trail.lean ====
section
/-! DEFINITION. The Trail of a die (08_scheduling.md, R170 to R174; 15_isa_engines.md, R328 to R333; 20_prog_trail_pipeline.md,
R341; 23_state_failures.md, R387): its sequencer, its exchanges with neighbouring Trails, and the STG instructions. -/

namespace Sys2Proof.Machine

/-! ### Stage entries and core sets (R170, R329) -/

/-- PH: 0 F, 1 B, 2 W, 3 NOP. -/
def stPh (e : Word) : Nat := bitsOf e.toNat 9 8
/-- MB. -/
def stMb (e : Word) : Nat := bitsOf e.toNat 7 0
/-- HIX. -/
def stHix (e : Word) : Nat := bitsOf e.toNat 17 10
/-- SLOT. -/
def stSlot (e : Word) : Nat := bitsOf e.toNat 25 18
/-- PRED. -/
def stPred (e : Word) : Nat := bitsOf e.toNat 31 26
/-- SUCC. -/
def stSucc (e : Word) : Nat := bitsOf e.toNat 37 32
/-- INCTR. -/
def stInctr (e : Word) : Nat := bitsOf e.toNat 45 38
/-- SEL. -/
def stSel (e : Word) : Nat := bitsOf e.toNat 49 46
/-- HALT. -/
def stHalt (e : Word) : Bool := e.getLsbD 56
/-- SRC. -/
def stSrc (e : Word) : Bool := e.getLsbD 57
/-- SINK. -/
def stSink (e : Word) : Bool := e.getLsbD 58

/-- The cores of a stage core set on a die, in rank order (R30, R329). -/
def setCores (die w : Nat) : List Nat :=
  (List.range (bitsOf w 13 7)).flatMap fun r => (List.range (bitsOf w 28 21)).map fun c =>
    mkCore die (bitsOf w 6 0 + r) (bitsOf w 20 14 + c)
/-- A core-set word that R329 or R330 forbids. -/
def setBad (w : Nat) : Bool :=
  bitsOf w 31 29 != 0 || (bitsOf w 28 21 != 0
    && (bitsOf w 13 7 == 0 || 128 < bitsOf w 20 14 + bitsOf w 28 21 || 80 < bitsOf w 6 0 + bitsOf w 13 7))
/-- A stage entry that R170 or R330 forbids, in a realm of n dies. -/
def stageBad (n nslot : Nat) (sets : List Nat) (e : Word) : Bool :=
  let fb := stPh e ≤ 1
  bitsOf e.toNat 63 59 != 0 || bitsOf e.toNat 55 50 != 0 || 0xF0 ≤ stHix e || 247 < stInctr e
    || bitsOf (sets[stSel e]?.getD 0) 28 21 == 0 || (fb && nslot ≤ stSlot e)
    || (fb && !stSrc e && n ≤ stPred e) || (stPh e == 0 && !stSink e && n ≤ stSucc e)

namespace TrailSt

/-- The entry at the head. -/
def headEntry (t : TrailSt) : Word × Word := t.entries[t.head]?.getD (0#64, 0#64)
/-- The core-set word of an entry. -/
def setOf (t : TrailSt) (e : Word) : Nat := t.sets[stSel e]?.getD 0
/-- The anchor core of an entry: rank 0 of its set (R170). -/
def anchor (t : TrailSt) (die : Nat) (e : Word) : Nat := (setCores die (t.setOf e)).headD (mkCore die 0 0)
/-- The receiving entry of a post: the first of the phase and micro-batch in table order from the head (R332). -/
def receiver (t : TrailSt) (ph mb : Nat) : Option Word :=
  let es := t.entries.map (·.1)
  (es.drop t.head ++ es.take t.head).find? fun e => stPh e == ph && stMb e == mb

end TrailSt

namespace State

/-- The pending fires of an input counter (R33, R171). A DISABLED counter keeps its p, but the sequencer claims none of it until ENABLE
puts the counter back into PENDING-FIRE (log 143). -/
def pendingFires (s : State) (rid core ix : Nat) : Nat :=
  let c := s.counter (coreKey rid core * 256 + ix)
  if c.state = 2#2 then c.p else 0
/-- The first unmet condition of the head entry: 0 input or gradient, 1 free, 2 stash, 3 in progress; none when it may start
(R171, R173). -/
def headWait (s : State) (rid die : Nat) (t : TrailSt) : Option Nat :=
  let e := t.headEntry.1
  if stPh e ≤ 2 && s.pendingFires rid (t.anchor die e) (stInctr e) = 0 then some 0
  else if stPh e = 1 && !stSink e && !t.grad.contains (stMb e) then some 0
  else if stPh e = 0 && !stSink e && t.free ≤ t.pf then some 1
  else if stPh e = 0 && t.occ.contains (stSlot e) then some 2
  else if 4 ≤ t.open_.length then some 3
  else none
/-- dt cycles pass: a head entry that waits counts them under its reason (R173); a full creation hold counts nowhere
(R39, log 76). -/
def waitTrail (s : State) (rid die dt : Nat) : State :=
  let t := (s.dieSt (dieKey rid die)).trail
  if !t.running then s
  else match s.headWait rid die t with
    | some 3 => s
    | some i => s.modTrail (dieKey rid die) fun x =>
        { x with cycs := x.cycs.set i ((x.cycs[i]?.getD 0 + dt) % 2 ^ 64), waits := x.waits.set i (x.waits[i]?.getD 0 + dt) }
    | none => s

/-- A claim of one fire (R171). -/
def claimFire (s : State) (rid core ix : Nat) : State :=
  let k := coreKey rid core * 256 + ix
  let c := s.counter k
  s.setCounter k { c with p := c.p - 1, state := if c.p ≤ 1 then 0#2 else c.state }

/-- Rise of an event count (R173). -/
def bump (evs : List Nat) (i : Nat) (b : Bool) : List Nat := if b then evs.set i ((evs[i]?.getD 0 + 1) % 2 ^ 32) else evs

/-- The bubble-log record of a start at CYCLE `cyc` (R174); among equal waits the first reason (log 20). -/
def bubbleRecord (t : TrailSt) (cyc : Nat) : Nat :=
  let w (i : Nat) : Nat := t.waits[i]?.getD 0
  let why := if w 1 ≤ w 0 && w 2 ≤ w 0 then 0 else if w 2 ≤ w 1 then 1 else 2
  let e := t.headEntry.1
  stMb e + stPh e * 2 ^ 8 + t.head * 2 ^ 16 + why * 2 ^ 24 + cyc % 2 ^ 32 * 2 ^ 32 + t.waits.sum % 2 ^ 64 * 2 ^ 64

/-- What the start of the head entry does to the Trail itself (R171, R173, R174). After the last entry the head stands at 0, with LOOP = 0
too (log 125). -/
def startHead (t : TrailSt) (cyc : Nat) : TrailSt :=
  let e := t.headEntry.1
  let f := stPh e = 0
  let slot := stSlot e
  let logged := 0 < t.waits.sum
  let wrap := t.head + 1 = t.nent
  let fc := if f then t.fcount + 1 else t.fcount
  { t with
    grad := if stPh e = 1 then t.grad.filter (· != stMb e) else t.grad
    pf := if f && !stSink e then t.pf + 1 else t.pf
    occ := if f && !t.occ.contains slot then slot :: t.occ else t.occ
    started := if t.started.contains t.head then t.started else t.head :: t.started
    posted := t.posted.filter (· != t.head)
    fcount := fc
    filled := if f && !t.filled.contains slot then slot :: t.filled else t.filled
    evs := bump (bump (bump t.evs 0 ((f && !stSrc e) || (stPh e = 1 && !stSink e))) 1 (f && t.free0 < fc)) 2
      (f && t.filled.contains slot)
    log := if logged then t.log.set 0 (t.logn % 64) (bubbleRecord t cyc) else t.log
    logn := if logged then t.logn + 1 else t.logn
    waits := [0, 0, 0]
    head := if wrap then 0 else t.head + 1
    running := t.running && !stHalt e && (!wrap || t.loop) }

end State

/-- TRAIL_ENTRY_START: the head entry starts once its conditions hold (R171): it claims a fire through the anchor core's event
port, and creates its tasks in rank order, each of which acquires at `.die` (R172); a full creation hold keeps it waiting (R39). -/
def execTrailEntryStart (s : State) : Res :=
  let rid := s.cur.rid
  let die := s.cur.die
  let dk := dieKey rid die
  let t := (s.dieSt dk).trail
  let (e, arg) := t.headEntry
  let cores := setCores die (t.setOf e)
  let anchor := t.anchor die e
  if !t.running || (s.realm rid).state != 1 || (s.headWait rid die t).isSome then .next s
  else if stPh e ≤ 2 && s.portBusy (coreKey rid anchor) then .next s
  else if stPh e ≤ 2 && cores.any (fun c => !s.hasRoom (coreKey rid c)) then .next s
  else
    let s1 := (s.modTrail dk fun x => State.startHead x (s.cycle dk)).progress dk
    let s2 := if stPh e = 0 && !stSrc e then { s1 with slotRets := s1.slotRets ++ [(rid, die, stPred e, stMb e)] } else s1
    if stPh e = 3 then .next s2
    else
      let g := s.grpNext
      let x11 := BitVec.ofNat 64 (stMb e + stPh e * 2 ^ 8 + stSlot e * 2 ^ 16 + t.head * 2 ^ 24)
      let s3 := s2.claimFire rid anchor (stInctr e)
      let grp : Grp := { die := die, left := cores.length, closed := true, pos := stPh e * 256 + stSlot e, trail := true }
      let s4 := ({ s3 with grpNext := g + 1 }.modGroup rid g fun _ => grp).modTrail dk fun x =>
        { x with open_ := x.open_ ++ [(t.head, g)] }
      .next (cores.zipIdx.foldl (fun u p => u.createTask (coreKey rid p.1)
        { hix := stHix e, cls := 2, acq := 3, x10 := arg, x11 := x11, x12 := BitVec.ofNat 64 p.2, x13 := BitVec.ofNat 64 cores.length,
          grp := some g }) s4)

/-- TRAIL_ENTRY_COMPLETE: every task of a started entry has reached DONE; a B entry's slot becomes unoccupied (R171). -/
def execTrailEntryComplete (s : State) : Res :=
  let dk := dieKey s.cur.rid s.cur.die
  match (s.dieSt dk).trail.open_[s.cur.idx]? with
  | none => .next s
  | some (_, g) =>
    let q := s.group s.cur.rid g
    if q.left ≠ 0 then .next s
    else
      .next ((s.modGroup s.cur.rid g fun _ => {}).modTrail dk fun x =>
        { x with open_ := x.open_.eraseIdx s.cur.idx, occ := if q.pos / 256 = 1 then x.occ.filter (· != q.pos % 256) else x.occ })

namespace State

/-- A message comes to a handler or counter of a core of this device: not on its way out, no post between Trails, no class-0 message of
the copy units. -/
def forCore (m : Msg) : Bool := m.ddev == 0xFFF && m.post.isNone && h0Class m.h0 != 0
/-- The core of this device at which a message takes effect: a post's is the anchor core of the receiving entry (R26, R332). -/
def msgCore (s : State) (m : Msg) : Option Nat :=
  match m.post with
  | some (die, ph, mb, _) =>
    let t := (s.dieSt (dieKey m.rid die)).trail
    (t.receiver ph mb).map (t.anchor die)
  | none => if forCore m then some (h0Dcore m.h0) else none
/-- An earlier ordered message of the same source core to the same core, or post to the same Trail, is still on its way (R26, R172). -/
def ordBlocked (s : State) (i : Nat) (m : Msg) : Bool :=
  let sameTrail (x : Msg) : Bool := match x.post, m.post with
    | some (d, _), some (d', _) => d == d'
    | _, _ => false
  h1Ord m.h1 && (s.net.take i).any fun x =>
    h1Ord x.h1 && x.rid == m.rid && x.sdev == m.sdev && x.score == m.score
      && (sameTrail x || (s.msgCore x).any fun c => s.msgCore m == some c)
/-- The service slot writes the payload to LM, its marks with it (R27, R37, R383). -/
def putPayload (s : State) (core : Nat) (m : Msg) : State :=
  if m.payload.isEmpty then s
  else
    let off := h1Poff m.h1
    m.marks.foldl (fun u i => u.markPoison (lmAddr m.rid core (off + 8 * i))) ((s.wrLm m.rid core off m.payload).noteService m.rid core)
/-- A core takes a message now: its event port is idle, and its service slot may write the payload (R27, R34, R37). -/
def takesMsg (s : State) (core : Nat) (m : Msg) : Bool :=
  !s.portBusy (coreKey m.rid core) && (m.payload.isEmpty || s.serviceTurn m.rid core)

end State

/-- TRAIL_POST_ARRIVAL: a post reaches a Trail: its payload is written to the anchor core of the receiving entry, then the
input counter is decremented or GRAD set (R172, R332, R341, R387); ordered messages of one core arrive in order (R26), and a post to
a fenced core is discarded (R390). -/
def execTrailPostArrival (s : State) : Res :=
  match s.net[s.cur.idx]? with
  | none => .next s
  | some m =>
    match m.post with
    | none => .next s
    | some (die, ph, mb, from_) =>
      if s.ordBlocked s.cur.idx m then .next s
      else
        let s1 := { s with net := s.net.eraseIdx s.cur.idx }
        let s1 := match m.out with
          | some id => s1.freeOut m.rid m.score id
          | none => s1
        let t := (s1.dieSt (dieKey m.rid die)).trail
        if !t.defined then .next (s1.unitReport m.rid die 2 0x26 ph from_ mb 1)
        else match t.receiver ph mb with
          | none => .next (s1.unitReport m.rid die 2 0x26 ph from_ mb 0)
          | some e =>
            let core := t.anchor die e
            if (s.coreSt (coreKey m.rid core)).fenced then .next s1
            else if !s.takesMsg core m then .next s
            else
              let s2 := s1.putPayload core m
              if ph = 0 then .next (s2.portMessage m.rid core (.dec (stInctr e)))
              else .next (s2.modTrail (dieKey m.rid die) fun x => { x with grad := if x.grad.contains mb then x.grad else mb :: x.grad })

/-- SLOT_RETURN: a slot return raises FREE of the receiving Trail (R172, R387); those of one sender arrive in order (R26, log 73). -/
def execSlotReturn (s : State) : Res :=
  match s.slotRets[s.cur.idx]? with
  | none => .next s
  | some (rid, from_, dst, mb) =>
    if (s.slotRets.take s.cur.idx).any fun x => x.1 == rid && x.2.1 == from_ && x.2.2.1 == dst then .next s
    else
      let t := { s with slotRets := s.slotRets.eraseIdx s.cur.idx }
      if (t.dieSt (dieKey rid dst)).trail.defined then .next (t.modTrail (dieKey rid dst) fun x => { x with free := x.free + 1 })
      else .next (t.unitReport rid dst 2 0x26 0 from_ mb 1)

/-! ### STGDEF (R329, R330) -/

namespace State

/-- Whether every page from a list lies in near memory of the device: none where one is not, a fault where none translates
it (R329, R330, log 74). -/
def nearPages (s : State) (rid die : Nat) : List Nat → Except (Option Flt) Unit × State
  | [] => (.ok (), s)
  | p :: rest =>
    match s.checkForm rid (p * 4096) 0x3C with
    | some (.error f) => (.error (some f), s)
    | some (.ok _) => (.error none, s)
    | none => match s.unitLeaf rid die (p * 4096) with
      | (.error f, t) => (.error (some f), t)
      | (.ok e, t) => match t.leafLoc rid e (p * 4096) with
        | .dev _ 0 .. => t.nearPages rid die rest
        | _ => (.error none, t)

/-- STGDEF at the Trail: the status (R330, R383, log 77). -/
def defineTrail (s : State) (rid die va : Nat) : Nat × State :=
  let dk := dieKey rid die
  let bad (t : State) (f : Flt) : Nat × State := (2, t.unitMem rid die 2 f)
  if (s.dieSt dk).trail.running then (1, s)
  else match s.unitClean rid die va 64 64 with
    | (.lack, t) => (2, t)
    | (.bad f, t) => bad t f
    | (.ok r, t) =>
      let n := ofBytes (plain r)
      let nent := bitsOf n 239 233
      let nslot := bitsOf n 232 224
      let slotb := bitsOf n 223 192
      let stash := bitsOf n 63 0
      let entv := bitsOf n 191 128
      if bitsOf n 511 249 != 0 || bitsOf n 247 240 == 0 || nent == 0 || 64 < nent || nslot == 0 || 256 < nslot || slotb == 0
          || slotb % 64 != 0 || entv % 16 != 0 || stash % 64 != 0 then (2, t)
      else match t.unitClean rid die (bitsOf n 127 64) 64 1 with
        | (.lack, u) => (2, u)
        | (.bad f, u) => bad u f
        | (.ok sb, u) =>
          let sets := (List.range 16).map fun i => ofBytes ((plain sb).drop (4 * i) |>.take 4)
          match u.unitClean rid die entv (16 * nent) 16 with
          | (.lack, w) => (2, w)
          | (.bad f, w) => bad w f
          | (.ok eb, w) =>
            let word (i : Nat) : Word := BitVec.ofNat 64 (ofBytes ((plain eb).drop (8 * i) |>.take 8))
            let entries := (List.range nent).map fun i => (word (2 * i), word (2 * i + 1))
            if sets.any setBad || entries.any (fun e => stageBad (s.realm rid).n nslot sets e.1) then (2, w)
            else
              let last := (stash + nslot * slotb - 1) / 4096
              match w.nearPages rid die ((List.range (last + 1 - stash / 4096)).map (stash / 4096 + ·)) with
              | (.error (some f), x) => bad x f
              | (.error none, x) => (2, x)
              | (.ok _, x) =>
                (0, x.modTrail dk fun y =>
                  { y with defined := true, loop := n.testBit 248, free0 := bitsOf n 247 240, free := bitsOf n 247 240, pf := 0,
                           nent := nent, nslot := nslot, slotb := slotb, stash := stash, entries := entries, sets := sets,
                           grad := [], occ := [], head := 0, started := [], posted := [] })

end State

/-- stgdef (R330). -/
def execStgdef (d a : BitVec 5) (s : State) : Res :=
  let va := (s.rx a).toNat
  if va % 64 ≠ 0 then .next (s.trapVal 4 0x3C va 1)
  else if !s.canRelease 3 then .next (s.awaitRelease 3 .stall)
  else
    let (st, t) := (s.release 3).defineTrail s.cur.rid (coreDie s.cur.core) va
    .next ((s.waitFor .stall).whole ((t.wx d (BitVec.ofNat 64 st)).retire 4))

/-! ### STGGO, STGSTOP, STGSTASH, STGBUB (R331, R333) -/

/-- stggo (R331): a Trail that the watchdog has stopped becomes RUNNING at the next RESUME (R390, log 75). -/
def execStggo (d a : BitVec 5) (s : State) : Res :=
  let h := (s.rx a).toNat
  let t := (s.dieSt s.dk).trail
  let put (u : State) (w : Word) : Res := .next ((u.wx d w).retire 4)
  if 64 ≤ h then .next (s.trapVal 4 0x3C h 1)
  else if t.running then put s 1#64
  else if !t.defined || t.nent ≤ h then put s 2#64
  else put (s.modTrail s.dk fun x =>
    { x with head := h, running := !x.stopped, again := x.stopped, fcount := 0, filled := [], evs := [0, 0, 0], cycs := [0, 0, 0], waits := [0, 0, 0],
             logn := 0, log := [] }) 0#64
/-- stgstop (R331). -/
def execStgstop (d : BitVec 5) (s : State) : Res :=
  let t := (s.dieSt s.dk).trail
  let u := s.modTrail s.dk fun x => { x with running := false }
  .next ((u.wx d (BitVec.ofNat 64 (t.head + t.open_.length * 2 ^ 6))).retire 4)
/-- stgstash (R333). -/
def execStgstash (d a : BitVec 5) (s : State) : Res :=
  let i := (s.rx a).toNat
  let t := (s.dieSt s.dk).trail
  if 256 ≤ i then .next (s.trapVal 4 0x3C i 1)
  else .next ((s.wx d (if i < t.nslot then BitVec.ofNat 64 (t.stash + t.slotb * i) else 0#64)).retire 4)
/-- The value that STGBUB reads (R333). -/
def TrailSt.bubVal (t : TrailSt) (i : Nat) : Nat :=
  if i ≤ 2 then t.evs[i]?.getD 0
  else if i ≤ 5 then t.cycs[i - 3]?.getD 0
  else if i = 6 then t.logn
  else if i = 7 then
    (if t.running then 1 else 0) + t.head * 2 + t.free % 256 * 2 ^ 7 + t.pf % 256 * 2 ^ 15 + t.occ.length * 2 ^ 23 + t.nent * 2 ^ 32
  else
    let r := t.log.get 0 ((i - 0x40) / 2)
    if i % 2 = 0 then r % 2 ^ 64 else r / 2 ^ 64
/-- stgbub (R333). -/
def execStgbub (d a : BitVec 5) (s : State) : Res :=
  let i := (s.rx a).toNat
  if 7 < i ∧ i < 0x40 ∨ 0xBF < i then .next (s.trapVal 4 0x3C i 1)
  else .next ((s.wx d (BitVec.ofNat 64 ((s.dieSt s.dk).trail.bubVal i))).retire 4)

/-! ### STGPOST (R332) -/

/-- The status that STGPOST reports for entry e of a Trail (R332). -/
def TrailSt.postStatus (t : TrailSt) (e : Nat) : Nat :=
  let w := (t.entries[e]?.getD (0#64, 0#64)).1
  if !t.started.contains e || 2 ≤ stPh w || (stPh w == 0 && stSink w) || (stPh w == 1 && stSrc w) then 1
  else if t.posted.contains e then 2
  else 0

/-- stgpost (R332). -/
def execStgpost (d a b c : BitVec 5) (s : State) : Res :=
  let e := (s.rx a).toNat
  let src := (s.rx b).toNat
  let dst := (s.rx c).toNat
  let off := bitsOf src 17 0
  let len := bitsOf src 24 18
  let t := (s.dieSt s.dk).trail
  let w := (t.entries[e]?.getD (0#64, 0#64)).1
  .next (s.checked [resval (64 ≤ e) 0x3C e 1,
      resval (2 ^ 25 ≤ src || 64 < len || off % 64 != 0 || 0x30000 < off + 64 * len) 0x3C src 2,
      resval (2 ^ 18 ≤ dst || dst % 64 != 0 || 0x30000 < dst + 64 * len) 0x3C dst 3]
    (if t.postStatus e ≠ 0 then (s.wx d (BitVec.ofNat 64 (t.postStatus e))).retire 4
    else
      let die := coreDie s.cur.core
      let rdie := if stPh w = 0 then stSucc w else stPred w
      let scope := (s.relScope (some (if rdie = die then 3 else 4))).getD 0
      if !s.canRelease scope then s.awaitRelease scope .stall
      else if !s.outRoom (64 * len) then s.waitFor .stall
      else
        let u := (s.modTrail s.dk fun x =>
          { x with posted := e :: x.posted, free := if stPh w = 0 then x.free - 1 else x.free,
                   pf := if stPh w = 0 then x.pf - 1 else x.pf }).release scope
        let m : Msg :=
          { rid := u.cur.rid, sdev := u.fabid, score := u.cur.core, h1 := mkH1 true false u.cur.rid u.fabid u.cur.core dst,
            payload := u.rdLm u.cur.rid u.cur.core off (64 * len),
            marks := (List.range (8 * len)).filter fun i => u.poisoned (lmAddr u.cur.rid u.cur.core (off + 8 * i)) 8,
            post := some (rdie, stPh w, stMb w, die) }
        ((u.sendOut m).wx d 0#64).retire 4))

end Sys2Proof.Machine
end

