-- ==== Sys2Proof/Machine/Vec.lean ====
section
/-! DEFINITION. Vector element arithmetic, compares, predicates, reductions and conversions (13_isa_vector.md, R265, R270, R274
to R279, R282). Sources are read at issue; an inactive element of the destination keeps its value. -/

namespace Sys2Proof.Machine

namespace State

/-- A special-function result of the task is still to be written to one of these registers: what uses it waits (R270). -/
def sfuTouches (s : State) (regs : List Nat) : Bool :=
  (s.octetSt s.octk).sfu.any fun r => r.core == s.cur.core && r.frame == s.me.frame && !r.dead && regs.contains r.reg

/-- A vector form: it needs a claim, and waits for special-function results in the registers it names (R270, R282). -/
def vform (s : State) (maj : Nat) (regs : List Nat) (k : State) : State :=
  if s.vlen = 0 then s.trap 4 { code := 3, detail := maj }
  else if s.sfuTouches regs then s.waitFor .stall
  else k

/-- Element j is active: j < L and bit j of p[p] is 1 (R265). -/
def activeAt (s : State) (p : BitVec 3) (j : Nat) : Bool := j < s.vlen && (s.rp p.toNat).getLsbD j
/-- The active elements, ascending. -/
def active (s : State) (p : BitVec 3) : List Nat := (List.range s.vlen).filter fun j => s.activeAt p j

/-- Write f j to element j of v[d] for each listed j, with f read from the old state, and OR its flags, after the 4 cycles of VFP and VCVT
(R112, R270). -/
def putV (s : State) (d : BitVec 5) (js : List Nat) (f : Nat → Word32 × Flags) : State :=
  (js.foldl (fun t j => t.wvAt s.fk d.toNat j (f j).1) s).orFlags (js.foldl (fun fl j => fl ||| (f j).2) 0#5) 4
/-- The same without flags. -/
def putVi (s : State) (d : BitVec 5) (js : List Nat) (f : Nat → Word32) : State :=
  js.foldl (fun t j => t.wvAt s.fk d.toNat j (f j)) s

end State

/-! ### Sub-elements (R101, R102) -/

/-- Width of a sub-element by width class (R274). -/
def subWidth (w : BitVec 2) : Nat := 32 / 2 ^ w.toNat
/-- Sub-element i of width n. -/
def subAt (n i : Nat) (w : Word32) : Nat := (w.toNat >>> (n * i)) % 2 ^ n
/-- A lane element from its sub-elements of width n. -/
def packSubs (n : Nat) : List Nat → Nat
  | [] => 0
  | v :: vs => v % 2 ^ n + 2 ^ n * packSubs n vs
/-- A lane element whose sub-element i is f i. -/
def subElems (n : Nat) (f : Nat → Nat) : Word32 := BitVec.ofNat 32 (packSubs n ((List.range (32 / n)).map f))
/-- A value of n bits read as two's complement. -/
def signedOf (n v : Nat) : Int := if 2 ^ (n - 1) ≤ v then (v : Int) - 2 ^ n else v
/-- The low n bits of an integer. -/
def lowBits (n : Nat) (v : Int) : Nat := (v % (2 ^ n : Nat)).toNat

/-! ### VINT (R274) -/

/-- A VINT form by sub-elements: op gets the width, and the sub-elements of d, a and b; it sets no flag. -/
def vint (op : Nat → Nat → Nat → Nat → Nat) (d a b : BitVec 5) (w : BitVec 2) (p : BitVec 3) (s : State) : Res :=
  let n := subWidth w
  .next (s.vform 0x2A [d.toNat, a.toNat, b.toNat] ((s.putVi d (s.active p) fun j =>
    subElems n fun i => op n (subAt n i (s.rv d.toNat j)) (subAt n i (s.rv a.toNat j)) (subAt n i (s.rv b.toNat j))).retire 4))
/-- vdot and vdotz: d + Σ a_i × b_i, wrapping at 32 bits. -/
def vdotWith (signed : Bool) (d a b : BitVec 5) (w : BitVec 2) (p : BitVec 3) (s : State) : Res :=
  let n := subWidth w
  let val (v : Nat) : Int := if signed then signedOf n v else v
  .next (s.vform 0x2A [d.toNat, a.toNat, b.toNat] ((s.putVi d (s.active p) fun j =>
    let x := s.rv a.toNat j
    let y := s.rv b.toNat j
    BitVec.ofInt 32 (((List.range (32 / n)).map fun i => val (subAt n i x) * val (subAt n i y)).sum
      + (s.rv d.toNat j).toNat)).retire 4))

/-- vadd: wrapping sum (R274). -/
def execVadd (d a b : BitVec 5) (w : BitVec 2) (p : BitVec 3) (s : State) : Res :=
  vint (fun n _ x y => (x + y) % 2 ^ n) d a b w p s
/-- vsub: wrapping difference (R274). -/
def execVsub (d a b : BitVec 5) (w : BitVec 2) (p : BitVec 3) (s : State) : Res :=
  vint (fun n _ x y => (x + 2 ^ n - y) % 2 ^ n) d a b w p s
/-- vmul: low half of the product (R274). -/
def execVmul (d a b : BitVec 5) (w : BitVec 2) (p : BitVec 3) (s : State) : Res :=
  vint (fun n _ x y => x * y % 2 ^ n) d a b w p s
/-- vmulh: high half of the signed product (R274). -/
def execVmulh (d a b : BitVec 5) (w : BitVec 2) (p : BitVec 3) (s : State) : Res :=
  vint (fun n _ x y => lowBits n (signedOf n x * signedOf n y / (2 ^ n : Nat))) d a b w p s
/-- vmulhz: high half of the unsigned product (R274). -/
def execVmulhz (d a b : BitVec 5) (w : BitVec 2) (p : BitVec 3) (s : State) : Res :=
  vint (fun n _ x y => x * y / 2 ^ n) d a b w p s
/-- vand: and (R274). -/
def execVand (d a b : BitVec 5) (w : BitVec 2) (p : BitVec 3) (s : State) : Res :=
  vint (fun _ _ x y => x &&& y) d a b w p s
/-- vor: or (R274). -/
def execVor (d a b : BitVec 5) (w : BitVec 2) (p : BitVec 3) (s : State) : Res :=
  vint (fun _ _ x y => x ||| y) d a b w p s
/-- vxor: exclusive or (R274). -/
def execVxor (d a b : BitVec 5) (w : BitVec 2) (p : BitVec 3) (s : State) : Res :=
  vint (fun _ _ x y => x ^^^ y) d a b w p s
/-- vandn: and with the complement (R274). -/
def execVandn (d a b : BitVec 5) (w : BitVec 2) (p : BitVec 3) (s : State) : Res :=
  vint (fun n _ x y => x &&& (2 ^ n - 1 - y)) d a b w p s
/-- vsll: left shift by b mod n (R118) (R274). -/
def execVsll (d a b : BitVec 5) (w : BitVec 2) (p : BitVec 3) (s : State) : Res :=
  vint (fun n _ x y => x * 2 ^ (y % n) % 2 ^ n) d a b w p s
/-- vsrl: logical right shift by b mod n (R118) (R274). -/
def execVsrl (d a b : BitVec 5) (w : BitVec 2) (p : BitVec 3) (s : State) : Res :=
  vint (fun n _ x y => x / 2 ^ (y % n)) d a b w p s
/-- vsra: arithmetic right shift by b mod n (R118) (R274). -/
def execVsra (d a b : BitVec 5) (w : BitVec 2) (p : BitVec 3) (s : State) : Res :=
  vint (fun n _ x y => lowBits n (signedOf n x / (2 ^ (y % n) : Nat))) d a b w p s
/-- vmin: signed lesser (R274). -/
def execVmin (d a b : BitVec 5) (w : BitVec 2) (p : BitVec 3) (s : State) : Res :=
  vint (fun n _ x y => if signedOf n y < signedOf n x then y else x) d a b w p s
/-- vmax: signed greater (R274). -/
def execVmax (d a b : BitVec 5) (w : BitVec 2) (p : BitVec 3) (s : State) : Res :=
  vint (fun n _ x y => if signedOf n x < signedOf n y then y else x) d a b w p s
/-- vminz: unsigned lesser (R274). -/
def execVminz (d a b : BitVec 5) (w : BitVec 2) (p : BitVec 3) (s : State) : Res :=
  vint (fun _ _ x y => if y < x then y else x) d a b w p s
/-- vmaxz: unsigned greater (R274). -/
def execVmaxz (d a b : BitVec 5) (w : BitVec 2) (p : BitVec 3) (s : State) : Res :=
  vint (fun _ _ x y => if x < y then y else x) d a b w p s
/-- vaddSat: signed sum, clamped (R274). -/
def execVaddSat (d a b : BitVec 5) (w : BitVec 2) (p : BitVec 3) (s : State) : Res :=
  vint (fun n _ x y => lowBits n (IntTy.clamp ⟨true, n⟩ (signedOf n x + signedOf n y))) d a b w p s
/-- vaddzSat: unsigned sum, clamped (R274). -/
def execVaddzSat (d a b : BitVec 5) (w : BitVec 2) (p : BitVec 3) (s : State) : Res :=
  vint (fun n _ x y => lowBits n (IntTy.clamp ⟨false, n⟩ ((x : Int) + y))) d a b w p s
/-- vsubSat: signed difference, clamped (R274). -/
def execVsubSat (d a b : BitVec 5) (w : BitVec 2) (p : BitVec 3) (s : State) : Res :=
  vint (fun n _ x y => lowBits n (IntTy.clamp ⟨true, n⟩ (signedOf n x - signedOf n y))) d a b w p s
/-- vsubzSat: unsigned difference, clamped (R274). -/
def execVsubzSat (d a b : BitVec 5) (w : BitVec 2) (p : BitVec 3) (s : State) : Res :=
  vint (fun n _ x y => lowBits n (IntTy.clamp ⟨false, n⟩ ((x : Int) - y))) d a b w p s
/-- vmac: d + a × b, low n bits (R274). -/
def execVmac (d a b : BitVec 5) (w : BitVec 2) (p : BitVec 3) (s : State) : Res :=
  vint (fun n z x y => (z + x * y) % 2 ^ n) d a b w p s
/-- vdot (R274). -/
def execVdot (d a b : BitVec 5) (w : BitVec 2) (p : BitVec 3) (s : State) : Res := vdotWith true d a b w p s
/-- vdotz (R274). -/
def execVdotz (d a b : BitVec 5) (w : BitVec 2) (p : BitVec 3) (s : State) : Res := vdotWith false d a b w p s
/-- vsel: every element, a where the predicate bit is 1, else b (R274). -/
def execVsel (d a b : BitVec 5) (_w : BitVec 2) (p : BitVec 3) (s : State) : Res :=
  .next (s.vform 0x2A [d.toNat, a.toNat, b.toNat] ((s.putVi d (List.range s.vlen) fun j =>
    if (s.rp p.toNat).getLsbD j then s.rv a.toNat j else s.rv b.toNat j).retire 4))

/-! ### VFP (R275) -/

/-- The element format of a type code (R275). -/
def vfpFmt (t : BitVec 2) : Fmt :=
  match t.toNat with
  | 0 => .f32 | 1 => .bf16 | _ => .f16
/-- A VFP form: every sub-element rounded in its own format, flags of the active ones ORed (R112, R275). -/
def vfp (op : Fmt → Nat → Nat → Nat → Nat × Flags) (d a b : BitVec 5) (t : BitVec 2) (p : BitVec 3) (s : State) : Res :=
  let f := vfpFmt t
  let n := f.width
  .next (s.vform 0x2B [d.toNat, a.toNat, b.toNat] ((s.putV d (s.active p) fun j =>
    let rs := (List.range (32 / n)).map fun i =>
      op f (subAt n i (s.rv d.toNat j)) (subAt n i (s.rv a.toNat j)) (subAt n i (s.rv b.toNat j))
    (BitVec.ofNat 32 (packSubs n (rs.map (·.1))), rs.foldl (fun fl r => fl ||| r.2) 0#5)).retire 4))

/-- vfadd (R275). -/
def execVfadd (d a b : BitVec 5) (t : BitVec 2) (p : BitVec 3) (s : State) : Res :=
  vfp (fun f _ x y => fAdd f (s.rnd 7) x y) d a b t p s
/-- vfsub (R275). -/
def execVfsub (d a b : BitVec 5) (t : BitVec 2) (p : BitVec 3) (s : State) : Res :=
  vfp (fun f _ x y => fSub f (s.rnd 7) x y) d a b t p s
/-- vfmul (R275). -/
def execVfmul (d a b : BitVec 5) (t : BitVec 2) (p : BitVec 3) (s : State) : Res :=
  vfp (fun f _ x y => fMul f (s.rnd 7) x y) d a b t p s
/-- vfma (R275). -/
def execVfma (d a b : BitVec 5) (t : BitVec 2) (p : BitVec 3) (s : State) : Res :=
  vfp (fun f z x y => fFma f (s.rnd 7) false false x y z) d a b t p s
/-- vfnma (R275). -/
def execVfnma (d a b : BitVec 5) (t : BitVec 2) (p : BitVec 3) (s : State) : Res :=
  vfp (fun f z x y => fFma f (s.rnd 7) true false x y z) d a b t p s
/-- vfmin (R275). -/
def execVfmin (d a b : BitVec 5) (t : BitVec 2) (p : BitVec 3) (s : State) : Res :=
  vfp (fun f _ x y => fMinMax f false x y) d a b t p s
/-- vfmax (R275). -/
def execVfmax (d a b : BitVec 5) (t : BitVec 2) (p : BitVec 3) (s : State) : Res :=
  vfp (fun f _ x y => fMinMax f true x y) d a b t p s
/-- vfcpsgn (R275). -/
def execVfcpsgn (d a b : BitVec 5) (t : BitVec 2) (p : BitVec 3) (s : State) : Res :=
  vfp (fun f _ x y => (fSignOf f (y.testBit (f.width - 1)) x, 0#5)) d a b t p s

/-! ### VPRED (R276) -/

/-- A predicate word whose bit j is f j for j below n. -/
def bitWord (n : Nat) (f : Nat → Bool) : Word :=
  BitVec.ofNat 64 (((List.range n).map fun j => if f j then 2 ^ j else 0).sum)
/-- A compare: bit j of p[d] is the condition for active elements, 0 for the others; flags of the active ones (R276). -/
def vcompare (op : Word32 → Word32 → Bool × Flags) (d : BitVec 3) (a b : BitVec 5) (p : BitVec 3) (s : State) : Res :=
  let r (j : Nat) : Bool × Flags := op (s.rv a.toNat j) (s.rv b.toNat j)
  .next (s.vform 0x30 [a.toNat, b.toNat]
    (((s.wp d.toNat (bitWord s.vlen fun j => s.activeAt p j && (r j).1)).orFlags
      ((s.active p).foldl (fun fl j => fl ||| (r j).2) 0#5) 2).retire 4))
/-- L of a predicate form: the claim's width, 64 without one (R276). -/
def State.predLen (s : State) : Nat := if s.vlen = 0 then 64 else s.vlen
/-- A predicate form: p[d] ← the low L bits of v, zeros above (R265, R276). -/
def predPut (d : BitVec 3) (v : Word) (s : State) : Res :=
  .next ((s.wp d.toNat (BitVec.ofNat 64 (v.toNat % 2 ^ s.predLen))).retire 4)

/-- vcmpeq (R276). -/
def execVcmpeq (d : BitVec 3) (a b : BitVec 5) (p : BitVec 3) (s : State) : Res :=
  vcompare (fun x y => (x == y, 0#5)) d a b p s
/-- vcmpne (R276). -/
def execVcmpne (d : BitVec 3) (a b : BitVec 5) (p : BitVec 3) (s : State) : Res :=
  vcompare (fun x y => (x != y, 0#5)) d a b p s
/-- vcmplt (R276). -/
def execVcmplt (d : BitVec 3) (a b : BitVec 5) (p : BitVec 3) (s : State) : Res :=
  vcompare (fun x y => (decide (sval x < sval y), 0#5)) d a b p s
/-- vcmple (R276). -/
def execVcmple (d : BitVec 3) (a b : BitVec 5) (p : BitVec 3) (s : State) : Res :=
  vcompare (fun x y => (decide (sval x ≤ sval y), 0#5)) d a b p s
/-- vcmpltz (R276). -/
def execVcmpltz (d : BitVec 3) (a b : BitVec 5) (p : BitVec 3) (s : State) : Res :=
  vcompare (fun x y => (decide (x.toNat < y.toNat), 0#5)) d a b p s
/-- vcmplez (R276). -/
def execVcmplez (d : BitVec 3) (a b : BitVec 5) (p : BitVec 3) (s : State) : Res :=
  vcompare (fun x y => (decide (x.toNat ≤ y.toNat), 0#5)) d a b p s
/-- vfcmpeq (R276). -/
def execVfcmpeq (d : BitVec 3) (a b : BitVec 5) (p : BitVec 3) (s : State) : Res :=
  vcompare (fun x y => fEq .f32 x.toNat y.toNat) d a b p s
/-- vfcmplt (R276). -/
def execVfcmplt (d : BitVec 3) (a b : BitVec 5) (p : BitVec 3) (s : State) : Res :=
  vcompare (fun x y => fCmp .f32 false x.toNat y.toNat) d a b p s
/-- vfcmple (R276). -/
def execVfcmple (d : BitVec 3) (a b : BitVec 5) (p : BitVec 3) (s : State) : Res :=
  vcompare (fun x y => fCmp .f32 true x.toNat y.toNat) d a b p s
/-- vfcmpun (R276). -/
def execVfcmpun (d : BitVec 3) (a b : BitVec 5) (p : BitVec 3) (s : State) : Res :=
  vcompare (fun x y => fUnordered .f32 x.toNat y.toNat) d a b p s
/-- pand (R276). -/
def execPand (d a b : BitVec 3) (s : State) : Res := predPut d (s.rp a.toNat &&& s.rp b.toNat) s
/-- por (R276). -/
def execPor (d a b : BitVec 3) (s : State) : Res := predPut d (s.rp a.toNat ||| s.rp b.toNat) s
/-- pxor (R276). -/
def execPxor (d a b : BitVec 3) (s : State) : Res := predPut d (s.rp a.toNat ^^^ s.rp b.toNat) s
/-- pandn (R276). -/
def execPandn (d a b : BitVec 3) (s : State) : Res := predPut d (s.rp a.toNat &&& ~~~s.rp b.toNat) s
/-- pnot (R276). -/
def execPnot (d a : BitVec 3) (s : State) : Res := predPut d (~~~s.rp a.toNat) s
/-- pwhile: bit j is 1 if j < x[a], unsigned (R276). -/
def execPwhile (d : BitVec 3) (a : BitVec 5) (s : State) : Res := predPut d (bitWord 64 fun j => j < (s.rx a).toNat) s
/-- pcnt: the ones of p[a][L−1:0] (R276). -/
def execPcnt (d : BitVec 5) (a : BitVec 3) (s : State) : Res :=
  let n := ((List.range s.predLen).filter fun j => (s.rp a.toNat).getLsbD j).length
  .next ((s.wx d (BitVec.ofNat 64 n)).retire 4)

/-! ### VRED (R125, R278) -/

/-- The elements of v[a], with the identity where inactive. -/
def redElems (ident : Word32) (a : BitVec 5) (p : BitVec 3) (s : State) : List Word32 :=
  (List.range s.vlen).map fun j => if s.activeAt p j then s.rv a.toNat j else ident
/-- An integer reduction into x[d], sign- or zero-extended from 32 bits. -/
def vredInt (op : Word32 → Word32 → Word32) (ident : Word32) (signed : Bool) (d a : BitVec 5) (p : BitVec 3) (s : State) : Res :=
  let r := (redElems ident a p s).foldl op ident
  .next (s.vform 0x2D [a.toNat] ((s.wx d (if signed then r.signExtend 64 else r.zeroExtend 64)).retire 4))
/-- A floating-point reduction into f[d] by the tree of R125, with the flags of every step. -/
def vredFp (op : Nat → Nat → Nat × Flags) (ident : Word32) (d a : BitVec 5) (p : BitVec 3) (s : State) : Res :=
  .next (s.vform 0x2D [a.toNat]
    ((s.putF (4 + 2 * Nat.log2 s.vlen) d (treeReduce op (Nat.log2 s.vlen) ((redElems ident a p s).map (·.toNat)))).retire 4))

/-- vredadd (R278). -/
def execVredadd (d a : BitVec 5) (p : BitVec 3) (s : State) : Res := vredInt (fun x y => x + y) 0#32 true d a p s
/-- vredmin (R278). -/
def execVredmin (d a : BitVec 5) (p : BitVec 3) (s : State) : Res := vredInt (fun x y => if sval y < sval x then y else x) 0x7FFFFFFF#32 true d a p s
/-- vredmax (R278). -/
def execVredmax (d a : BitVec 5) (p : BitVec 3) (s : State) : Res := vredInt (fun x y => if sval x < sval y then y else x) 0x80000000#32 true d a p s
/-- vredminz (R278). -/
def execVredminz (d a : BitVec 5) (p : BitVec 3) (s : State) : Res := vredInt (fun x y => if y.toNat < x.toNat then y else x) 0xFFFFFFFF#32 false d a p s
/-- vredmaxz (R278). -/
def execVredmaxz (d a : BitVec 5) (p : BitVec 3) (s : State) : Res := vredInt (fun x y => if x.toNat < y.toNat then y else x) 0#32 false d a p s
/-- vredand (R278). -/
def execVredand (d a : BitVec 5) (p : BitVec 3) (s : State) : Res := vredInt (fun x y => x &&& y) 0xFFFFFFFF#32 false d a p s
/-- vredor (R278). -/
def execVredor (d a : BitVec 5) (p : BitVec 3) (s : State) : Res := vredInt (fun x y => x ||| y) 0#32 false d a p s
/-- vredxor (R278). -/
def execVredxor (d a : BitVec 5) (p : BitVec 3) (s : State) : Res := vredInt (fun x y => x ^^^ y) 0#32 false d a p s
/-- vfredadd (R125, R278). -/
def execVfredadd (d a : BitVec 5) (p : BitVec 3) (s : State) : Res := vredFp (fAdd .f32 .rne) 0#32 d a p s
/-- vfredmin (R125, R278). -/
def execVfredmin (d a : BitVec 5) (p : BitVec 3) (s : State) : Res := vredFp (fMinMax .f32 false) 0x7FC00000#32 d a p s
/-- vfredmax (R125, R278). -/
def execVfredmax (d a : BitVec 5) (p : BitVec 3) (s : State) : Res := vredFp (fMinMax .f32 true) 0x7FC00000#32 d a p s

/-! ### VCVT (R279) -/

/-- The k registers from v[a] on. -/
def groupRegs (a : BitVec 5) (k : Nat) : List Nat := (List.range k).map fun i => a.toNat + i
/-- A narrowing of group size k: sub-element i of v[d][j] from v[a + i][j]; `op` gets the element and the source's position
k × j + i. -/
def vnarrow (k : Nat) (op : Nat → Nat → Nat × Flags) (d a : BitVec 5) (s : State) : Res :=
  .next (s.vform 0x2E (d.toNat :: groupRegs a k) ((s.putV d (List.range s.vlen) fun j =>
    let rs := (List.range k).map fun i => op (s.rv (a.toNat + i) j).toNat (k * j + i)
    (BitVec.ofNat 32 (packSubs (32 / k) (rs.map (·.1))), rs.foldl (fun fl r => fl ||| r.2) 0#5)).retire 4))
/-- A widening of group size k: sub-element i of v[a][j] to v[d + i][j]; every source is read first. -/
def vwiden (k : Nat) (op : Nat → Nat × Flags) (d a : BitVec 5) (s : State) : Res :=
  let r (i j : Nat) : Nat × Flags := op (subAt (32 / k) i (s.rv a.toNat j))
  let put (t : State) (i : Nat) : State :=
    (List.range s.vlen).foldl (fun u j => u.wvAt s.fk (d.toNat + i) j (BitVec.ofNat 32 (r i j).1)) t
  let fl := (List.range k).foldl (fun x i => (List.range s.vlen).foldl (fun y j => y ||| (r i j).2) x) 0#5
  .next (s.vform 0x2E (a.toNat :: groupRegs d k) ((((List.range k).foldl put s).orFlags fl 4).retire 4))
/-- The rounding of a float narrowing: stochastic under code 4, with SRSEED and the index (x[b] + position) mod 2^32. -/
def narrowRnd (s : State) (b : BitVec 5) (r : BitVec 3) (pos : Nat) : Rnd :=
  srRnd s r.toNat (s.coreSt s.ck).srseed ((s.rx b).truncate 32 + BitVec.ofNat 32 pos)
/-- A float narrowing (R113 to R115, R279). -/
def vcvtNarrow (f : Fmt) (d a b : BitVec 5) (st : BitVec 1) (r : BitVec 3) (s : State) : Res :=
  vnarrow (32 / f.width) (fun v pos => fConv .f32 f (narrowRnd s b r pos) (st == 1#1) v) d a s
/-- A float widening: exact (R279). -/
def vcvtWiden (f : Fmt) (d a : BitVec 5) (s : State) : Res :=
  vwiden (32 / f.width) (fun v => fConv f .f32 .rne false v) d a s
/-- An integer narrowing to n bits (R117, R279). -/
def vcvtInt (signed : Bool) (n : Nat) (st : BitVec 1) (d a : BitVec 5) (s : State) : Res :=
  let val (v : Nat) : Int := if signed then signedOf 32 v else v
  vnarrow (32 / n) (fun v _ => (lowBits n (if st == 1#1 then IntTy.clamp ⟨signed, n⟩ (val v) else val v), 0#5)) d a s
/-- An integer widening from n bits (R102, R279). -/
def vcvtExt (signed : Bool) (n : Nat) (d a : BitVec 5) (s : State) : Res :=
  vwiden (32 / n) (fun v => (if signed then lowBits 32 (signedOf n v) else v, 0#5)) d a s

/-- vcvtF32Bf16 (R279). -/
def execVcvtF32Bf16 (d a b : BitVec 5) (st : BitVec 1) (r : BitVec 3) (s : State) : Res := vcvtNarrow .bf16 d a b st r s
/-- vcvtF32F16 (R279). -/
def execVcvtF32F16 (d a b : BitVec 5) (st : BitVec 1) (r : BitVec 3) (s : State) : Res := vcvtNarrow .f16 d a b st r s
/-- vcvtF32E4m3 (R279). -/
def execVcvtF32E4m3 (d a b : BitVec 5) (st : BitVec 1) (r : BitVec 3) (s : State) : Res := vcvtNarrow .e4m3 d a b st r s
/-- vcvtF32E5m2 (R279). -/
def execVcvtF32E5m2 (d a b : BitVec 5) (st : BitVec 1) (r : BitVec 3) (s : State) : Res := vcvtNarrow .e5m2 d a b st r s
/-- vcvtF32E2m1 (R279). -/
def execVcvtF32E2m1 (d a b : BitVec 5) (st : BitVec 1) (r : BitVec 3) (s : State) : Res := vcvtNarrow .e2m1 d a b st r s
/-- vcvtBf16F32 (R279). -/
def execVcvtBf16F32 (d a : BitVec 5) (s : State) : Res := vcvtWiden .bf16 d a s
/-- vcvtF16F32 (R279). -/
def execVcvtF16F32 (d a : BitVec 5) (s : State) : Res := vcvtWiden .f16 d a s
/-- vcvtE4m3F32 (R279). -/
def execVcvtE4m3F32 (d a : BitVec 5) (s : State) : Res := vcvtWiden .e4m3 d a s
/-- vcvtE5m2F32 (R279). -/
def execVcvtE5m2F32 (d a : BitVec 5) (s : State) : Res := vcvtWiden .e5m2 d a s
/-- vcvtE2m1F32 (R279). -/
def execVcvtE2m1F32 (d a : BitVec 5) (s : State) : Res := vcvtWiden .e2m1 d a s
/-- vcvtS32F32: integers to FP32 (R116, R279). -/
def execVcvtS32F32 (d a : BitVec 5) (r : BitVec 3) (s : State) : Res :=
  vnarrow 1 (fun v _ => fOfInt .f32 (s.rnd r.toNat) (signedOf 32 v)) d a s
/-- vcvtZ32F32: integers to FP32 (R116, R279). -/
def execVcvtZ32F32 (d a : BitVec 5) (r : BitVec 3) (s : State) : Res :=
  vnarrow 1 (fun v _ => fOfInt .f32 (s.rnd r.toNat) ((v : Int))) d a s
/-- vcvtF32S32: FP32 to integers (R116, R279). -/
def execVcvtF32S32 (d a : BitVec 5) (r : BitVec 3) (s : State) : Res :=
  vnarrow 1 (fun v _ => let c := fToInt .f32 ⟨true, 32⟩ (s.rnd r.toNat) v; (lowBits 32 c.1, c.2)) d a s
/-- vcvtF32Z32: FP32 to integers (R116, R279). -/
def execVcvtF32Z32 (d a : BitVec 5) (r : BitVec 3) (s : State) : Res :=
  vnarrow 1 (fun v _ => let c := fToInt .f32 ⟨false, 32⟩ (s.rnd r.toNat) v; (lowBits 32 c.1, c.2)) d a s
/-- vcvtS32S16x2 (R279). -/
def execVcvtS32S16x2 (d a : BitVec 5) (st : BitVec 1) (s : State) : Res := vcvtInt true 16 st d a s
/-- vcvtZ32Z16x2 (R279). -/
def execVcvtZ32Z16x2 (d a : BitVec 5) (st : BitVec 1) (s : State) : Res := vcvtInt false 16 st d a s
/-- vcvtS32S8x4 (R279). -/
def execVcvtS32S8x4 (d a : BitVec 5) (st : BitVec 1) (s : State) : Res := vcvtInt true 8 st d a s
/-- vcvtZ32Z8x4 (R279). -/
def execVcvtZ32Z8x4 (d a : BitVec 5) (st : BitVec 1) (s : State) : Res := vcvtInt false 8 st d a s
/-- vcvtS16x2S32 (R279). -/
def execVcvtS16x2S32 (d a : BitVec 5) (s : State) : Res := vcvtExt true 16 d a s
/-- vcvtZ16x2Z32 (R279). -/
def execVcvtZ16x2Z32 (d a : BitVec 5) (s : State) : Res := vcvtExt false 16 d a s
/-- vcvtS8x4S32 (R279). -/
def execVcvtS8x4S32 (d a : BitVec 5) (s : State) : Res := vcvtExt true 8 d a s
/-- vcvtZ8x4Z32 (R279). -/
def execVcvtZ8x4Z32 (d a : BitVec 5) (s : State) : Res := vcvtExt false 8 d a s

end Sys2Proof.Machine
end

