-- ==== Sys2Proof/Machine/VecMem.lean ====
section
/-! DEFINITION. Lane claims, vector memory and permutes (13_isa_vector.md, R265 to R273, R277, R282). -/

namespace Sys2Proof.Machine

/-! ### Claims (R266 to R269) -/

/-- The widths a claim may ask for (R266). -/
def widthOk (w : Nat) : Bool := w == 8 || w == 16 || w == 32 || w == 64

namespace State

/-- VREL's steps: outstanding vector memory is performed, and the width returns to F (R269). The caller has made sure that
every special-function result is written. -/
def relClaim (s : State) : State :=
  (s.flushVops s.cur.rid s.cur.core s.me.frame).dropClaim s.cur.rid s.cur.core s.me.frame

end State

/-- vclaim: releases a claim held, then is granted at once or waits in the octet's queue, at a safe point (R267). -/
def execVclaim (d a : BitVec 5) (s : State) : Res :=
  let w := (s.rx a).toNat
  match s.me.wait with
  | .granted g => .next ((s.wx d (BitVec.ofNat 64 g)).retireSafe 4)
  | .claim w => .next (s.waitSafe (.claim w))
  | _ =>
    if !widthOk w then .next (s.trapVal 4 0x28 w 1)
    else if !s.safeReady then .next (s.waitFor .stall)
    else
      let t := s.relClaim
      let free := t.freeWidth t.cur.rid t.cur.core
      if (t.octetSt t.octk).claims.isEmpty && 8 ≤ free then
        let g := State.grantWidth w free
        .next (((t.grantClaim t.cur.rid t.cur.core t.me.frame g).wx d (BitVec.ofNat 64 g)).retireSafe 4)
      else
        let req : ClaimReq := { core := t.cur.core, frame := t.me.frame, width := w }
        .next ((t.modOctet t.octk fun o => { o with claims := o.claims ++ [req] }).waitSafe (.claim w))
/-- vclaim.try: granted only if the queue is empty and F, the task's own width included, is at least 8; else x[d] ← 0 and
nothing changes (R267). -/
def execVclaimTry (d a : BitVec 5) (s : State) : Res :=
  let w := (s.rx a).toNat
  if !widthOk w then .next (s.trapVal 4 0x28 w 1)
  else
    let free := s.freeWidth s.cur.rid s.cur.core + s.vlen
    if (s.octetSt s.octk).claims.isEmpty && 8 ≤ free then
      if !s.safeReady then .next (s.waitFor .stall)
      else
        let t := s.relClaim
        let g := State.grantWidth w free
        .next (((t.grantClaim t.cur.rid t.cur.core t.me.frame g).wx d (BitVec.ofNat 64 g)).retire 4)
    else .next ((s.wx d 0#64).retire 4)
/-- vrel: no effect without a claim (R269). -/
def execVrel (s : State) : Res :=
  if s.vlen = 0 then .next (s.retire 4)
  else if !s.safeReady then .next (s.waitFor .stall)
  else .next (s.relClaim.retire 4)
/-- vwaitm n: the oldest vector memory instructions are performed until at most n are outstanding (R273). -/
def execVwaitm (b : BitVec 5) (s : State) : Res :=
  let n := b.toNat
  if s.myFrame.vops.length ≤ n then .next (s.retire 4)
  else
    let t := s.flushSome s.cur.rid s.cur.core s.me.frame (s.myFrame.vops.length - n)
    if t.myFrame.vops.length ≤ n then .next (t.retire 4) else .next (t.waitFor .stall)

/-! ### Vector memory (R271 to R273) -/

namespace State

/-- Resolve the elements in order (R282: the lowest active element that fails is reported): their locations with the pages'
A and D set, or the state in which the instruction waits or has trapped. `s0` is the state at issue (log 27, log 28). -/
def resolveElems (s0 : State) (write : Bool) : State → List VElem → List VElem → Except State (State × List VElem)
  | t, [], acc => .ok (t, acc.reverse)
  | t, e :: rest, acc =>
    let walk (va : Nat) : State :=
      (s0.startWalk s0.cur.rid s0.cur.core va (if write then 2 else 1)).waitFor (.walk (va / 4096))
    match t.checkVa t.cur.rid t.clk e.va 4 0x29 write with
    | .bad f => .error (s0.trap 4 f)
    | .miss =>
      match s0.me.wait with
      | .walkFault page code detail info =>
        if page = e.va / 4096 then
          .error (s0.trap 4 { code := code, detail := if code = 0x15 ∧ write then 1 else detail, addr := e.va, info := info })
        else .error (walk e.va)
      | _ => .error (walk e.va)
    | .ok l =>
      let bad := match l with
        | .far .. => false
        | .lm .. => t.poisoned (locAddr t.cur.rid l) 4
        | .dev .. => t.weakPoison t.cur.rid t.cur.core l 4
      if !write && bad then .error (s0.trapPoison 4 e.va l)
      else
        let u := match l with
          | .lm .. => t
          | _ => match t.tlbFind t.clk e.va with
            | some x => t.tlbUse t.cur.rid t.clk x e.va write
            | none => t
        resolveElems s0 write u rest ({ e with loc := some l } :: acc)

/-- An element that loads another device's memory, at issue: it is performed where the core's own stores or the cluster cache hold its
bytes, else its line is asked for (R68, R70, R272). Beside the state, the lines that the instruction has requested (R73) and the
elements that wait. -/
def postElem (p : List Loc × List VElem × State) (e : VElem) : List Loc × List VElem × State :=
  let (sent, left, s) := p
  match e.loc with
  | some l =>
    match s.farHeld s.cur.rid s.cur.core l 4 with
    | (some bs, t) => (sent, left, t.wvAt t.fk e.reg e.j (BitVec.ofNat 32 (ofBytes bs)))
    | (none, t) =>
      let (sent, t) := t.countLine t.dk l sent
      let id := (t.coreSt t.ck).outNext
      let r : FarReq := { rid := s.cur.rid, core := s.cur.core, id := id, loc := l, va := e.va, size := 4, op := .load,
                          vel := some (e.reg, e.j), frame := s.me.frame, line := true, fwd := t.farOwn t.cur.rid t.cur.core l }
      (sent, left ++ [e], { t with farQ := t.farQ ++ [r] }.modCore s.ck fun c => { c with outNext := c.outNext + 1 })
  | none => (sent, left, s)

/-- Whether a location on another device. -/
def isFar : Loc → Bool
  | .far .. => true
  | _ => false

/-- A vector memory or permute instruction enters the claim's outstanding instructions (R273); a sixteenth waits. A load of
another device's memory holds its slot until every answer has come, since a refusal is its trap (R68); it comes after the
outstanding instructions that touch its bytes. -/
def pushVop (s0 : State) (o : VOp) : State :=
  let far (e : VElem) : Bool := !o.store && e.loc.any isFar
  let meets (e : VElem) : Bool := far e && e.loc.any fun l => vopsTouch s0.cur.rid s0.myFrame.vops l 4
  let s := if o.elems.any meets then s0.flushVops s0.cur.rid s0.cur.core s0.me.frame else s0
  let (sent, left, t) := (o.elems.filter far).foldl postElem ([], [], s)
  let o := { o with lines := sent, elems := o.elems.filter fun e => !far e || left.contains e }
  let u := t.modFrame t.fk fun f => { f with vops := f.vops ++ (if o.elems.isEmpty then [] else [o]) }
  if left.isEmpty then u.retire 4 else u.waitFor (.load ((u.coreSt u.ck).outNext - 1))

/-- Whether answers to vector elements of the issuing task are still to come from other devices. -/
def farElems (s : State) : Bool :=
  s.farQ.any fun r => r.rid == s.cur.rid && r.core == s.cur.core && r.frame == s.me.frame && r.vel.isSome

/-- A VMEM form over its elements, in ascending element order (R272). Of several store elements with one address only the
highest remains. -/
def vmem (s : State) (write : Bool) (regs : List Nat) (elems : List VElem) : State :=
  s.vform 0x29 regs <|
    match s.me.wait with
    | .load id => s.waitFor (.load id)
    | .loaded .. => s.retire 4
    | .refused _ code detail info va => if s.farElems then s else s.trap 4 { code := code, detail := if code = 0x13 then 0x29 else detail, addr := va, info := info }
    | _ =>
    if 15 ≤ s.myFrame.vops.length then s.waitFor .stall
    else match s.resolveElems write s elems [] with
      | .error t => t
      | .ok (t, es) =>
        let same (x y : VElem) : Bool := match x.loc, y.loc with
          | some l, some m => l.same m
          | _, _ => false
        let es := if write then es.filter fun e => !es.any fun x => e.j < x.j && same x e else es
        t.pushVop { store := write, elems := es }

/-- The elements of a VMEM form: k registers from `r` on, element addresses by register offset and j. -/
def vmemElems (s : State) (write : Bool) (r : BitVec 5) (k : Nat) (p : BitVec 3) (addr : Nat → Nat → Word) : List VElem :=
  ((s.active p).map fun j => (List.range k).map fun i =>
    { reg := r.toNat + i, j := j, va := (addr i j).toNat, val := if write then s.rv (r.toNat + i) j else 0#32 }).flatten

end State

/-- The address of element j at a byte stride (R272). -/
def strided (s : State) (a b : BitVec 5) (j : Nat) : Word := s.rx a + BitVec.ofNat 64 j * s.rx b

/-- vld, vst (R272). -/
def vmemUnit (write : Bool) (d a : BitVec 5) (p : BitVec 3) (s : State) : Res :=
  .next (s.vmem write [d.toNat] (s.vmemElems write d 1 p fun _ j => s.rx a + BitVec.ofNat 64 (4 * j)))
/-- vlds, vsts (R272). -/
def vmemStride (write : Bool) (d a b : BitVec 5) (p : BitVec 3) (s : State) : Res :=
  .next (s.vmem write [d.toNat] (s.vmemElems write d 1 p fun _ j => strided s a b j))
/-- vldg, vstg (R272). -/
def vmemIndex (write : Bool) (d a b : BitVec 5) (p : BitVec 3) (s : State) : Res :=
  .next (s.vmem write [d.toNat, b.toNat] (s.vmemElems write d 1 p fun _ j => s.rx a + (s.rv b.toNat j).zeroExtend 64))
/-- vldt.k, vstt.k (R272). -/
def vmemTrans (write : Bool) (d a b : BitVec 5) (k : BitVec 2) (p : BitVec 3) (s : State) : Res :=
  .next (s.vmem write (groupRegs d (transK k)) (s.vmemElems write d (transK k) p
    fun i j => strided s a b j + BitVec.ofNat 64 (4 * i)))

/-- vld (R272). -/
def execVld (d a : BitVec 5) (p : BitVec 3) (s : State) : Res := vmemUnit false d a p s
/-- vlds (R272). -/
def execVlds (d a b : BitVec 5) (p : BitVec 3) (s : State) : Res := vmemStride false d a b p s
/-- vldg (R272). -/
def execVldg (d a b : BitVec 5) (p : BitVec 3) (s : State) : Res := vmemIndex false d a b p s
/-- vldt (R272). -/
def execVldt (d a b : BitVec 5) (k : BitVec 2) (p : BitVec 3) (s : State) : Res := vmemTrans false d a b k p s
/-- vst (R272). -/
def execVst (d a : BitVec 5) (p : BitVec 3) (s : State) : Res := vmemUnit true d a p s
/-- vsts (R272). -/
def execVsts (d a b : BitVec 5) (p : BitVec 3) (s : State) : Res := vmemStride true d a b p s
/-- vstg (R272). -/
def execVstg (d a b : BitVec 5) (p : BitVec 3) (s : State) : Res := vmemIndex true d a b p s
/-- vstt (R272). -/
def execVstt (d a b : BitVec 5) (k : BitVec 2) (p : BitVec 3) (s : State) : Res := vmemTrans true d a b k p s

/-! ### Permutes (R277) -/

/-- A VPERM form that writes v[d]: its results, computed from the registers at issue, enter the outstanding instructions. -/
def vpermute (regs : List Nat) (d : BitVec 5) (js : List Nat) (f : Nat → Word32) (s : State) : Res :=
  .next (s.vform 0x2C (d.toNat :: regs) <|
    if 15 ≤ s.myFrame.vops.length then s.waitFor .stall
    else s.pushVop { store := false, elems := js.map fun j => { reg := d.toNat, j := j, val := f j } })

/-- vperm (R277). -/
def execVperm (d a b : BitVec 5) (p : BitVec 3) (s : State) : Res :=
  vpermute [a.toNat, b.toNat] d (s.active p) (fun j => s.rv a.toNat ((s.rv b.toNat j).toNat % s.vlen)) s
/-- vslide.up (R277). -/
def execVslideUp (d a b : BitVec 5) (p : BitVec 3) (s : State) : Res :=
  let n := (s.rx b).toNat
  vpermute [a.toNat] d (s.active p) (fun j => if n ≤ j then s.rv a.toNat (j - n) else 0#32) s
/-- vslide.dn (R277). -/
def execVslideDn (d a b : BitVec 5) (p : BitVec 3) (s : State) : Res :=
  let n := (s.rx b).toNat
  vpermute [a.toNat] d (s.active p) (fun j => if j + n < s.vlen then s.rv a.toNat (j + n) else 0#32) s
/-- vbcast (R277). -/
def execVbcast (d a : BitVec 5) (p : BitVec 3) (s : State) : Res :=
  vpermute [] d (s.active p) (fun _ => (s.rx a).truncate 32) s
/-- vbcast.e (R277). -/
def execVbcastE (d a b : BitVec 5) (p : BitVec 3) (s : State) : Res :=
  vpermute [a.toNat] d (s.active p) (fun _ => s.rv a.toNat ((s.rx b).toNat % s.vlen)) s
/-- vins (R277). -/
def execVins (d a b : BitVec 5) (s : State) : Res :=
  vpermute [] d [(s.rx b).toNat % s.vlen] (fun _ => (s.rx a).truncate 32) s
/-- vext: x[d] is interlocked, as a load (R270, R277). -/
def execVext (d a b : BitVec 5) (s : State) : Res :=
  .next (s.vform 0x2C [a.toNat] <|
    if 15 ≤ s.myFrame.vops.length then s.waitFor .stall
    else (s.wx d ((s.rv a.toNat ((s.rx b).toNat % s.vlen)).zeroExtend 64)).retire 4)

/-! ### Events of the octet's pool -/

/-- CLAIM_GRANT: the head of the octet's claim queue is granted when F ≥ 8 (R267). An evicted task's save area takes the new
descriptor with it (R269). -/
def execClaimGrant (s : State) : Res :=
  match (s.octetSt s.octk).claims with
  | [] => .next s
  | r :: rest =>
    let free := s.freeWidth s.cur.rid r.core
    if free < 8 then .next s
    else
      let g := State.grantWidth r.width free
      let t := (s.modOctet s.octk fun o => { o with claims := rest }).grantClaim s.cur.rid r.core r.frame g
      let t := t.setWait s.cur.rid r.core r.frame (.granted g)
      let f := t.frameSt (unitKey s.cur.rid r.core r.frame)
      .next (if f.evicted then t.wrLm s.cur.rid r.core (State.frameBase r.frame + 0x1D0) (toBytes 8 (f.base * 256 + f.width)) else t)

namespace State

/-- An element that another cluster's core performs leaves for its service slot, with an entry of the outbound queue; a load that the
queue's own stores cover is performed at once (R82, R247, R272). -/
def sendElem (s : State) (rid core frame : Nat) (store : Bool) (e : VElem) : State :=
  let k := coreKey rid core
  let fk := unitKey rid core frame
  match e.loc with
  | some (.lm c off) =>
    let becomes (y : Option VElem) (t : State) : State := t.modFrame fk fun f =>
      { f with vops := (f.vops.map fun o => { o with elems := o.elems.filterMap fun x =>
          if o.store == store && x == e then y else some x }).filter fun o => !o.elems.isEmpty }
    let fwd := s.queuedStores k c off 4
    if !store && (List.range 4).all (fun i => fwd.any (fun p => p.1 == i)) then
      becomes none (s.wvAt fk e.reg e.j (BitVec.ofNat 32 (ofBytes (overlay fwd 0 0 (List.replicate 4 0#8)))))
    else if 16 ≤ (s.coreSt k).outq.length then s
    else
      let id := (s.coreSt k).outNext
      let bs := toBytes 4 e.val.toNat
      let ent : OutEnt := if store then { id := id, frame := frame, store := true, addr := c * 2 ^ 18 + off, bytes := bs }
        else { id := id, frame := frame }
      let r : RemReq := { rid := rid, src := core, frame := frame, id := id, core := c, off := off, size := 4,
                          op := if store then .store bs else .load, fwd := fwd, elem := true }
      let t := s.modCore k fun x => { x with outq := x.outq ++ [ent], outNext := x.outNext + 1 }
      becomes (some { e with sent := some id }) { t with rnet := t.rnet ++ [r] }
  | _ => s

/-- The answer of a service slot to a vector element: a load's value is written, and the element is performed (R273). -/
def elemReply (s : State) (rid core frame id v : Nat) : State :=
  let fk := unitKey rid core frame
  let ours (e : VElem) : Bool := e.sent == some id
  let t := (s.frameSt fk).vops.foldl (fun u o => if o.store then u else
    (o.elems.filter ours).foldl (fun x e => x.wvAt fk e.reg e.j (BitVec.ofNat 32 v)) u) s
  t.modFrame fk fun f =>
    { f with vops := (f.vops.map fun o => { o with elems := o.elems.filter (!ours ·) }).filter fun o => !o.elems.isEmpty }

end State

/-- VMEM_PERFORMED: one element (`idx`) or, beyond the last, all elements of an outstanding instruction (`inp.a`) of the task
of frame `sub` are performed, or sent where another cluster's core performs them; an instruction that touches bytes of an
earlier one comes after it (R272, R273). -/
def execVmemPerformed (s : State) : Res :=
  let rid := s.cur.rid
  let core := s.cur.core
  let fk := unitKey rid core s.cur.sub
  let ops := (s.frameSt fk).vops
  match ops[s.cur.inp.a]? with
  | none => .next s
  | some o =>
    let earlier := ops.take s.cur.inp.a
    let all := match o.elems[s.cur.idx]? with
      | some e => [e]
      | none => o.elems
    let go := all.filter (!·.awaits core o.store)
    let out := all.filter fun e => e.awaits core o.store && e.sent.isNone && !e.loc.any State.isFar
    let clash (e : VElem) : Bool := earlier.any fun q => q.elems.any fun x => match x.loc, e.loc with
      | some l, some m => l.same m
      | _, _ => false
    if (go ++ out).any clash then .next s
    else
      let left := o.elems.filter fun e => !go.contains e
      let (sent, t) := s.performElems rid core fk o go
      let t := t.modFrame fk fun f =>
        { f with vops := if left.isEmpty then ops.eraseIdx s.cur.inp.a
                         else ops.set s.cur.inp.a { o with elems := left, lines := sent } }
      .next (out.foldl (fun u e => u.sendElem rid core s.cur.sub o.store e) t)

end Sys2Proof.Machine
end

