-- ==== Sys2Proof/Machine/Net.lean ====
section
/-! DEFINITION. What travels inside the module and reaches its end (02_execution.md, R26, R27; 03_memory.md, R53, R68;
04_ordering.md, R82, R88; 22_faults_traps.md, R363, R368; 23_state_failures.md, R382, R383; 26_prog_lane_loss.md, R408): messages,
remote accesses and their replies, requests to memory agents, remote-write packets, and storage errors. -/

namespace Sys2Proof.Machine

namespace State

/-! ### Messages (R26, R27) -/

/-- Answer an access or message of another device (R68). -/
def answerFar (s : State) (dev rid core code val : Nat) (marks : List Nat := []) : State :=
  if dev = s.fabid then s
  else { s with farAns := s.farAns ++ [{ dev := dev, rid := rid, core := core, code := code, val := val, marks := marks }] }
/-- A message leaves the network at its destination: its outbound entry is freed, or its sender on another device is answered
(R68, R247). -/
def takeMsg (s : State) (i : Nat) (m : Msg) : State :=
  let t := { s with net := s.net.eraseIdx i }
  let t := match m.out with
    | some id => t.freeOut m.rid m.score id
    | none => t
  t.answerFar m.sdev m.rid m.score 0 0
/-- Whether a task that a direct message starts finds room: the ready queues hold fewer than 64 tasks, and none waits in the
hold before it (R38, R39, log 85). -/
def directRoom (s : State) (k : Nat) : Bool := (s.coreSt k).hold.isEmpty && s.freshCount k < 64

/-- A message at the head of its way to core `core` takes effect (R27); `m` is the message with the header that the dispatch
lookup sees. The event port applies it, which is progress of the die (R389); a decrement is an acquire (R85). -/
def deliver (s : State) (i core : Nat) (m : Msg) : State :=
  let k := coreKey m.rid core
  if !s.coreExists m.rid core || (s.coreSt k).fenced then s.takeMsg i m
  else if !s.takesMsg core m || (h0Direct m.h0 && !s.directRoom k) then s
  else
    let t := (s.takeMsg i m).putPayload core m
    if h0Direct m.h0 then t.portMessage m.rid core (.dispatch m)
    else (t.acquireBy m.rid core (t.msgScope core m)).portMessage m.rid core (.dec (h0Ctr m.h0))

/-- A record or service call at its system handler, which the service slot runs: user handler `hix` at class urgent; it waits while its
place is taken (R37, R363, R368, log 109). -/
def deliverSystem (s : State) (i : Nat) (m : Msg) (hix : Nat) : State :=
  let core := h0Dcore m.h0
  let k := coreKey m.rid core
  let bound := (s.handlers.get 0#64 (k * 256 + hix)).getLsbD 63
  let there := s.coreExists m.rid core && !(s.coreSt k).fenced
  if there && (!s.serviceTurn m.rid core || (!bound && 16 ≤ (s.coreSt k).unclaimed.length)) then s
  else
    let t := s.deliver i core { m with h0 := mkH0 0 1 true 0 hix 0xFFF core }
    if there then t.noteService m.rid core else t

end State

/-- MESSAGE_ARRIVAL: the payload, then the dispatch lookup or the decrement (R26, R27). Records and service calls have their own
events. -/
def execMessageArrival (s : State) : Res :=
  match s.net[s.cur.idx]? with
  | none => .next s
  | some m =>
    if !State.forCore m || (h0Direct m.h0 && 0xF0 ≤ h0Hix m.h0) || !s.acts m.rid || s.ordBlocked s.cur.idx m then .next s
    else .next (s.deliver s.cur.idx (h0Dcore m.h0) m)

/-- A message to a system handler of the trap handler core. -/
def systemArrival (from_ dst : Nat) (s : State) : Res :=
  match s.net[s.cur.idx]? with
  | none => .next s
  | some m =>
    if !State.forCore m || !h0Direct m.h0 || h0Hix m.h0 != from_ || !s.acts m.rid || s.ordBlocked s.cur.idx m then .next s
    else .next (s.deliverSystem s.cur.idx m dst)
/-- TRAP_RECORD_DISPATCH (R363). -/
def execTrapRecordDispatch (s : State) : Res := systemArrival 0xF0 0xEF s
/-- SVC_DISPATCH (R368). -/
def execSvcDispatch (s : State) : Res := systemArrival 0xF1 0xEE s

/-! ### Remote LM accesses (R53, R82) -/

/-- REMOTE_ACCESS: the owner's service slot performs a request, when the rotation comes to it (R37); those of one core to one owner are
performed in order. A poisoned
word is refused and stays as it is (R383), but for a vector element, whose words were tested at issue (log 27); a fenced core
answers nothing (R390). -/
def execRemoteAccess (s : State) : Res :=
  match s.rnet[s.cur.idx]? with
  | none => .next s
  | some r =>
    let early := (s.rnet.take s.cur.idx).any fun x => x.rid == r.rid && x.src == r.src && x.core == r.core
    let fenced := (s.coreSt (coreKey r.rid r.core)).fenced
    if early || !s.acts r.rid || (!fenced && !s.serviceTurn r.rid r.core) then .next s
    else
      let t := { s with rnet := s.rnet.eraseIdx s.cur.idx }.noteService r.rid r.core
      let reply (u : State) (v code : Nat) : State :=
        { u with replies := u.replies ++ [{ rid := r.rid, core := r.src, id := r.id, val := v, code := code,
                                            elem := if r.elem then some r.frame else none }] }
      let reads := match r.op with
        | .store _ => false
        | _ => !r.elem
      if fenced then .next t
      else if reads && t.poisoned (lmAddr r.rid r.core r.off) r.size then .next (reply t 0 0x21)
      else
        let (v, u) := t.performRemote r
        .next (reply u v 0)

namespace State

/-- The level of the leaf through which a cluster reaches an address (R61). -/
def leafLevel (s : State) (rid ck va : Nat) : Nat :=
  let size := match s.tlbFind ck va with
    | some e => e.size
    | none => match s.walkFrom rid va 5 (s.realm rid).root with
      | .ok e => e.size
      | .error _ => 4096
  if size = 2 ^ 30 then 3 else if size = 2 ^ 21 then 2 else 1

/-- The answer to a waiting task of a core: its outbound entry is freed, and the wait ends with the value or the refusal
(R82, R247). -/
def endLoad (s : State) (rid core id : Nat) (w : Wait) : State :=
  let t := s.freeOut rid core id
  match (List.range 16).find? fun f => t.waitOf rid core f == .load id with
  | some f => t.setWait rid core f w
  | none => t

/-- What a refused access of another device's page is to its sender (R68): the wait's refusal. -/
def refusedWait (s : State) (r : FarReq) (code : Nat) : Wait :=
  let f := refusal code r.va
  let key := match r.loc with
    | .far _ _ _ _ k => k
    | _ => 0
  let tier := match r.loc with
    | .far _ _ t _ _ => t
    | _ => 0
  let detail := if f.code = 0x20 then s.leafLevel r.rid (clusterKey r.rid r.core) r.va else if f.code = 0x21 then tier + 1 else 0
  .refused r.id f.code detail (if f.code = 0x20 then key else 0) r.va
/-- REMFAULT (R68, R377). -/
def remFault (s : State) (rid core code addr dev : Nat) : State := s.coreReport rid core 0x2B (code - 1) addr dev 0

/-- A vector element that another device has answered is no longer outstanding (R273). -/
def endElem (s : State) (r : FarReq) (reg j : Nat) : State :=
  let drop (o : VOp) : VOp := { o with elems := o.elems.filter fun e => !(e.reg == reg && e.j == j && !o.store && e.loc.any isFar) }
  s.modFrame (unitKey r.rid r.core r.frame) fun f => { f with vops := (f.vops.map drop).filter fun o => !o.elems.isEmpty }
/-- After an answer to a vector element: the instruction's hold ends when no element is outstanding. -/
def endHold (s : State) (r : FarReq) : State :=
  let more := s.farQ.any fun x => x.rid == r.rid && x.core == r.core && x.frame == r.frame && x.vel.isSome
  match s.waitOf r.rid r.core r.frame with
  | .load id => if more then s else s.setWait r.rid r.core r.frame (.loaded id 0)
  | _ => s
/-- A refused vector element: the lowest refused one stays the instruction's refusal (R361). Elements are ordered by element, then
register. -/
def refuseElem (s : State) (r : FarReq) (reg j code : Nat) : State :=
  let place := j * 32 + reg
  match s.waitOf r.rid r.core r.frame with
  | .refused old .. => if old ≤ place then s else s.setWait r.rid r.core r.frame (s.refusedWait { r with id := place } code)
  | _ => s.setWait r.rid r.core r.frame (s.refusedWait { r with id := place } code)
/-- The answer to the second read of a WAITGE or CQWAIT whose task is evicted: the task becomes ready where its threshold is met or the
word cannot be read (R256). -/
def endReread (s : State) (r : FarReq) (code v : Nat) : State :=
  match s.waitOf r.rid r.core r.frame with
  | .watch _ _ thr _ =>
    if code ≠ 0 ∨ thr ≤ v then s.setWait r.rid r.core r.frame .none
    else s.modFrame (unitKey r.rid r.core r.frame) fun f => { f with since := s.clock }
  | _ => s

/-- Bytes of an answer that the requester takes: of a line those from the location on, its own in the line's place (R71, R82); and
whether one of them that is not its own is poisoned (R383). -/
def farTaken (r : FarReq) (data : List Byte) (marks : List Nat) : List Byte × Bool :=
  if r.line then
    (((overlay r.fwd 0 0 data).drop r.loc.inLine).take r.size,
      (List.range r.size).any fun i => marks.contains ((r.loc.inLine + i) / 8) && !r.fwd.any fun p => p.1 == r.loc.inLine + i)
  else (data, false)
/-- What an answered request of a core does to its cluster's cache: a line enters it, a drained store updates it, a strong access drops the
line (R70, R81). -/
def farCached (s : State) (r : FarReq) (data : List Byte) (marks : List Nat) : State :=
  let ck := clusterKey r.rid r.core
  if r.line then s.farInstall r.rid ck r.loc data marks
  else if r.bytes.isEmpty then s.dropLine r.rid ck r.loc
  else s.cacheUpdate ck (locAddr r.rid r.loc) r.bytes r.marks

/-- The answer `code`, with the bytes read and the poisoned words of a line, to a request that another device performs (R68, R249). -/
def farAnswer (s0 : State) (r : FarReq) (code : Nat) (data : List Byte) (marks : List Nat) : State :=
  let own := r.unit.isNone || r.copy.isSome
  let s := if code = 0 ∧ own then s0.farCached r data marks else s0
  let (bs, poison) := farTaken r data marks
  let code := if code = 0 ∧ poison ∧ r.copy.isNone ∧ r.ask.isNone then 4 else code
  let v := ofBytes bs
  match r.ask with
  | some a => { s with unitLines := s.unitLines ++ [{ ask := a, tag := locAddr r.rid r.loc / 64, code := code, data := data, marks := marks }] }
  | none =>
  match r.unit, r.vel with
  | some who, _ =>
    match r.copy with
    | some num =>
      let tag := locAddr r.rid r.loc / 64
      s.modReq (coreKey r.rid r.core) num fun q =>
        { q with asked := q.asked.filter (· != tag)
                 got := if code = 0 then (tag, data, marks) :: q.got else q.got
                 refused := if code = 0 then q.refused else (tag, code) :: q.refused }
    | none =>
      if who = 8 then s.endReread r code v
      else if code = 0 then s
      else
        let f := refusal code r.va
        if who = 4 ∨ who = 5 then s.coreReport r.rid r.core 0x29 f.code f.addr who 0
        else if who = 6 then s.unitReport r.rid 0 7 0x2A f.code (r.va % 2 ^ 30) 1 r.rid
        else s.unitMem r.rid (coreDie r.core) who f
  | none, some (reg, j) =>
    let t := s.endElem r reg j
    if code = 0 then (t.wvAt (unitKey r.rid r.core r.frame) reg j (BitVec.ofNat 32 v)).endHold r
    else t.refuseElem r reg j code
  | none, none =>
    match r.op with
    | .store _ =>
      let dev := match r.loc with
        | .far d _ _ _ _ => d
        | _ => 0
      if code = 0 ∨ code = 4 then s else s.remFault r.rid r.core code r.va dev
    | _ => s.endLoad r.rid r.core r.id (if code = 0 then .loaded r.id v else s.refusedWait r code)

/-- An earlier request of the same core to the same line is not answered yet. -/
def farEarly (s : State) (i : Nat) (r : FarReq) : Bool :=
  (s.farQ.take i).any fun x => x.rid == r.rid && x.core == r.core && x.loc.line.same r.loc.line
/-- Bytes that the answer to a request brings. -/
def farNeed (r : FarReq) : Nat :=
  if r.line then 64
  else match r.op with
    | .store _ => 0
    | _ => r.size
end State

/-- REMOTE_REPLY: a reply reaches its core (`sub` 0), or another device answers a request (`sub` 1) or a message (`sub` 2) that has left
through a port; `inp.c` is then the answer's code, `inp.data` the bytes read, and `inp.b` which words of a line are poisoned, one bit a
word (R68, R82, R247, R383). Requests of one core to one line are answered in order. -/
def execRemoteReply (s : State) : Res :=
  match s.cur.sub with
  | 0 =>
    match s.replies[s.cur.idx]? with
    | none => .next s
    | some r =>
      let t := { s with replies := s.replies.eraseIdx s.cur.idx }
      let w : Wait := if r.code = 0 then .loaded r.id r.val else .refused r.id r.code r.detail 0 0
      .next (if !s.acts r.rid then s
        else match r.elem with
          | some frame => (t.freeOut r.rid r.core r.id).elemReply r.rid r.core frame r.id r.val
          | none => t.endLoad r.rid r.core r.id w)
  | 1 =>
    match s.farQ[s.cur.idx]? with
    | none => .next s
    | some r =>
      let marks := (List.range 8).filter s.cur.inp.b.testBit
      if !s.acts r.rid || 4 < s.cur.inp.c || (s.cur.inp.c = 0 && s.cur.inp.data.length ≠ State.farNeed r) || !r.sent
          || !s.linked r.loc || s.farEarly s.cur.idx r then .next s
      else .next ({ s with farQ := s.farQ.eraseIdx s.cur.idx }.farAnswer r s.cur.inp.c s.cur.inp.data marks)
  | _ =>
    match s.sentMsgs[s.cur.idx]? with
    | none => .next s
    | some m =>
      if !s.acts m.rid || 3 < s.cur.inp.c || !s.hears m.ddev then .next s
      else
        let t := { s with sentMsgs := s.sentMsgs.eraseIdx s.cur.idx }
        let t := match m.out with
          | some id => t.freeOut m.rid m.score id
          | none => t
        .next (if s.cur.inp.c = 0 then t else t.remFault m.rid m.score s.cur.inp.c m.h0.toNat m.ddev)

/-! ### Memory agents (R67, R68, R88) -/

namespace State

/-- The check of an access or message of another device (R68): 0, or the code of the refusal (log 48). -/
def farCheck (s : State) (rid die : Nat) (key : Option Nat) : Nat :=
  let r := s.realm rid
  if !(r.state == 1 || r.state == 3) then 2
  else if r.n ≤ die then 3
  else match key with
    | some k => if r.kbase ≤ k && k < r.kbase + r.kcnt then 0 else 1
    | none => 0

/-- An access of another device at its home (R66, R68, R383): the answer to a read of more than a word carries the marks of its words, and one
of a word that is marked is refused. -/
def performFar (s : State) (f : FarIn) : State :=
  match s.farCheck f.rid f.die (some f.key) with
  | 0 =>
    let l : Loc := .dev (s.pdieOf f.rid f.die) f.tier f.off (s.keyOf f.key f.die) false
    match f.op with
    | .store bs =>
      let t := f.marks.foldl (fun u w => u.markPoison (locAddr f.rid l + 8 * w)) ((s.wrLoc f.rid l (enumBytes 0 bs)).countWrite l)
      t.answerFar f.dev f.rid f.core 0 0
    | .load =>
      if f.size ≤ 8 ∧ s.poisoned (locAddr f.rid l) f.size then s.answerFar f.dev f.rid f.core 4 0
      else
        let t := s.modOwnerDie (s.pdieOf f.rid f.die) fun d => { d with rdServed := d.rdServed + 1 }
        let marks := (List.range (f.size / 8)).filter fun w => t.poisoned (locAddr f.rid l + 8 * w) 8
        t.answerFar f.dev f.rid f.core 0 (t.rdNum f.rid l f.size) (if f.size ≤ 8 then [] else marks)
    | .amo op v w =>
      if s.poisoned (locAddr f.rid l) f.size then s.answerFar f.dev f.rid f.core 4 0
      else
        let t := (s.modOwnerDie (s.pdieOf f.rid f.die) fun d => { d with rdServed := d.rdServed + 1 }).countWrite l
        let old := t.rdNum f.rid l f.size
        let t := if op = .cas ∧ old ≠ w then t else t.wrNum f.rid l f.size (op.apply f.size old v w)
        t.answerFar f.dev f.rid f.core 0 old
  | code => s.answerFar f.dev f.rid f.core code 0

end State

/-- MEMORY_AGENT_REQUEST: a home memory agent performs a request of this device (those of one core to one line in order), or,
where the turn brings one, an access of another device (R68, R88): it comes through a port that is UP, and brings the module back to D0
(R356, R402). -/
def execMemoryAgentRequest (s : State) : Res :=
  match s.cur.inp.far with
  | some f => if !s.hears f.dev then .next s else .next (if !s.wake.hears f.dev then s.wake else s.wake.performFar f)
  | none =>
    match s.agentQ[s.cur.idx]? with
    | none => .next s
    | some r =>
      let early := (s.agentQ.take s.cur.idx).any fun x => x.rid == r.rid && x.core == r.core && x.loc.line.same r.loc.line
      if early || !s.acts r.rid then .next s
      else .next ({ s with agentQ := s.agentQ.eraseIdx s.cur.idx }.performAgent r)

/-! ### Remote-write packets (R408) -/

/-- A class-0 message that has reached this device with the given HIX. -/
def classZero (m : Msg) (hix : Nat) : Bool := m.ddev == 0xFFF && m.post.isNone && h0Class m.h0 == 0 && h0Hix m.h0 == hix

/-- REMOTE_WRITE_PACKET: the home's memory agent writes a whole packet, one write for each 64-byte chunk of the bytes that the request
places there (R302, log 36), and returns the write
acknowledgement; A1 carries a refusal (R68, R408). -/
def execRemoteWritePacket (s : State) : Res :=
  match s.net[s.cur.idx]? with
  | none => .next s
  | some m =>
    if !classZero m 0xF9 then .next s
    else
      let die := bitsOf m.a0.toNat 44 39
      let key := bitsOf m.a2.toNat 7 0
      let code := s.farCheck m.rid die (some key)
      let t := { s with net := s.net.eraseIdx s.cur.idx }
      let l : Loc := .dev (t.pdieOf m.rid die) (bitsOf m.a0.toNat 38 38) (bitsOf m.a0.toNat 37 0) (t.keyOf key die) false
      let t := if code ≠ 0 then t
        else
          let u := (List.range (m.payload.length / 64)).foldl (fun u i =>
            let bs := (enumBytes 0 ((m.payload.drop (64 * i)).take 64)).filter fun p => !m.holes.contains (64 * i + p.1)
            (u.wrLoc m.rid (l.plus (64 * i)) bs).countWrite l) t
          m.marks.foldl (fun u w => u.markPoison (locAddr m.rid l + 8 * w)) u
      let ack : Msg := { rid := m.rid, sdev := t.fabid, score := mkCore die 127 126, ddev := m.sdev,
                         h0 := mkH0 0 0 false 0 0 m.sdev m.score, h1 := mkH1 false false m.rid t.fabid (mkCore die 127 126) 0,
                         a0 := m.a3, a1 := BitVec.ofNat 64 code }
      .next (t.send ack)

/-- A cluster's cache drops every line of another device's memory, as it may at any time (R70, R93, log 110). -/
def State.dropFar (s : State) (ck : Nat) : State :=
  s.modCluster ck fun c => { c with cache := c.cache.filter (·.addr < 2 ^ 80) }

/-- WRITE_ACKNOWLEDGEMENT: a packet of a copy request is acknowledged by the device that writes it; a refusal aborts the request (R68, R374, R408). -/
def execWriteAcknowledgement (s : State) : Res :=
  match s.net[s.cur.idx]? with
  | none => .next s
  | some m =>
    if !classZero m 0 then .next s
    else
      let core := h0Dcore m.h0
      let k := coreKey m.rid core
      let tag := m.a0.toNat
      let mine (p : Nat × Nat × Nat) : Bool := p.1 == tag && p.2.2 == m.sdev
      let t := { s with net := s.net.eraseIdx s.cur.idx }.dropFar (clusterKey m.rid core)
      match (t.coreSt k).fifo.findIdx? fun r => r.unacked.any mine with
      | none => .next t
      | some i =>
        match (t.coreSt k).fifo[i]? with
        | none => .next t
        | some r =>
          let va := ((r.unacked.find? mine).getD (0, 0, 0)).2.1
          let r' := { r with unacked := r.unacked.filter (!mine ·) }
          let (u, q) := if m.a1 = 0#64 ∨ r.aborted then (t, r')
            else t.abortCopy m.rid core r' none (refusal m.a1.toNat va) tag
          .next (u.modCore k fun c => { c with fifo := c.fifo.set i q })

/-! ### Storage errors (R382, R405) -/

/-- CORRECTED_ERROR: the value is unchanged; the die's telemetry counts it (R382), as it counts the replays of its hops of the module
fabric, with `sub` 1 (R404, log 117). The turn's `die` is a physical die. -/
def execCorrectedError (s : State) : Res :=
  if s.cur.sub = 1 then .next { s with hopReplays := s.hopReplays.set 0 s.cur.die (s.hopReplays.get 0 s.cur.die + 1) }
  else .next { s with corrected := s.corrected.set 0 s.cur.die (s.corrected.get 0 s.cur.die + 1) }

/-- UNCORRECTABLE_ERROR (R382, R405). The turn's `sub` names the storage: 0 LM at offset `inp.a`, 1 device memory of physical die
`die` at tier `inp.b` and offset `inp.a`, 2 line `idx` of a core's cluster cache, 3 word `inp.a` of combining-buffer entry `idx`,
4 word `inp.a` of the payload of message `idx`, 5 word `inp.a` of the packet of copy request `idx`, 6 the queued remote store `idx`,
7 a core's matrix storage at `inp.a`, 8 word `inp.a` of the line that the queued request `idx` to another device stores, 9 word `inp.a`
of the payload that port `die` is sending, 10 word `inp.a` of the message that it has accepted in part; others unit state, a switch's
included. -/
def execUncorrectableError (s : State) : Res :=
  let rid := s.cur.rid
  let core := s.cur.core
  let k := coreKey rid core
  let i := s.cur.idx
  let w := s.cur.inp.a
  let mark (ms : List Nat) : List Nat := if ms.contains w then ms else ms ++ [w]
  match s.cur.sub with
  | 0 => .next (if s.coreExists rid core && w < 0x30000 then s.markPoison (lmAddr rid core w) else s)
  | 1 => .next (if s.cur.die < 64 then s.markPoison (devAddr s.cur.die (s.cur.inp.b % 2) (w % 2 ^ 38)) else s)
  | 2 => .next (s.modCluster (clusterKey rid core) fun c => { c with cache := c.cache.eraseIdx i })
  | 3 =>
    match (s.coreSt k).cbuf[i]? with
    | some e => .next (if w < 8 then s.modCore k fun c => { c with cbuf := c.cbuf.set i { e with marks := mark e.marks } } else s)
    | none => .next s
  | 4 =>
    match s.net[i]? with
    | some m => .next (if 8 * w < m.payload.length then { s with net := s.net.set i { m with marks := mark m.marks } } else s)
    | none => .next s
  | 5 =>
    match (s.coreSt k).fifo[i]? with
    | some r =>
      match r.pkt with
      | some p => .next (if 8 * w < p.bytes.length then
          s.modCore k fun c => { c with fifo := c.fifo.set i { r with pkt := some { p with marks := mark p.marks } } } else s)
      | none => .next s
    | none => .next s
  | 6 =>
    match s.rnet[i]? with
    | some r => .next { s with rnet := s.rnet.set i { r with mark := true } }
    | none => .next s
  | 7 => .next { s with epoison := s.epoison.set false ((k * 65536 + w % 65536) / 8) true }
  | 8 =>
    match s.farQ[i]? with
    | some r => .next (if w < 8 then { s with farQ := s.farQ.set i { r with marks := mark r.marks } } else s)
    | none => .next s
  | 9 => .next (s.modPort s.cur.die fun x => { x with txMsg := x.txMsg.map fun m =>
      if 8 * w < m.payload.length then { m with marks := mark m.marks } else m })
  | 10 => .next (s.modPort s.cur.die fun x => if 8 * w < x.rx.length then { x with rxMarks := mark x.rxMarks } else x)
  | _ => .next (s.deviceHalt rid 0xE1)

end Sys2Proof.Machine
end

