-- ==== Sys2Proof/Machine/LinkEvents.lean ====
section
/-! DEFINITION. Receiving, acknowledging and replaying flits, and the training of a scale-up port (25_link_recovery.md, R396 to
R403; 26_prog_lane_loss.md, R409). The turn's `die` is the port; a flit stands in `inp.data`. -/

namespace Sys2Proof.Machine

/-! ### Flits (R178, R397) -/

/-- The header of a flit. -/
def flitHead (f : List Byte) : Nat := ofBytes (f.take 4)
/-- KIND. -/
def flitKind (f : List Byte) : Nat := bitsOf (flitHead f) 19 16
/-- SEQ. -/
def flitSeq (f : List Byte) : Nat := bitsOf (flitHead f) 31 20
/-- The valid data bytes (NDATA, at most 248). -/
def flitData (f : List Byte) : List Byte := (f.drop 4).take (min 248 (bitsOf (flitHead f) 15 8))
/-- ASEQ of an acknowledge or negative-acknowledge flit (R396). -/
def flitAseq (f : List Byte) : Nat := ofBytes ((f.drop 4).take 2) % 4096
/-- The CRC holds under a seed (R178). -/
def crcHolds (seed : Nat) (f : List Byte) : Bool := crc32 seed (f.take 252) == ofBytes (f.drop 252)

/-- What a receiver finds a flit to be (R397). -/
inductive FlitIs where
  /-- The CRC fails. -/
  | bad
  /-- Sequenced, and E. -/
  | next
  /-- ESQ: a duplicate. -/
  | old
  /-- ESQ: another number. -/
  | ahead
  /-- An acknowledgement. -/
  | ack
  /-- A negative acknowledgement. -/
  | nak
  /-- Idle. -/
  | idle
  /-- A reserved KIND. -/
  | reserved
  deriving DecidableEq, Repr

/-- The receiver's check of a flit (R397). -/
def flitIs (p : PortSt) (f : List Byte) : FlitIs :=
  let kind := flitKind f
  let plainKind : FlitIs := if kind = 3 then .ack else if kind = 4 then .nak else if kind = 0 then .idle else .reserved
  if p.esq then
    if !crcHolds 0xFFFFFFFF f then .bad
    else if !sequenced kind then plainKind
    else
      let d := (flitSeq f + 4096 - p.e) % 4096
      if d = 0 then .next else if 4096 - 512 ≤ d then .old else .ahead
  else if crcHolds (0xFFFFFFFF ^^^ p.e) f then (if sequenced kind then .next else plainKind)
  else if crcHolds 0xFFFFFFFF f && (kind == 0 || kind == 3 || kind == 4) then plainKind
  else .bad

namespace State

/-! ### Retraining (R401, R402) -/

/-- The vector of a port's state change (R403). -/
def portVec (s : State) (p : Nat) : State := s.toHost (.msi (s.port p).vec)
/-- A training begins (R401, R402): the replay in progress ends, and a flit in `inp.data` that fails its CRC in that cycle is counted and
starts NAK state without a NAK (R409). A change from DOWN is reported when the training ends UP (log 50). A PCTL[0] request that comes
while a training runs is that training's (R401, log 139). -/
def startTraining (s : State) (p : Nat) (asked : Bool) : State :=
  let x := s.port p
  if x.state = 1 then (if asked then s.modPort p fun y => { y with asked := true } else s)
  else
    let bad := x.state == 2 && s.cur.inp.data.length == 256 && flitIs x s.cur.inp.data == .bad
    let t := s.modPort p fun y =>
      { y with state := 1, wasDown := x.state == 0, asked := asked, at_ := s.clock, back := 0, backAt := none,
               crcerr := if bad then y.crcerr + 1 else y.crcerr, nak := if bad && y.nak.isNone then some s.clock else y.nak }
    if x.state = 2 then t.portVec p else t
/-- The lanes of a LANES code, as a mask (R403). -/
def laneMask (code : Nat) : Nat :=
  match code with
  | 0 => 0xFFFF
  | 1 => 0x00FF
  | 2 => 0xFF00
  | 3 => 0x000F
  | 4 => 0x00F0
  | 5 => 0x0F00
  | _ => 0xF000
/-- The narrower candidates of a LANES code (R401). -/
def laneParts (code : Nat) : List Nat :=
  match code with
  | 0 => [1, 2]
  | 1 => [3, 4]
  | 2 => [5, 6]
  | _ => []
/-- The new width: none where the port goes DOWN (R401). -/
def chooseLanes (active failed : Nat) (asked : Bool) : Option Nat :=
  if asked && failed = 0 then some 0
  else if failed &&& laneMask active = 0 then some active
  else (laneParts active).find? fun c => failed &&& laneMask c = 0

/-! ### Acknowledgement and replay (R398, R399) -/

/-- The oldest i flits are free: an acknowledgement has advanced (R398, R399). -/
def freeFlits (s : State) (p i : Nat) : State :=
  if i = 0 then s
  else s.modPort p fun x =>
    { x with buf := x.buf.drop i, back := min x.back (x.buf.length - i), tries := 0, since := s.clock }
/-- A replay of every buffered flit begins, for a NAK that names a number or for none; a ninth at one number is a retraining instead
(R399, log 47). -/
def replay (s : State) (p : Nat) (named : Option Nat) : State :=
  match (s.port p).buf with
  | [] => s.modPort p fun y => { y with back := 0, backAt := none }
  | (seq, _, _) :: _ =>
    let x := s.port p
    let n := if x.triesAt = seq ∧ 0 < x.tries then x.tries + 1 else 1
    if 8 < n then (s.modPort p fun y => { y with tries := 0 }).startTraining p false
    else s.modPort p fun y => { y with tries := n, triesAt := seq, since := s.clock, back := x.buf.length, backAt := named }
/-- ACK(a) (R398). -/
def ackAct (s : State) (p a : Nat) : State :=
  match (s.port p).buf.findIdx? fun e => e.1 == a with
  | some i => s.freeFlits p (i + 1)
  | none => s
/-- NAK(l): one that comes during the replay that the same number began is ignored (R399, R401, R409). -/
def nakAct (s : State) (p l : Nat) : State :=
  let x := s.port p
  let s1 := s.modPort p fun y => { y with nakrx := y.nakrx + 1 }
  let first := (l + 1) % 4096
  let at_ := if first = x.next then some x.buf.length else x.buf.findIdx? fun e => e.1 == first
  if 0 < x.back ∧ x.backAt = some l then s1
  else match at_ with
    | some i => ((s1.freeFlits p i).replay p (some l)).modPort p fun y => { y with await := false }
    | none => s1

/-! ### Accepting (R397, R400, R409) -/

/-- A message that has come whole through a port (R68, R400): delivered to the network of this device, or refused (log 39). Words of it that
carry a poison mark stay marked (R383). -/
def receiveMessage (s : State) (bs : List Byte) (marks : List Nat) : State :=
  let w (i : Nat) : Word := BitVec.ofNat 64 (ofBytes ((bs.drop (8 * i)).take 8))
  let h1 := (w 1).toNat
  let m : Msg := { rid := bitsOf h1 55 50, sdev := bitsOf h1 49 38, score := bitsOf h1 37 18, h0 := w 0, h1 := w 1, a0 := w 2,
                   a1 := w 3, a2 := w 4, a3 := w 5, payload := (bs.drop 48).take (64 * h0Len (w 0)),
                   marks := (marks.filter fun i => 6 ≤ i && i < 6 + 8 * h0Len (w 0)).map (· - 6) }
  let put (t : State) : State := { t with net := t.net ++ [m] }
  if h0Class m.h0 = 0 then put s
  else
    let dcore := h0Dcore m.h0
    let code := if s.farCheck m.rid (coreDie dcore) none ≠ 0 then s.farCheck m.rid (coreDie dcore) none
      else if 80 ≤ coreRow dcore then 3 else 0
    if code = 0 then put s else s.answerFar m.sdev m.rid m.score code 0
/-- The data of an accepted flit; `inp.b` names its words that carry a poison mark, one bit a word (log 44). -/
def acceptData (s : State) (p : Nat) (f : List Byte) : State :=
  let kind := flitKind f
  let data := flitData f
  if kind = 6 then { s with doneFlits := s.doneFlits ++ [data] }
  else if kind = 5 then s
  else
    let rx := if kind = 1 then data else (s.port p).rx ++ data
    let here := (List.range (data.length / 8)).filter s.cur.inp.b.testBit
    let marks := if kind = 1 then here else (s.port p).rxMarks ++ here.map (· + (s.port p).rx.length / 8)
    let need := 48 + 64 * h0Len (BitVec.ofNat 64 (ofBytes (rx.take 8)))
    if 48 ≤ rx.length ∧ need ≤ rx.length then (s.modPort p fun x => { x with rx := [], rxMarks := [] }).receiveMessage rx marks
    else s.modPort p fun x => { x with rx := rx, rxMarks := marks }
/-- A flit is accepted; every 64th is acknowledged at once (R397, R398). -/
def accept (s : State) (p : Nat) (f : List Byte) : State :=
  let t := s.modPort p fun x =>
    { x with e := (x.e + 1) % 4096, nak := none, heard := true, fresh := x.fresh + 1, ackAt := if x.fresh = 0 then s.clock else x.ackAt }
  let t := if 64 ≤ (t.port p).fresh then t.sendAck p else t
  t.acceptData p f
/-- NAK state begins, with its NAK(E − 1) (R397). -/
def enterNak (s : State) (p : Nat) : State :=
  if (s.port p).nak.isSome then s else (s.sendNak p).modPort p fun x => { x with nak := some s.clock }

/-- The action of R397 for a flit. -/
def receiveFlit (s : State) (p : Nat) (f : List Byte) : State :=
  match flitIs (s.port p) f with
  | .bad => (s.modPort p fun x => { x with crcerr := x.crcerr + 1 }).enterNak p
  | .next => s.accept p f
  | .old | .idle => s
  | .ahead => s.enterNak p
  | .ack => s.ackAct p (flitAseq f)
  | .nak => s.nakAct p (flitAseq f)
  | .reserved => s.modPort p fun x => { x with crcerr := x.crcerr + 1 }

/-- The ports that may receive now: UP (R409), and a flit is there. -/
def hearsFlit (s : State) : Bool := s.cur.die < 32 && (s.port s.cur.die).state == 2 && s.cur.inp.data.length == 256

end State

/-- FLIT_RECEIVE (R397); a message or barrier flit brings the module back to D0 (R356), where a port that the boot after D4 has left
DOWN takes nothing. -/
def execFlitReceive (s : State) : Res :=
  if !s.hearsFlit then .next s
  else
    let t := if sequenced (flitKind s.cur.inp.data) then s.wake else s
    if !t.hearsFlit then .next t else .next (t.receiveFlit s.cur.die s.cur.inp.data)
/-- ACK_RECEIVE: an acknowledge flit (R398). -/
def execAckReceive (s : State) : Res :=
  if !s.hearsFlit || flitIs (s.port s.cur.die) s.cur.inp.data != .ack then .next s
  else .next (s.ackAct s.cur.die (flitAseq s.cur.inp.data))
/-- NAK_RECEIVE: a negative-acknowledge flit (R399). -/
def execNakReceive (s : State) : Res :=
  if !s.hearsFlit || flitIs (s.port s.cur.die) s.cur.inp.data != .nak then .next s
  else .next (s.nakAct s.cur.die (flitAseq s.cur.inp.data))

/-- ACK_TIMER: what has been accepted since the last acknowledgement is acknowledged, at the latest 256 cycles after the first of it
(R398): the turn says when, and `linkTime` that no later. -/
def execAckTimer (s : State) : Res :=
  let x := s.port s.cur.die
  if 32 ≤ s.cur.die ∨ x.state ≠ 2 ∨ x.fresh = 0 then .next s else .next (s.sendAck s.cur.die)
/-- NAK_RESEND_TIMEOUT: 4,096 cycles in NAK state without accepting E (R397). -/
def execNakResendTimeout (s : State) : Res :=
  let x := s.port s.cur.die
  match x.nak with
  | some t =>
    if 32 ≤ s.cur.die ∨ x.state ≠ 2 ∨ s.clock < t + 4096 then .next s
    else .next ((s.sendNak s.cur.die).modPort s.cur.die fun y => { y with nak := some s.clock })
  | none => .next s
/-- REPLAY_TIMEOUT: the oldest flit has stayed unacknowledged for 8,192 cycles (R399). -/
def execReplayTimeout (s : State) : Res :=
  let x := s.port s.cur.die
  if 32 ≤ s.cur.die || x.state != 2 || x.buf.isEmpty || s.clock < x.since + 8192 then .next s
  else .next (s.replay s.cur.die none)

/-- LANE_FAILURE: an active lane fails, or the partner has begun a retraining, and the port retrains, a DOWN one too unless HOLD keeps it
down; `inp.b` is 1 where the partner's answers a PCTL[0] request (R401, R403). A flit in `inp.data` may coincide (R409). -/
def execLaneFailure (s : State) : Res :=
  let p := s.cur.die
  let x := s.port p
  if 32 ≤ p ∨ (x.state = 0 ∧ x.hold) then .next s else .next (s.startTraining p (s.cur.inp.b == 1))

/-- RETRAINING_END: `inp.a` is the mask of failed lanes, `inp.b` is 1 where the partner trains in the same mode, and `inp.c` the
mode (1 ESQ) of a port that has not been UP since module reset (R178, R401, R402, log 51). -/
def execRetrainingEnd (s : State) : Res :=
  let p := s.cur.die
  let x := s.port p
  if 32 ≤ p ∨ x.state ≠ 1 then .next s
  else
    let failed := s.cur.inp.a % 2 ^ 16
    let t := s.modPort p fun y =>
      { y with failed := failed, retrains := y.retrains + 1, esq := if x.wasUp then y.esq else s.cur.inp.c % 2 = 1 }
    match State.chooseLanes x.lanes failed x.asked with
    | some lanes =>
      if x.hold || s.cur.inp.b != 1 then
        let u := t.modPort p fun y => { y with state := 0, at_ := s.clock, asked := false }
        .next (if x.wasDown then u else u.portVec p)
      else
        let u := t.modPort p fun y =>
          { y with state := 2, wasUp := true, lanes := lanes, await := true, asked := false, since := s.clock, nak := y.nak.map fun _ => s.clock }
        let u := if x.wasDown then (u.portVec p).portVec p else u.portVec p
        .next (u.sendNak p)
    | none =>
      let u := t.modPort p fun y => { y with state := 0, at_ := s.clock, asked := false }
      .next (if x.wasDown then u else u.portVec p)

/-- TRAINING_RETRY: firmware retries the training of a DOWN port every 2^24 cycles unless HOLD is set (R402). -/
def execTrainingRetry (s : State) : Res :=
  let x := s.port s.cur.die
  if 32 ≤ s.cur.die || x.state != 0 || x.hold || s.clock < x.at_ + 2 ^ 24 then .next s
  else .next (s.startTraining s.cur.die false)

namespace State

/-- A write of PCTL (R402, R403); a training that HOLD ends counts in RETRAINS as any other. -/
def pctlWrite (s : State) (p v : Nat) : State :=
  let x := s.port p
  let t := s.modPort p fun y => { y with vec := bitsOf v 26 16, hold := v.testBit 1 }
  if v.testBit 1 then
    if x.state = 0 then t
    else
      let u := t.modPort p fun y => { y with state := 0, at_ := s.clock, asked := false, back := 0, backAt := none,
                                             retrains := if x.state = 1 then y.retrains + 1 else y.retrains }
      if x.state = 1 && x.wasDown then u else u.portVec p
  else if v.testBit 0 then t.startTraining p true
  else t

end State

/-- RETRAIN: a PCTL write of the host with RETRAIN set; `inp.a` is its value (R401, R403). -/
def execRetrain (s : State) : Res :=
  if 32 ≤ s.cur.die || !s.hostUp || !s.cur.inp.a.testBit 0 then .next s
  else .next (s.wake.pctlWrite s.cur.die s.cur.inp.a)
/-- HOLD: a PCTL write of the host without RETRAIN: HOLD takes the port DOWN and keeps it there, or lets it go (R402, R403). -/
def execHold (s : State) : Res :=
  if 32 ≤ s.cur.die || !s.hostUp || s.cur.inp.a.testBit 0 then .next s
  else .next (s.wake.pctlWrite s.cur.die s.cur.inp.a)

end Sys2Proof.Machine
end

