-- ==== Sys2Proof/Machine/Pages.lean ====
section
/-! DEFINITION. The registers of BAR0 (21_host_realms_power.md, R342, R343, R346; 25_link_recovery.md, R403; 26_prog_lane_loss.md,
R410): realm control pages, scale-up ports, the MSI-X table. -/

namespace Sys2Proof.Machine

/-- A register of a realm control page as it reads, by its offset: reserved fields read as zero (R5, R346, R388). -/
def RealmSt.pageWord (r : RealmSt) (o : Nat) : Nat :=
  if 0x100 ≤ o ∧ o < 0x140 then ofBytes ((List.range 8).map fun i => BitVec.ofNat 8 (r.dmap[o - 0x100 + i]?.getD 0))
  else if 0x200 ≤ o ∧ o < 0x600 then
    let q := r.dcqt.get {} ((o - 0x200) / 16)
    if o % 16 = 0 then q.base.toNat else q.k
  else if 0x600 ≤ o ∧ o < 0xE00 then
    let q := r.hqt.get {} ((o - 0x600) / 32)
    if o % 32 = 0 then q.base.toNat else if o % 32 = 8 then q.k + q.head * 2 ^ 32 else 0
  else match o with
  | 0x000 => r.state + r.err * 2 ^ 8 + (if r.dberr then 2 ^ 16 else 0) + (if r.dlovf then 2 ^ 17 else 0)
  | 0x010 => r.n
  | 0x018 => r.root.toNat
  | 0x020 => r.kbase + r.kcnt * 2 ^ 8
  | 0x028 => r.trapc
  | 0x030 => bitsOf r.wdogcfg.toNat 52 0
  | 0x038 => r.bart.toNat
  | 0x040 => r.sigpol.toNat
  | 0x048 => r.sigkeys.toNat
  | 0x050 => r.wbase.toNat
  | 0x058 => r.dlbase.toNat
  | 0x060 => r.dlctl.toNat
  | 0x068 => r.dlhead.toNat + r.dlread.toNat * 2 ^ 32
  | 0x070 => r.invva.toNat
  | 0x078 => if r.inving then 2 else 0
  | 0x080 => r.imglist.toNat
  | _ => 0

/-- The registers that may be written in any state of the realm; the others only while it is FREE or HALTED (R346). -/
def anyStateReg (o : Nat) : Bool := [0x050, 0x058, 0x060, 0x068, 0x070].contains o

/-- Write a register of a realm control page: the fields that R344 and R346 list. WDOGCFG keeps its reserved bits for the check of
R388; HK takes the five bits that its range needs (log 128). -/
def RealmSt.putPage (r : RealmSt) (o v : Nat) : RealmSt :=
  let w : Word := BitVec.ofNat 64 v
  if 0x100 ≤ o ∧ o < 0x140 then
    { r with dmap := (List.range 64).map fun i =>
        if o - 0x100 ≤ i ∧ i < o - 0x100 + 8 then v / 256 ^ (i - (o - 0x100)) % 256 else r.dmap[i]?.getD 0 }
  else if 0x200 ≤ o ∧ o < 0x600 then
    let i := (o - 0x200) / 16
    let q := r.dcqt.get {} i
    { r with dcqt := r.dcqt.set {} i (if o % 16 = 0 then { q with base := w } else { q with k := v % 256 }) }
  else if 0x600 ≤ o ∧ o < 0xE00 then
    let i := (o - 0x600) / 32
    let q := r.hqt.get {} i
    { r with hqt := r.hqt.set {} i (if o % 32 = 0 then { q with base := w } else if o % 32 = 8 then { q with k := v % 32 } else q) }
  else match o with
  | 0x010 => { r with n := v }
  | 0x018 => { r with root := w }
  | 0x020 => { r with kbase := v % 256, kcnt := v / 256 % 256 }
  | 0x028 => { r with trapc := v % 2 ^ 20 }
  | 0x030 => { r with wdogcfg := w }
  | 0x038 => { r with bart := w }
  | 0x040 => { r with sigpol := w &&& 0xFF01#64 }
  | 0x048 => { r with sigkeys := w }
  | 0x050 => { r with wbase := w &&& 0xFFFFFFFFC001FF81#64 }
  | 0x058 => { r with dlbase := w &&& 0xFFFFFFFFFFFFF000#64 }
  | 0x060 => { r with dlctl := w &&& 0x1F#64 }
  | 0x068 => { r with dlread := BitVec.ofNat 32 (v / 2 ^ 32) }
  | 0x070 => { r with invva := w &&& 0x01FFFFFFFFFFF003#64 }
  | 0x080 => { r with imglist := w }
  | _ => r

/-- A register of a scale-up port: LGOOD reads its reset value until the receiver has accepted a flit (R403). -/
def PortSt.reg (x : PortSt) (o : Nat) : Nat :=
  match o with
  | 0x00 => x.state + x.lanes * 2 ^ 4 + (if x.esq then 2 ^ 8 else 0) + x.failed * 2 ^ 16 + x.next * 2 ^ 32
      + (if x.heard then (x.e + 4095) % 4096 else 0) * 2 ^ 44
  | 0x08 => (if x.hold then 2 else 0) + x.vec * 2 ^ 16
  | 0x10 => x.crcerr.toNat
  | 0x18 => x.naktx.toNat
  | 0x20 => x.nakrx.toNat
  | 0x28 => x.replays.toNat
  | 0x30 => x.retrains.toNat
  | _ => 0
/-- A write of a port's counter sets it (R403). -/
def PortSt.putReg (x : PortSt) (o : Nat) (v : Word) : PortSt :=
  match o with
  | 0x10 => { x with crcerr := v }
  | 0x18 => { x with naktx := v }
  | 0x20 => { x with nakrx := v }
  | 0x28 => { x with replays := v }
  | 0x30 => { x with retrains := v }
  | _ => x

end Sys2Proof.Machine
end

