-- ==== Sys2Proof/Machine/Sha.lean ====
section
/-! DEFINITION. SHA-256 (21_host_realms_power.md, R351, R358, R359): the manual names the function and gives none of its constants, which are
those of FIPS 180-4 (log 10). -/

namespace Sys2Proof.Machine

/-- The 64 round constants. -/
def shaK : List (BitVec 32) :=
  [0x428a2f98, 0x71374491, 0xb5c0fbcf, 0xe9b5dba5, 0x3956c25b, 0x59f111f1, 0x923f82a4, 0xab1c5ed5]
  ++ [0xd807aa98, 0x12835b01, 0x243185be, 0x550c7dc3, 0x72be5d74, 0x80deb1fe, 0x9bdc06a7, 0xc19bf174]
  ++ [0xe49b69c1, 0xefbe4786, 0x0fc19dc6, 0x240ca1cc, 0x2de92c6f, 0x4a7484aa, 0x5cb0a9dc, 0x76f988da]
  ++ [0x983e5152, 0xa831c66d, 0xb00327c8, 0xbf597fc7, 0xc6e00bf3, 0xd5a79147, 0x06ca6351, 0x14292967]
  ++ [0x27b70a85, 0x2e1b2138, 0x4d2c6dfc, 0x53380d13, 0x650a7354, 0x766a0abb, 0x81c2c92e, 0x92722c85]
  ++ [0xa2bfe8a1, 0xa81a664b, 0xc24b8b70, 0xc76c51a3, 0xd192e819, 0xd6990624, 0xf40e3585, 0x106aa070]
  ++ [0x19a4c116, 0x1e376c08, 0x2748774c, 0x34b0bcb5, 0x391c0cb3, 0x4ed8aa4a, 0x5b9cca4f, 0x682e6ff3]
  ++ [0x748f82ee, 0x78a5636f, 0x84c87814, 0x8cc70208, 0x90befffa, 0xa4506ceb, 0xbef9a3f7, 0xc67178f2]

/-- The eight words of the hash state. -/
structure Sha where
  /-- a. -/
  a : BitVec 32 := 0x6a09e667
  /-- b. -/
  b : BitVec 32 := 0xbb67ae85
  /-- c. -/
  c : BitVec 32 := 0x3c6ef372
  /-- d. -/
  d : BitVec 32 := 0xa54ff53a
  /-- e. -/
  e : BitVec 32 := 0x510e527f
  /-- f. -/
  f : BitVec 32 := 0x9b05688c
  /-- g. -/
  g : BitVec 32 := 0x1f83d9ab
  /-- h. -/
  h : BitVec 32 := 0x5be0cd19
  deriving DecidableEq, Repr

/-- The next word of the message schedule, from a window of the last sixteen. -/
def shaNext (w : List (BitVec 32)) : BitVec 32 :=
  let x (i : Nat) : BitVec 32 := w[i]?.getD 0#32
  let s0 := (x 1).rotateRight 7 ^^^ (x 1).rotateRight 18 ^^^ (x 1) >>> 3
  let s1 := (x 14).rotateRight 17 ^^^ (x 14).rotateRight 19 ^^^ (x 14) >>> 10
  x 0 + s0 + x 9 + s1
/-- One round with constant k and message word w. -/
def Sha.round (x : Sha) (k w : BitVec 32) : Sha :=
  let s1 := x.e.rotateRight 6 ^^^ x.e.rotateRight 11 ^^^ x.e.rotateRight 25
  let t1 := x.h + s1 + ((x.e &&& x.f) ^^^ (~~~x.e &&& x.g)) + k + w
  let s0 := x.a.rotateRight 2 ^^^ x.a.rotateRight 13 ^^^ x.a.rotateRight 22
  let t2 := s0 + ((x.a &&& x.b) ^^^ (x.a &&& x.c) ^^^ (x.b &&& x.c))
  { a := t1 + t2, b := x.a, c := x.b, d := x.c, e := x.d + t1, f := x.e, g := x.f, h := x.g }
/-- The rounds that the constants left stand for. -/
def Sha.rounds (x : Sha) (w : List (BitVec 32)) : List (BitVec 32) → Sha
  | [] => x
  | k :: ks => (x.round k (w.headD 0#32)).rounds (w.tail ++ [shaNext w]) ks
/-- The hash state after a block of sixteen words. -/
def Sha.block (x : Sha) (w : List (BitVec 32)) : Sha :=
  let y := x.rounds w shaK
  { a := x.a + y.a, b := x.b + y.b, c := x.c + y.c, d := x.d + y.d, e := x.e + y.e, f := x.f + y.f, g := x.g + y.g, h := x.h + y.h }
/-- A number as n bytes, the most significant first. -/
def bigEndian (n v : Nat) : List Byte := (toBytes n v).reverse
/-- Words of four bytes, the most significant first. -/
def shaWords : Nat → List Byte → List (BitVec 32)
  | 0, _ => []
  | n + 1, bs => BitVec.ofNat 32 (ofBytes (bs.take 4).reverse) :: shaWords n (bs.drop 4)
/-- The hash state after n blocks of 64 bytes. -/
def shaBlocks (x : Sha) : Nat → List Byte → Sha
  | 0, _ => x
  | n + 1, bs => shaBlocks (x.block (shaWords 16 bs)) n (bs.drop 64)
/-- A message padded to whole blocks: a one bit, zeros, and its length in bits. -/
def shaPad (bs : List Byte) : List Byte :=
  bs ++ [0x80#8] ++ List.replicate ((119 - bs.length % 64) % 64) 0#8 ++ bigEndian 8 (8 * bs.length)
/-- SHA-256: 32 bytes. -/
def sha256 (bs : List Byte) : List Byte :=
  let p := shaPad bs
  let x := shaBlocks {} (p.length / 64) p
  [x.a, x.b, x.c, x.d, x.e, x.f, x.g, x.h].flatMap fun w => bigEndian 4 w.toNat

end Sys2Proof.Machine
end

