-- ==== Sys2Proof/Machine/Wdog.lean ====
section
/-! DEFINITION. What time does (08_scheduling.md, R173; 24_watchdog_preemption.md, R389), and the watchdog of a die with its three
stages (R388 to R392). The turn's `rid` and `die` name the watchdog. -/

namespace Sys2Proof.Machine

/-! ### WDOGCFG (R388) -/

/-- WIN in cycles. -/
def wdWin (w : Word) : Nat := bitsOf w.toNat 15 0 * 1024
/-- T1 in cycles. -/
def wdT1 (w : Word) : Nat := bitsOf w.toNat 27 16 * 1024
/-- T2 in cycles. -/
def wdT2 (w : Word) : Nat := bitsOf w.toNat 39 28 * 1024
/-- HLIM in cycles. -/
def wdHlim (w : Word) : Nat := bitsOf w.toNat 51 40 * 65536
/-- RONLY. -/
def wdRonly (w : Word) : Bool := w.getLsbD 52
/-- A value that R388 does not allow: where WIN is not zero, T1 and T2 are not zero and the reserved bits are. -/
def wdBad (w : Word) : Bool := wdWin w != 0 && (wdT1 w == 0 || wdT2 w == 0 || bitsOf w.toNat 63 53 != 0)

/-- The realm id in the key of a slot or frame. -/
def keyRid (k : Nat) : Nat := k / 2 ^ 24
/-- The core id in the key of a slot or frame. -/
def keyCore (k : Nat) : Nat := k / 16 % 2 ^ 20
/-- A slot or frame key belongs to a die of a realm. -/
def onDie (rid die k : Nat) : Bool := keyRid k == rid && coreDie (keyCore k) == die

namespace State

/-! ### Progress and time (R389) -/

/-- Tasks of a die that are started and have not reached DONE: each owns a frame. -/
def startedOn (s : State) (rid die : Nat) : Nat := (s.frames.filter fun p => onDie rid die p.1 && p.2.used).length
/-- The busy mask of a die: [0] tasks, [1] Trail, [2] its DCP holds an issued WAIT, BRANCH or FENCE (R389, R392). -/
def busyMask (s : State) (rid die : Nat) : Nat :=
  let d := s.dieSt (dieKey rid die)
  let waits := match d.dcq.cur with
    | some e => [4, 5, 7].contains (ofBytes e % 256)
    | none => false
  (if 0 < s.startedOn rid die then 1 else 0) + (if d.trail.running then 2 else 0) + (if waits then 4 else 0)
/-- dt cycles pass on a die of an ACTIVE realm: the waits of a Trail's head entry (R173), and the stall count (R389), which stands
still in D1 and D2 (R391). -/
def passDie (s : State) (rid die dt : Nat) : State :=
  let t := s.waitTrail rid die dt
  if wdWin (s.realm rid).wdogOn = 0 ∨ s.power ≠ 0 ∨ s.busyMask rid die = 0 then t
  else t.modDie (dieKey rid die) fun d => { d with stall := d.stall + dt }
/-- dt cycles pass. -/
def passTime (s : State) (dt : Nat) : State :=
  s.realms.foldl (fun t p => if p.2.state = 1 then (List.range p.2.n).foldl (fun u d => u.passDie p.1 d dt) t else t)
    { s with clock := s.clock + dt }

/-- A report of a die's watchdog: SCORE as for a unit of the die, with a count of its own (R363, R364, R392, log 96). -/
def wdReport (s : State) (rid die code detail addr w2 : Nat) : State := s.unitReport rid die 4 code detail addr die w2

/-! ### Pre-emption (R390) -/

/-- A wait in which the watchdog evicts a task: at a safe point, or in ELECT, VWRD or CQWAIT (R350, R390, log 52). BARA waits for its
reply at none (R262). -/
def preemptible : Wait → Bool
  | .job _ | .ring .. | .vsync .. | .watch .. | .again .. | .vread .. | .barReply .. | .barWait .. | .claim _
  | .join .. => true
  | _ => false
/-- A wait whose time to read again has come while its task is evicted: it waits for the next report, or the next limit. -/
def watching : Wait → Wait
  | .again l va thr cell => .watch l va thr cell
  | w => w
/-- Every task of the die that waits so is evicted. -/
def preemptDie (s : State) (rid die : Nat) : State :=
  (s.slots.filter fun p => onDie rid die p.1 && p.2.busy && preemptible p.2.wait).foldl
    (fun t p => (t.modSlot p.1 fun x => { x with wait := watching x.wait }).evict rid (keyCore p.1) (p.1 % 16) allLive false) s

/-! ### Kills (R362, R390, R392) -/

/-- What refers to a task that is killed while it waits is cut off: its place in a ready queue, the replies to its requests, and
its XJOIN. -/
def forgetTask (s : State) (rid core frame : Nat) : State :=
  let mine (r c f : Nat) : Bool := r == rid && c == core && f == frame
  let keep (i : ReadyItem) : Bool := match i with
    | .resumed f _ => f != frame
    | .fresh _ => true
  let t := s.modCore (coreKey rid core) fun c =>
    { c with urgent := c.urgent.filter keep, normal := c.normal.filter keep, backgr := c.backgr.filter keep }
  let arr (b : BarArr) : BarArr := if mine b.rid b.core b.frame then { b with frame := 16 } else b
  let rep (b : BarRep) : BarRep := if mine b.rid b.core b.frame then { b with frame := 16 } else b
  let t : State := { t with barNet := t.barNet.map arr, barReps := t.barReps.map rep,
                            watches := t.watches.filter fun w => !mine w.rid w.core w.frame }
  let cut (q : DcqReq) : DcqReq := if q.core == core && q.frame == frame then { q with frame := 16 } else q
  let t := (t.dies.filter fun p => p.1 / 64 == rid).foldl (fun u p => u.modDcq p.1 fun d => { d with reqs := d.reqs.map cut }) t
  (t.experts.filter fun p => p.1 / 2 ^ 30 == rid).foldl (fun u p => u.modExpert p.1 fun e =>
    { e with waiters := e.waiters.filter fun w => !(w.1 == core && w.2.1 == frame) }) t

/-- The WDKILL record of a task at an offset (R364, R392): A0 to A2. -/
def wdKillRec (s : State) (rid core hix frame slot pc detail : Nat) : Word × Word × Word :=
  let half := s.rdLmNum rid core pc 2
  let word := if 0x30000 ≤ pc then 0 else if half % 2 = 1 then s.rdLmNum rid core pc 4 else half
  (recA0 hix frame slot pc (half % 2 == 0 && pc < 0x30000) false detail 0x41, 0#64, BitVec.ofNat 64 word)

/-- Whether a kill of this task is a double fault: a task of the trap handlers on the trap handler core (R391). -/
def killDoubles (s : State) (rid core hix : Nat) : Bool := core == (s.realm rid).trapc && (hix == 0xEF || hix == 0xEE)

/-- Kill an evicted task (R362): as the kill of a slot's, with its resume word's offset (R392) and CYC as it was at the detection (R364). -/
def killEvicted (s : State) (rid core frame cyc : Nat) (rec : Option (Word × Word × Word)) : State :=
  let fk := unitKey rid core frame
  let fr := s.frameSt fk
  let k := coreKey rid core
  let t := s.releaseBy rid core frame 4
  let t := match rec with
    | some (a0, a1, a2) =>
      let seq := (t.coreSt k).fseq
      (t.send (t.recordMsg rid core a0 a1 a2
        (BitVec.ofNat 64 (seq % 2 ^ 32 * 2 ^ 32 + cyc % 2 ^ 32)))).modCore k
          fun c => { c with fseq := c.fseq + 1 }
    | none => t
  (((t.killClaim rid core frame).modFrame fk fun _ => {}).forgetTask rid core frame).groupDone rid fr.grp

/-- Kill the started task of a frame, in a slot (DETAIL 0) or evicted in a wait (DETAIL 1), as the watchdog does (R390 to R392); `cyc` is
CYCLE when the watchdog decided to. -/
def killFrame (s : State) (rid core frame cyc : Nat) : State :=
  match s.slotOf rid core frame with
  | some i =>
    let sl := s.slotSt (unitKey rid core i)
    let t := s.forgetTask rid core frame
    if s.killDoubles rid core sl.hix then (t.killTask rid core i cyc none).deviceHalt rid 0xEF
    else t.killTask rid core i cyc (some (s.wdKillRec rid core sl.hix frame i (sl.pc.toNat % 2 ^ 18) 0))
  | none =>
    let fr := s.frameSt (unitKey rid core frame)
    let pc := bitsOf (s.rdLmNum rid core (frameBase frame) 8) 17 0
    if s.killDoubles rid core fr.hix then (s.killEvicted rid core frame cyc none).deviceHalt rid 0xEF
    else s.killEvicted rid core frame cyc (some (s.wdKillRec rid core fr.hix frame 0 pc 1))

/-- The kills of a die that are not complete are tried: those whose release waits stay (R362, R390). CYC of a kill's record is
CYCLE at the beginning of stage KILL (R364, log 95). -/
def runKills (s : State) (rid die : Nat) : State :=
  let k := dieKey rid die
  (s.dieSt k).kills.foldl (fun t q =>
    if !t.canReleaseBy rid q.1 q.2 4 then t.releaseBy rid q.1 q.2 4
    else (t.killFrame rid q.1 q.2 (s.cycle k - (s.clock - (s.dieSt k).wat))).modDie k fun d => { d with kills := d.kills.filter (· != q) }) s

/-- Every started task of the die is to be killed; none of them issues, resumes or becomes ready any more. -/
def startKills (s : State) (rid die : Nat) : State :=
  let all := (s.frames.filter fun p => onDie rid die p.1 && p.2.used).map fun p => (keyCore p.1, p.1 % 16)
  let t := s.modDie (dieKey rid die) fun d => { d with kills := d.kills ++ all.filter fun q => !d.kills.contains q }
  (all.foldl (fun u q => (u.forgetTask rid q.1 q.2).modFrame (unitKey rid q.1 q.2) fun f => { f with ready := true }) t).runKills
    rid die

/-- Fence a core with an incomplete kill: its outbound queue is discarded (R390, R392, log 97). -/
def fenceCore (s : State) (rid core n : Nat) : State :=
  let k := coreKey rid core
  let t := s.modCore k fun c => { c with fenced := true, outq := [] }
  { t with
    net := t.net.filter fun m => !(m.rid == rid && m.score == core && m.out.isSome)
    rnet := t.rnet.filter fun r => !(r.rid == rid && r.src == core)
    farQ := t.farQ.filter fun r => !(r.rid == rid && r.core == core && r.unit.isNone)
      && !r.ask.any fun (a : Asker) => a.ev.isNone && a.rid == rid && a.core == core }.coreReport rid core 0x43 0 core n 0

end State

/-! ### The stages (R390, R391) -/

/-- WDOG_STALL_LIMIT: the count has reached WIN × 1,024: WDPREEMPT, and every waiting task of the die is evicted. -/
def execWdogStallLimit (s : State) : Res :=
  let rid := s.cur.rid
  let die := s.cur.die
  let k := dieKey rid die
  let w := wdWin (s.realm rid).wdogOn
  if (s.realm rid).state != 1 || w == 0 || (s.realm rid).n ≤ die || (s.dieSt k).wstage != 0 || (s.dieSt k).stall < w then .next s
  else
    let t := s.wdReport rid die 0x40 (s.busyMask rid die) 0 (s.startedOn rid die)
    .next ((t.modDie k fun d => { d with wstage := 1, wat := s.clock }).preemptDie rid die)

/-- WDOG_T1_EXPIRY: T1 has passed in PREEMPT without progress: back to quiet where the watchdog reports only, else the die's DCP and
Trail stop with WDSTOP, and every started task is killed (log 95). -/
def execWdogT1Expiry (s : State) : Res :=
  let rid := s.cur.rid
  let die := s.cur.die
  let k := dieKey rid die
  let c := (s.realm rid).wdogOn
  let d := s.dieSt k
  if (s.realm rid).state != 1 || (s.realm rid).n ≤ die || d.wstage != 1 || s.clock < d.wat + wdT1 c then .next s
  else if wdRonly c then .next (s.modDie k fun x => { x with wstage := 0, stall := 0 })
  else
    let detail := (if d.trail.running then 1 else 0) + (if d.dcq.cur.isSome then 2 else 0)
    let addr := if d.dcq.cur.isSome then (s.realm rid |>.dcqt.get {} die).base.toNat
      + 64 * (d.dcq.head % 2 ^ (s.realm rid |>.dcqt.get {} die).k) else 0
    let t := s.modDie k fun x =>
      { x with wstage := 2, wat := s.clock, dcq := { x.dcq with stopped := true },
               trail := { x.trail with running := false, stopped := true, again := x.trail.again || x.trail.running } }
    .next ((t.wdReport rid die 0x42 detail addr d.trail.head).startKills rid die)

/-- WDOG_KILLS_COMPLETE: kills whose releases have ended are completed; with the last of them a watchdog in KILL returns to
quiet. -/
def execWdogKillsComplete (s : State) : Res :=
  let rid := s.cur.rid
  let die := s.cur.die
  let k := dieKey rid die
  if !s.acts rid || (s.realm rid).n ≤ die then .next s
  else
    let t := s.runKills rid die
    if (t.dieSt k).wstage = 2 ∧ (t.dieSt k).kills = [] then .next (t.modDie k fun d => { d with wstage := 0, stall := 0 }) else .next t

/-- WDOG_T2_EXPIRY: T2 has passed in KILL with a kill incomplete: its cores are fenced and the realm halts. -/
def execWdogT2Expiry (s : State) : Res :=
  let rid := s.cur.rid
  let die := s.cur.die
  let k := dieKey rid die
  let d := s.dieSt k
  if (s.realm rid).state != 1 || (s.realm rid).n ≤ die || d.wstage != 2 || d.kills.isEmpty
      || s.clock < d.wat + wdT2 (s.realm rid).wdogOn then .next s
  else
    let cores := (d.kills.map (·.1)).eraseDups
    let t := cores.foldl (fun u c => u.fenceCore rid c (d.kills.filter (·.1 == c)).length) s
    let t := t.modDie k fun x => { x with kills := [], wstage := 0, stall := 0 }
    .next ((t.modRealm rid fun r => { r with fenced := true }).deviceHalt rid 0xF0)

end Sys2Proof.Machine
end

