-- ==== Sys2Proof/Machine/Realms.lean ====
section
/-! DEFINITION. Realms (21_host_realms_power.md, R346 to R352, R360; 24_watchdog_preemption.md, R388, R393 to R395): the commands of
RCMD, the end of each, their limits, and realm images. The turn's `rid` is the realm, `inp.a` the value written to RCMD. -/

namespace Sys2Proof.Config

/-- The bytes of an image section whose content the manual does not lay out, by kind, die and position (R351, log 17). -/
opaque sectionBytes : Sys2Proof.Machine.Image → Nat → Nat → Nat → List Byte

end Sys2Proof.Config

namespace Sys2Proof.Machine

/-! ### The bytes of an image (R351) -/

/-- The control page's registers, DMAP excepted, in the order of their offsets (R346, R351, log 17). -/
def regsBytes (r : RealmSt) : List Byte :=
  ([0x010, 0x018, 0x020, 0x028, 0x030, 0x038, 0x040, 0x048, 0x050, 0x058, 0x060, 0x068, 0x070, 0x080]
    ++ ((List.range 128).map fun i => 0x200 + 8 * i) ++ ((List.range 256).map fun i => 0x600 + 8 * i)).flatMap
      fun o => toBytes 8 (r.pageWord o)
/-- The bytes of a section. -/
def Image.section_ (img : Image) (kind die pos : Nat) : List Byte :=
  match kind with
  | 1 => regsBytes img.regs
  | 2 =>
    let a := lmAddr 0 (mkCore die (pos / 128) (pos % 128)) 0 - lmFirst 0
    (List.range 0x30000).map fun i => img.lm.get memDefault (a + i)
  | _ => Config.sectionBytes img kind die pos
/-- A section record (R351). -/
def SecRec.bytes (r : SecRec) : List Byte :=
  toBytes 8 (r.kind + r.die * 2 ^ 8 + r.pos * 2 ^ 16) ++ toBytes 8 r.off ++ toBytes 8 r.size ++ toBytes 8 0
/-- A section record from its 32 bytes. -/
def SecRec.ofRec (bs : List Byte) : SecRec :=
  let w (i : Nat) : Nat := ofBytes ((bs.drop (8 * i)).take 8)
  { kind := bitsOf (w 0) 7 0, die := bitsOf (w 0) 13 8, pos := bitsOf (w 0) 29 16, off := w 1, size := w 2 }
/-- The header (R351). -/
def Image.head (img : Image) : List Byte :=
  toBytes 4 img.magic ++ toBytes 2 img.version ++ toBytes 2 img.mstep ++ toBytes 1 img.n ++ toBytes 3 0 ++ toBytes 4 img.count
    ++ toBytes 8 img.size ++ (img.digest ++ toBytes 32 0).take 32 ++ toBytes 8 0
/-- The byte at an image offset behind the directory: of the section that covers it, if one does (R351, log 17). -/
def Image.byteAt (img : Image) (o : Nat) : Byte :=
  match img.secs.find? fun r => r.off ≤ o && o < r.off + r.size with
  | some r => (img.section_ r.kind r.die r.pos)[o - r.off]?.getD 0#8
  | none => img.gaps.get 0#8 o
/-- The bytes that follow the header: the directory, and what the image holds behind it (R351). -/
def Image.body (img : Image) : List Byte :=
  let start := 64 + img.dir.length
  img.dir ++ (List.range (img.size - start)).map fun i => img.byteAt (start + i)
/-- An image of which the header and the records have been read from host memory. -/
def Image.withHead (img : Image) (bs : List Byte) : Image :=
  let f (i n : Nat) : Nat := ofBytes ((bs.drop i).take n)
  { img with magic := f 0 4, version := f 4 2, mstep := f 6 2, n := f 8 1, count := f 12 4, size := f 16 8,
             digest := (bs.drop 24).take 32, dir := (bs.drop 64).take (32 * f 12 4),
             secs := (List.range (f 12 4)).map fun i => SecRec.ofRec ((bs.drop (64 + 32 * i)).take 32) }
/-- The digest of the bytes that follow an image's header (R351, log 10). -/
def imageDigest (img : Image) : List Byte := sha256 img.body

/-- The extents of a scatter list: host address and length in 4 KiB units (R346). -/
def extentsOf (bs : List Byte) : List (Nat × Nat) :=
  (List.range (bs.length / 16)).map fun i => (ofBytes ((bs.drop (16 * i)).take 8), ofBytes ((bs.drop (16 * i + 8)).take 8))
/-- How many bytes a scatter list covers. -/
def covered (es : List (Nat × Nat)) : Nat := (es.map fun e => 4096 * e.2).foldl (· + ·) 0
/-- Posted writes of consecutive bytes, of at most 512 bytes each (R342). -/
def postedWrites (a : Nat) (bs : List Byte) : List HostOut :=
  (List.range ((bs.length + 511) / 512)).map fun i => .write (a + 512 * i) ((bs.drop (512 * i)).take 512)
/-- Posted writes of bytes into the extents of a scatter list, in their order (R346, R351). -/
def scatter : List (Nat × Nat) → List Byte → List HostOut
  | [], _ => []
  | (a, k) :: rest, bs => postedWrites a (bs.take (4096 * k)) ++ scatter rest (bs.drop (4096 * k))

/-! ### What belongs to a realm -/

namespace Hw

/-- Combine two sets of tables, table by table: each with the number of keys that a realm owns in it, and its default. -/
def zip (f : ∀ {α : Type} [DecidableEq α], Nat → α → Tab α → Tab α → Tab α) (g h : Hw) : Hw :=
  { slots := f (2 ^ 24) {} g.slots h.slots
    frames := f (2 ^ 24) {} g.frames h.frames
    xregs := f (2 ^ 29) 0#64 g.xregs h.xregs
    fregs := f (2 ^ 29) 0#32 g.fregs h.fregs
    pregs := f (2 ^ 27) 0#64 g.pregs h.pregs
    vregs := f (2 ^ 35) 0#32 g.vregs h.vregs
    counters := f (2 ^ 28) {} g.counters h.counters
    handlers := f (2 ^ 28) 0#64 g.handlers h.handlers
    rings := f (2 ^ 24) {} g.rings h.rings
    cdescs := f (2 ^ 24) 0#64 g.cdescs h.cdescs
    doneTab := f (2 ^ 28) 0xFFFFFFFF#32 g.doneTab h.doneTab
    cores := f (2 ^ 20) {} g.cores h.cores
    octets := f (64 * 1280) {} g.octets h.octets
    clusters := f (64 * 320) {} g.clusters h.clusters
    dies := f 64 {} g.dies h.dies
    emem := f (2 ^ 36) 0#8 g.emem h.emem
    epoison := f (2 ^ 33) false g.epoison h.epoison
    groups := f (2 ^ 32) {} g.groups h.groups
    unitSeq := f 512 0 g.unitSeq h.unitSeq
    barInsts := f (2 ^ 31) {} g.barInsts h.barInsts
    views := f (2 ^ 16) {} g.views h.views
    vblocks := f (2 ^ 48) {} g.vblocks h.vblocks
    masters := f (2 ^ 64) {} g.masters h.masters
    experts := f (2 ^ 30) {} g.experts h.experts }

/-- The tables without what a realm owns. -/
def purge (rid : Nat) (h : Hw) : Hw := zip (fun w _ t _ => t.clear (rid * w) ((rid + 1) * w)) h {}
/-- What a realm owns, by key without the realm id. -/
def take (rid : Nat) (h : Hw) : Hw :=
  zip (fun w _ t _ => (t.slice (rid * w) ((rid + 1) * w)).map fun p => (p.1 - rid * w, p.2)) h {}
/-- Put what an image holds under a realm id; keys that are no realm's are left out. -/
def put (rid : Nat) (h img : Hw) : Hw :=
  zip (fun w d t u => t.setAll d ((u.filter fun p => p.1 < w).map fun p => (rid * w + p.1, p.2))) h img

end Hw

namespace State

/-- Ports forget the message of a realm whose flits they still send: nobody awaits its answer. -/
def forgetPorts (s : State) (rid : Nat) : State :=
  { s with ports := s.ports.map fun p => (p.1, if p.2.txMsg.any (·.rid == rid) then { p.2 with txMsg := none } else p.2) }
/-- Everything that belongs to a realm returns to its reset content, and what is on its way for it is lost; the tails that doorbells
gave are kept (R345, R348). -/
def purge (s : State) (rid : Nat) : State :=
  let tails := (s.dies.filter fun p => p.1 / 64 == rid).map fun p => (p.1, p.2.dcq.htail, p.2.dcq.bell)
  let t : State := { s with
    toHw := s.toHw.purge rid
    mem := s.mem.clear (lmFirst rid) (lmFirst rid + lmSpan)
    poison := s.poison.clear (lmFirst rid / 8) ((lmFirst rid + lmSpan) / 8)
    net := s.net.filter (·.rid != rid), rnet := s.rnet.filter (·.rid != rid), replies := s.replies.filter (·.rid != rid)
    agentQ := s.agentQ.filter (·.rid != rid), farQ := s.farQ.filter (·.rid != rid), watches := s.watches.filter (·.rid != rid)
    reports := s.reports.filter (·.rid != rid), barNet := s.barNet.filter (·.rid != rid), barReps := s.barReps.filter (·.rid != rid)
    barDones := s.barDones.filter (·.rid != rid), slotRets := s.slotRets.filter (·.1 != rid)
    sentMsgs := s.sentMsgs.filter (·.rid != rid), hostRds := s.hostRds.filter (·.rid != rid)
    unitLines := s.unitLines.filter (·.ask.rid != rid) }
  tails.foldl (fun u p => u.modDcq p.1 fun d => { d with htail := p.2.1, bell := p.2.2 }) (t.forgetPorts rid)

/-- The keys of a realm's key ids are erased (R347). -/
def eraseKeys (s : State) (rid : Nat) : State :=
  let r := s.realm rid
  { s with keySer := s.keySer.clear r.kbase (r.kbase + r.kcnt) }
/-- A new key for each key id of a realm (R360). -/
def makeKeys (s : State) (rid : Nat) : State :=
  let r := s.realm rid
  { s with keySer := s.keySer.setAll 0 ((List.range r.kcnt).map fun i => (r.kbase + i, s.keyNext + i)),
           keyNext := s.keyNext + r.kcnt }

/-! ### The checks of the commands (R346, R347, R388, R394) -/

/-- The physical dies that a realm's registers name. -/
def namedDies (r : RealmSt) : List Nat := (List.range r.n).map fun i => r.dmap[i]?.getD 0
/-- Another realm that is not FREE holds a die that this realm names (R394). -/
def dieTaken (s : State) (rid : Nat) : Bool :=
  s.realms.any fun p => p.1 != rid && p.2.state != 0 && (namedDies p.2).any fun d => (namedDies (s.realm rid)).contains d
/-- Another realm that is not FREE has a key id of this one's (R346, R360). -/
def keyTaken (s : State) (rid base cnt : Nat) : Bool :=
  s.realms.any fun p => p.1 != rid && p.2.state != 0 && 0 < cnt && 0 < p.2.kcnt && base < p.2.kbase + p.2.kcnt
    && p.2.kbase < base + cnt
/-- NDIE, DMAP, KEYS and ROOT are valid (R346, R347, log 90). -/
def regsValid (s : State) (rid : Nat) : Bool :=
  let r := s.realm rid
  1 ≤ r.n && r.n ≤ 64 && (namedDies r).all (· < 64) && (namedDies r).eraseDups.length == r.n
    && r.kbase + r.kcnt ≤ 256 && !s.keyTaken rid r.kbase r.kcnt && pteTableOk r.n r.root

/-- A command ends: RSTATE[15:8], and its vector (R347). -/
def endCmd (s : State) (rid err vec : Nat) : State := (s.modRealm rid fun r => { r with err := err }).toHost (.msi vec)
/-- The vector that a value written to RCMD names (R346). -/
def cmdVec (s : State) : Nat := bitsOf s.cur.inp.a 26 16
/-- A command that the state of the realm does not allow (R394). -/
def badCmd (s : State) : State := s.endCmd s.cur.rid 0x01 s.cmdVec
/-- A command of the host: its write is a host access, which wakes the module (R356), and needs the host link (R406). `go` runs
where the realm is in the state the command needs. -/
def command (s : State) (need : Nat → Bool) (go : State → State) : State :=
  if !s.hostReady || 64 ≤ s.cur.rid then s
  else
    let t := s.wake
    if need (t.realm s.cur.rid).state then go t else t.badCmd

end State

/-! ### CREATE (R348) -/

/-- CREATE: the dies of DMAP are the realm's, at the state that R348 lists; each key id gets a key (R360, log 86). A module whose
service a failed hop has ended accepts it no more (R404, log 127). -/
def execCreate (s : State) : Res :=
  .next (s.command (· == 0) fun t =>
    let rid := t.cur.rid
    if t.hopDown then t.badCmd
    else if !t.regsValid rid then t.endCmd rid 0x02 t.cmdVec
    else if t.dieTaken rid then t.endCmd rid 0x03 t.cmdVec
    else if wdBad (t.realm rid).wdogcfg then t.endCmd rid 0x04 t.cmdVec
    else
      let u := ((t.purge rid).makeKeys rid).modRealm rid fun r =>
        { r with state := 1, dberr := false, dlovf := false, reason := 0, vecUp := t.cmdVec, devHalt := false, wdogOn := r.wdogcfg,
                 torn := false, fenced := false, inving := false, tlbinving := false, meas := sha256 (regsBytes r) }
      let v := (List.range (t.realm rid).n).foldl (fun w d => w.modDie (dieKey rid d) fun x => { x with base := t.clock }) u
      v.endCmd rid 0 t.cmdVec)

/-! ### HALT (R349, R350, R393) -/

namespace State

/-- HALT of a realm (R349, R391). -/
def haltRealm (s : State) (rid vec : Nat) : State := (s.beginHalt rid).modRealm rid fun r => { r with vec := vec }

/-- Whether a core of a slot or frame key runs on: it is not fenced (R390). -/
def unfenced (s : State) (k : Nat) : Bool := !(s.coreSt (k / 16)).fenced

/-- Whether a processor is inside an entry that has acted already: a LAUNCH or TILES (R164, R165, R349). -/
def curBegun (d : DcqSt) : Bool := d.cur.isSome && (d.prog != 0 || d.loaded != 0)
/-- A port holds flits of a message of the realm. -/
def portHolds (s : State) (rid : Nat) : Bool := s.ports.any fun p => p.2.txMsg.any (·.rid == rid)
/-- Everything that R349 waits for has ended (log 94). -/
def haltDone (s : State) (rid : Nat) : Bool :=
  let core (p : Nat × CoreSt) : Bool := p.1 / 2 ^ 20 != rid || p.2.fenced ||
    (p.2.cbuf.isEmpty && p.2.outq.isEmpty && p.2.evq.isEmpty && p.2.owing.isNone && p.2.mq.isEmpty && p.2.fifo.isEmpty
      && p.2.engPend.isEmpty)
  let die (p : Nat × DieSt) : Bool := p.1 / 64 != rid ||
    (p.2.creqs.isEmpty && p.2.xdrop.isNone && p.2.walks.isEmpty && p.2.walkQ.isEmpty && p.2.kills.isEmpty && p.2.dcq.reqs.isEmpty && !p.2.dcq.flush
      && !curBegun p.2.dcq)
  s.slots.all (fun p => keyRid p.1 != rid || !p.2.busy || !s.unfenced p.1)
    && s.frames.all (fun p => keyRid p.1 != rid || p.2.vops.isEmpty || !s.unfenced p.1)
    && s.cores.all core && s.dies.all die
    && s.octets.all (fun p => p.1 / (64 * 1280) != rid || (p.2.sfu.isEmpty && p.2.running.isNone))
    && s.vblocks.all (fun p => p.1 / 2 ^ 48 != rid || p.2.st != .regen)
    && s.experts.all (fun p => p.1 / 2 ^ 30 != rid || p.2.vq.isEmpty)
    && s.groups.all (fun p => p.1 / 2 ^ 32 != rid || !(p.2.closed && p.2.left == 0 && !p.2.trail))
    && s.net.all (·.rid != rid) && s.rnet.all (·.rid != rid) && s.replies.all (·.rid != rid) && s.agentQ.all (·.rid != rid)
    && s.farQ.all (·.rid != rid) && s.reports.all (·.rid != rid) && s.barNet.all (·.rid != rid) && s.barReps.all (·.rid != rid)
    && s.barDones.all (·.rid != rid) && s.slotRets.all (·.1 != rid) && s.sentMsgs.all (·.rid != rid) && !s.portHolds rid

/-- The realm is HALTED: the vector of HALT, or, where the device halted it, that of the command that last made it ACTIVE
(R412). -/
def becomeHalted (s : State) (rid err : Nat) : State :=
  let r := s.realm rid
  (s.modRealm rid fun q => { q with state := 3, devHalt := false }).endCmd rid err (if r.devHalt then r.vecUp else r.vec)

end State

/-- HALT. -/
def execHalt (s : State) : Res := .next (s.command (· == 1) fun t => t.haltRealm t.cur.rid t.cmdVec)

/-- HALT_COMPLETE (R349, R412). -/
def execHaltComplete (s : State) : Res :=
  let rid := s.cur.rid
  if (s.realm rid).state ≠ 2 ∨ !s.haltDone rid then .next s else .next (s.becomeHalted rid (s.realm rid).reason)

namespace State

/-- What is still on its way for a realm, and the commands of its engines, are discarded (R393). -/
def discardAll (s : State) (rid : Nat) : State :=
  let t : State := { s with
    net := s.net.filter (·.rid != rid), rnet := s.rnet.filter (·.rid != rid), replies := s.replies.filter (·.rid != rid)
    farQ := s.farQ.filter (·.rid != rid), reports := s.reports.filter (·.rid != rid), barNet := s.barNet.filter (·.rid != rid)
    barReps := s.barReps.filter (·.rid != rid), barDones := s.barDones.filter (·.rid != rid)
    slotRets := s.slotRets.filter (·.1 != rid), sentMsgs := s.sentMsgs.filter (·.rid != rid)
    unitLines := s.unitLines.filter (·.ask.rid != rid) }
  let t := t.forgetPorts rid
  let t := (t.cores.filter fun p => p.1 / 2 ^ 20 == rid).foldl (fun u p => u.modCore p.1 fun c =>
    { c with outq := [], evq := [], mq := [], fifo := [], engPend := [], engFault := [] }) t
  let t := (t.octets.filter fun p => p.1 / (64 * 1280) == rid).foldl (fun u p => u.modOctet p.1 fun o => { o with running := none }) t
  (t.dies.filter fun p => p.1 / 64 == rid).foldl (fun u p => u.modDie p.1 fun d =>
    { d with creqs := [], xdrop := none, walks := [], walkQ := [], kills := [], dcq := { d.dcq with reqs := [], flush := false } }) t
/-- Every task of a realm that is still in a slot is killed with WDKILL, DETAIL 2 (R393). -/
def killSlots (s : State) (rid : Nat) : State :=
  (s.slots.filter fun p => keyRid p.1 == rid && p.2.busy).foldl (fun t p =>
    let core := keyCore p.1
    (t.forgetTask rid core p.2.frame).killTask rid core (p.1 % 16) (t.cycle (dieKey rid (coreDie core)))
      (some (t.wdKillRec rid core p.2.hix p.2.frame (p.1 % 16) (p.2.pc.toNat % 2 ^ 18) 2))) s
/-- Every combining buffer of a realm drains, and its requests are performed at their homes (R349). -/
def drainRealm (s : State) (rid : Nat) : State :=
  ((s.cores.filter fun p => p.1 / 2 ^ 20 == rid).foldl (fun t p => t.drainAll rid (p.1 % 2 ^ 20)) s).flushAgent (·.rid == rid)

end State

/-- HALT_LIMIT: HALTING has reached HLIM: the tasks still in slots are killed, what is outstanding is discarded, and the realm is
HALTED and inconsistent (R393, log 81). -/
def execHaltLimit (s : State) : Res :=
  let rid := s.cur.rid
  let r := s.realm rid
  if r.state ≠ 2 ∨ wdHlim r.wdogOn = 0 ∨ s.clock < r.cmdAt + wdHlim r.wdogOn then .next s
  else
    let t := (((s.drainRealm rid).discardAll rid).killSlots rid).modRealm rid fun q => { q with torn := true }
    .next (t.becomeHalted rid (if r.devHalt then r.reason else 0x20))

/-! ### Images (R351, R352) -/

/-- An image's section records: kind 1 once, kinds 2 to 4 per core, 5 per octet (at its first core), 6 per die, 7 once. -/
def imageSections (n : Nat) : List (Nat × Nat × Nat) :=
  let dies := List.range n
  let cores := List.range 10240
  [(1, 0, 0)] ++ (dies.flatMap fun d => cores.flatMap fun p => [(2, d, p), (3, d, p), (4, d, p)])
    ++ (dies.flatMap fun d => (List.range 1280).map fun i => (5, d, 8 * i)) ++ (dies.map fun d => (6, d, 0)) ++ [(7, 0, 0)]
/-- Lay sections one after another from an offset on (log 17). -/
def layOut (img : Image) : Nat → List (Nat × Nat × Nat) → List SecRec × Nat
  | off, [] => ([], off)
  | off, (k, d, p) :: rest =>
    let size := (img.section_ k d p).length
    let (rs, last) := layOut img (off + size) rest
    ({ kind := k, die := d, pos := p, off := off, size := size } :: rs, last)

/-- Memory granules of 4 KiB by physical die, with the die exchanged by `f` (R132). -/
def moveMarks (f : Nat → Nat) (v : ViewSt) : ViewSt :=
  { v with marks := v.marks.map fun m => (f (m.1 / 2 ^ 27) * 2 ^ 27 + m.1 % 2 ^ 27, m.2) }
/-- A core as an image holds it: what only this module's clock measures is left out. -/
def imageCore (c : CoreSt) : CoreSt := { c with backoff := 0 }
/-- A die as an image holds it. -/
def imageDie (d : DieSt) : DieSt :=
  { d with base := 0, carry := 0, frozen := false, stall := 0, wstage := 0, wat := 0,
           dcq := { d.dcq with flush := false, htail := 0, bell := false } }
/-- What an image's section of kind 1 holds: the control page's registers, DMAP excepted (R346, R351). -/
def imageRegs (r : RealmSt) : RealmSt :=
  { n := r.n, root := r.root, kbase := r.kbase, kcnt := r.kcnt, trapc := r.trapc, wdogcfg := r.wdogcfg, bart := r.bart,
    sigpol := r.sigpol, sigkeys := r.sigkeys, wbase := r.wbase, dlbase := r.dlbase, dlctl := r.dlctl, dlhead := r.dlhead,
    dlread := r.dlread, invva := r.invva, imglist := r.imglist, dcqt := r.dcqt, hqt := r.hqt }
/-- An expert as an image holds it: the age of its window in place of the clock at its start. -/
def imageExpert (clock : Nat) (e : Expert) : Expert := { e with winAt := clock - e.winAt }
/-- Map the values of a table. -/
def mapVals {α : Type} (f : α → α) (t : Tab α) : Tab α := t.map fun p => (p.1, f p.2)

namespace State

/-- The image of a realm (R351). Device memory is no part of it. -/
def imageOf (s : State) (rid : Nat) : Image :=
  let r := s.realm rid
  let h := s.toHw.take rid
  let logical (p : Nat) : Nat := (namedDies r).idxOf p
  let hw : Hw := { h with views := mapVals (moveMarks logical) h.views, cores := mapVals imageCore h.cores,
                          dies := mapVals imageDie h.dies, experts := mapVals (imageExpert s.clock) h.experts, clusters := [] }
  let img : Image :=
    { magic := 0x01524D49, version := 1, mstep := s.mstep, n := r.n, regs := imageRegs r, hw := hw,
      lm := (s.mem.slice (lmFirst rid) (lmFirst rid + lmSpan)).map fun p => (p.1 - lmFirst rid, p.2),
      lmPoison := (s.poison.slice (lmFirst rid / 8) ((lmFirst rid + lmSpan) / 8)).map fun p => (p.1 - lmFirst rid / 8, p.2),
      keys := (List.range r.kcnt).map fun i => s.keySer.get 0 (r.kbase + i),
      cycles := (List.range r.n).map fun d => s.cycle (dieKey rid d) }
  let secs := imageSections r.n
  let (rs, size) := layOut img (64 + 32 * secs.length) secs
  let full := { img with secs := rs, dir := rs.flatMap SecRec.bytes, count := rs.length, size := size }
  { full with digest := imageDigest full }

end State

/-- SAVE (R351, R394): `inp.data` is the scatter list at IMGLIST, as read; `inp.c` is not 0 where it cannot be read. -/
def execSave (s : State) : Res :=
  .next (s.command (· == 3) fun t =>
    let rid := t.cur.rid
    let r := t.realm rid
    let es := extentsOf t.cur.inp.data
    if r.torn || r.fenced then t.endCmd rid 0x23 t.cmdVec
    else if t.cur.inp.c != 0 || covered es < (t.imageOf rid).size then t.endCmd rid 0x17 t.cmdVec
    else t.modRealm rid fun q => { q with state := 4, vec := t.cmdVec, cmdAt := t.clock, err := 0, extents := es })

/-- SAVE_COMPLETE: the image has been written to host memory, into the extents of its scatter list; `inp.c` is not 0 where a write
failed. A die that a failed hop cuts off cannot send its sections (R351, R394, R404). -/
def execSaveComplete (s : State) : Res :=
  let rid := s.cur.rid
  let r := s.realm rid
  if r.state ≠ 4 then .next s
  else
    let t := s.modRealm rid fun q => { q with state := 3 }
    if s.cur.inp.c ≠ 0 || (State.namedDies r).any s.cutDies.contains then .next (t.endCmd rid 0x17 r.vec)
    else
      let img := s.imageOf rid
      .next (((scatter r.extents (img.head ++ img.body) ++ [HostOut.image img]).foldl State.toHost t).endCmd rid 0 r.vec)

/-- SAVE_LIMIT: SAVING has reached HLIM: the image ends incomplete, the digest of its header zero (R393). -/
def execSaveLimit (s : State) : Res :=
  let rid := s.cur.rid
  let r := s.realm rid
  if r.state ≠ 4 ∨ wdHlim r.wdogOn = 0 ∨ s.clock < r.cmdAt + wdHlim r.wdogOn then .next s
  else
    let part : Image := { (s.imageOf rid) with digest := List.replicate 32 0#8, hw := {}, lm := [], lmPoison := [], keys := [] }
    .next (((scatter r.extents part.head ++ [HostOut.image part]).foldl State.toHost (s.modRealm rid fun q => { q with state := 3 })).endCmd rid
      0x21 r.vec)

/-! ### RESTORE (R352, R394, R395) -/

/-- The first check that an image fails (R352, R394): `n` and `mstep` are the module's, `fault` says that the host's memory could
not be read (1) or the keys not unwrapped (2). -/
def imageBad (n mstep fault : Nat) (img : Image) : Option Nat :=
  if fault = 1 then some 0x17
  else if img.magic ≠ 0x01524D49 then some 0x10
  else if img.version ≠ 1 then some 0x11
  else if mstep < img.mstep then some 0x12
  else if img.n ≠ n then some 0x13
  else if img.digest ≠ imageDigest img ∨ img.digest.all (· == 0#8) then some 0x14
  else if img.secs.any fun r => r.kind = 0 || 7 < r.kind || n ≤ r.die || 10240 ≤ r.pos || img.size < r.off + r.size then some 0x15
  else if fault = 2 then some 0x16
  else none

namespace State

/-- Load an image into a realm whose registers name this module's dies (R352); CYCLE stands still until RESUME, and a tail that a
doorbell gave while the realm was FREE is kept (R345). -/
def loadImage (s : State) (rid : Nat) (img : Image) : State :=
  let r := s.realm rid
  let t := s.purge rid
  let bells := (t.dies.filter fun p => p.1 / 64 == rid && p.2.dcq.bell).map fun p => (p.1, p.2.dcq.htail)
  let physical (l : Nat) : Nat := r.dmap[l]?.getD 0
  let fresh (i : ReadyItem) : ReadyItem := match i with
    | .fresh q => .fresh { q with since := s.clock }
    | .resumed f _ => .resumed f s.clock
  let core (c : CoreSt) : CoreSt :=
    { c with urgent := c.urgent.map fresh, normal := c.normal.map fresh, backgr := c.backgr.map fresh }
  let expert (e : Expert) : Expert := { e with winAt := s.clock - e.winAt }
  let hw : Hw := { img.hw with views := mapVals (moveMarks physical) img.hw.views, cores := mapVals core img.hw.cores,
                               experts := mapVals expert img.hw.experts, clusters := [] }
  let q : RealmSt :=
    { img.regs with state := 5, err := 0, dberr := false, dlovf := false, n := r.n, dmap := r.dmap, vec := r.vec, reason := 0,
                    devHalt := false, cmdAt := s.clock, torn := false, fenced := false, inving := false, tlbinving := false,
                    meas := sha256 (regsBytes img.regs) }
  let u : State := { t with
    toHw := t.toHw.put rid hw
    mem := t.mem.setAll memDefault ((img.lm.filter fun p => p.1 < lmSpan).map fun p => (lmFirst rid + p.1, p.2))
    poison := t.poison.setAll false ((img.lmPoison.filter fun p => p.1 < lmSpan / 8).map fun p => (lmFirst rid / 8 + p.1, p.2))
    keySer := t.keySer.setAll 0 (img.keys.zipIdx.map fun p => (img.regs.kbase + p.2, p.1))
    keyNext := img.keys.foldl (fun a k => max a (k + 1)) t.keyNext
    grpNext := img.hw.groups.foldl (fun a p => max a (p.1 + 1)) t.grpNext
    realms := t.realms.set {} rid q }
  let v := img.cycles.zipIdx.foldl (fun v p => v.modDie (dieKey rid p.2) fun d => { d with carry := p.1, frozen := true }) u
  let w := (List.range r.n).foldl (fun w i => w.modDcq (dieKey rid i) fun d => { d with htail := (img.regs.hqt.get {} i).head }) v
  bells.foldl (fun w p => w.modDcq p.1 fun d => { d with htail := p.2, bell := true }) w

/-- A realm is FREE again: its dies are released and its keys erased (R347). -/
def freeRealm (s : State) (rid : Nat) : State :=
  ((s.eraseKeys rid).purge rid).modRealm rid fun r =>
    { r with state := 0, reason := 0, devHalt := false, torn := false, fenced := false, inving := false, tlbinving := false }

end State

/-- RESTORE: the image that the host holds is checked, and, when every check has passed, its sections are loaded (R352, R395).
`inp.data` is the image's header and directory as read, `inp.img` what its sections hold, `inp.c` 1 where the host's memory cannot be
read and 2 where the keys cannot be unwrapped. -/
def execRestore (s : State) : Res :=
  .next (s.command (· == 0) fun t =>
    let rid := t.cur.rid
    if t.hopDown then t.badCmd
    else if t.dieTaken rid then t.endCmd rid 0x03 t.cmdVec
    else match t.cur.inp.img with
      | none => t.endCmd rid 0x17 t.cmdVec
      | some held =>
        let img := held.withHead t.cur.inp.data
        let fault := if t.keyTaken rid img.regs.kbase img.regs.kcnt && t.cur.inp.c == 0 then 2 else t.cur.inp.c
        match imageBad (t.realm rid).n t.mstep fault img with
        | some e => t.endCmd rid e t.cmdVec
        | none => (t.modRealm rid fun r => { r with vec := t.cmdVec }).loadImage rid img)

/-- RESTORE_COMPLETE: every section is loaded and the realm is HALTED; `inp.c` is not 0 where a host read failed (R352, R394). -/
def execRestoreComplete (s : State) : Res :=
  let rid := s.cur.rid
  let r := s.realm rid
  if r.state ≠ 5 then .next s
  else if s.cur.inp.c ≠ 0 then .next ((s.freeRealm rid).endCmd rid 0x17 r.vec)
  else .next ((s.modRealm rid fun q => { q with state := 3 }).endCmd rid 0 r.vec)

/-- RESTORE_LIMIT: RESTORING has lasted 2^30 cycles (R393). -/
def execRestoreLimit (s : State) : Res :=
  let rid := s.cur.rid
  let r := s.realm rid
  if r.state ≠ 5 ∨ s.clock < r.cmdAt + 2 ^ 30 then .next s else .next ((s.freeRealm rid).endCmd rid 0x22 r.vec)

/-! ### RESUME and DESTROY (R347, R352) -/

namespace State

/-- The evicted tasks of a realm are ready, core by core in the order of their resume words, behind the tasks that have not started; a
watched word is read again (R256, R349, R350, R352, log 93). -/
def releaseTasks (s : State) (rid : Nat) : State :=
  let next (w : Wait) : Wait := match w with
    | .watch .. => .none
    | w => w
  let waiting (i : ReadyItem) : Bool := match i with
    | .resumed .. => false
    | .fresh _ => true
  let t := (s.cores.filter fun p => p.1 / 2 ^ 20 == rid).foldl (fun u p => u.modCore p.1 fun c =>
    { c with urgent := c.urgent.filter waiting, normal := c.normal.filter waiting, backgr := c.backgr.filter waiting })
    { s with watches := s.watches.filter (·.rid != rid) }
  (s.frames.filter fun p => keyRid p.1 == rid && p.2.used && p.2.evicted).foldl (fun u p =>
    (u.modFrame p.1 fun f => { f with ready := true, wait := next f.wait }).pushReady (p.1 / 16) p.2.cls (.resumed (p.1 % 16) s.clock)) t

end State

/-- RESUME (R352, R388, R394, log 91, log 92). -/
def execResume (s : State) : Res :=
  .next (s.command (· == 3) fun t =>
    let rid := t.cur.rid
    let r := t.realm rid
    if t.hopDown then t.badCmd
    else if r.fenced then t.endCmd rid 0x23 t.cmdVec
    else if !t.regsValid rid || t.dieTaken rid then t.endCmd rid 0x02 t.cmdVec
    else if wdBad r.wdogcfg then t.endCmd rid 0x04 t.cmdVec
    else
      let go (d : DieSt) : DieSt :=
        { d with stall := 0, wstage := 0, base := if d.frozen then t.clock else d.base, frozen := false, dcq := { d.dcq with stopped := false },
                 trail := { d.trail with running := d.trail.running || d.trail.again, again := false, stopped := false } }
      let u := (t.dies.filter fun p => p.1 / 64 == rid).foldl (fun v p => v.modDie p.1 go) (t.releaseTasks rid)
      (u.modRealm rid fun q => { q with state := 1, vecUp := t.cmdVec, wdogOn := q.wdogcfg, reason := 0 }).endCmd rid 0 t.cmdVec)

/-- DESTROY (R347). -/
def execDestroy (s : State) : Res :=
  .next (s.command (fun st => st == 1 || st == 3) fun t => (t.freeRealm t.cur.rid).endCmd t.cur.rid 0 t.cmdVec)

/-- The commands that R347 allows in a state. -/
def commandAllowed (state cmd : Nat) : Bool :=
  match cmd with
  | 1 | 4 => state == 0
  | 2 => state == 1
  | 3 | 5 => state == 3
  | 6 => state == 1 || state == 3
  | _ => false

/-- REALM_COMMAND_INVALID: an unknown command, or one that the state does not allow (R347, R394). -/
def execRealmCommandInvalid (s : State) : Res :=
  .next (if commandAllowed (s.realm s.cur.rid).state (s.cur.inp.a % 256) then s else s.command (fun _ => false) id)

end Sys2Proof.Machine
end

