-- ==== Sys2Proof/Machine/Host.lean ====
section
/-! DEFINITION. The host port beside the realm commands (21_host_realms_power.md, R342 to R346, R353 to R359; 25_link_recovery.md,
R403 to R407; 26_prog_lane_loss.md, R410): apertures, registers, invalidations, power, the host link, and management. -/

namespace Sys2Proof.Machine

/-! ### Registers in BAR0 (R343, R346, R403, R406, R410) -/

namespace State

/-- A word of an entry of the MSI-X table: the address, or the data and the vector control (R342, log 103). -/
def msixWord (s : State) (o : Nat) : Nat :=
  let e := s.msix.get {} (o / 16)
  if o % 16 = 0 then e.addr.toNat else e.data.toNat + (if e.masked then 2 ^ 32 else 0)
/-- Write a word of an entry of the MSI-X table: a vector that may leave now and is pending leaves (R342, R406). -/
def putMsix (s : State) (o v : Nat) : State :=
  let n := o / 16
  let e := s.msix.get {} n
  let f : MsixEnt := if o % 16 = 0 then { e with addr := BitVec.ofNat 64 v }
    else { e with data := BitVec.ofNat 32 v, masked := v.testBit 32 }
  let t := { s with msix := s.msix.set {} n f }
  if t.pend.contains n && t.vecOn n then { t with pend := t.pend.filter (· != n) }.toHost (.msi n) else t

/-- The 8-byte register at an offset of BAR0 that is a multiple of 8 (R343); the MSI-X table stands at 0x08_0000 and its pending bits
at 0x09_0000 (log 103). -/
def barWord (s : State) (o : Nat) : Nat :=
  if 0x100000 ≤ o ∧ o < 0x500000 then (s.realm ((o - 0x100000) / 0x10000)).pageWord (o % 0x10000)
  else if 0x20000 ≤ o ∧ o < 0x22000 then
    ofBytes ((List.range 4).flatMap fun i => toBytes 2 (s.route.get 0 ((o - 0x20000) / 2 + i)))
  else if 0x10000 ≤ o ∧ o < 0x10800 then (s.port ((o - 0x10000) / 0x40)).reg (o % 0x40)
  else if 0x80000 ≤ o ∧ o < 0x88000 then s.msixWord (o - 0x80000)
  else if 0x90000 ≤ o ∧ o < 0x90100 then
    ((List.range 64).map fun i => if s.pend.contains (8 * (o - 0x90000) + i) then 2 ^ i else 0).foldl (· + ·) 0
  else match o with
  | 0x000 => s.mstep
  | 0x008 => s.fabid
  | 0x100 => s.ltol
  | 0x200 => s.hldown.toNat
  | _ => 0

/-- Write an 8-byte register of BAR0 that has no event of its own. -/
def putBar (s : State) (o v : Nat) : State :=
  if 0x100000 ≤ o ∧ o < 0x500000 then
    let rid := (o - 0x100000) / 0x10000
    let st := (s.realm rid).state
    if anyStateReg (o % 0x10000) || st == 0 || st == 3 then s.modRealm rid fun r => r.putPage (o % 0x10000) v else s
  else if 0x20000 ≤ o ∧ o < 0x22000 then
    { s with route := s.route.setAll 0 ((List.range 4).map fun i =>
        ((o - 0x20000) / 2 + i, v / 2 ^ (16 * i) % 2 ^ 16 &&& 0x801F)) }
  else if 0x10000 ≤ o ∧ o < 0x10800 then s.modPort ((o - 0x10000) / 0x40) fun x => x.putReg (o % 0x40) (BitVec.ofNat 64 v)
  else if 0x80000 ≤ o ∧ o < 0x88000 then s.putMsix (o - 0x80000) v
  else if o = 0x008 then { s with fabid := v % 4096 }
  else s

end State

/-- REGISTER_WRITE: the host writes the bytes `inp.data` at offset `inp.a` of BAR0, within one 8-byte register (R343, R346). RCMD, INVCTL,
LTOL and PCTL have events of their own. -/
def execRegisterWrite (s : State) : Res :=
  let o := s.cur.inp.a / 8 * 8
  let bs := s.cur.inp.data
  if !s.hostReady || bs.isEmpty || 8 < s.cur.inp.a % 8 + bs.length then .next s
  else
    let t := s.wake
    .next (t.putBar o (ofBytes (overlay (enumBytes (s.cur.inp.a % 8) bs) 0 0 (toBytes 8 (t.barWord o)))))

/-- LTOL_WRITE: the host writes `inp.b` to LTOL; a change of LTOL brings the module back to D0 (R343, R356). -/
def execLtolWrite (s : State) : Res := if !s.hostUp then .next s else .next { s.wake with ltol := s.cur.inp.b % 2 ^ 64 }

/-! ### Apertures (R344, R383) -/

namespace State

/-- The offset of an aperture that a WBASE in virtual mode gives an address. -/
def apOff (va : Nat) : Nat := va % 2 ^ 30
/-- APERR (R377, R383): I/O die 0 reports a failing access at an offset. -/
def apErr (s : State) (rid cause off : Nat) (write : Bool) : State :=
  s.unitReport rid 0 7 0x2A cause off (if write then 1 else 0) rid
/-- A failing access: a read completes with Unsupported Request, a write is discarded (R383). -/
def apFail (s : State) (rid cause off : Nat) (write : Bool) : State :=
  let t := s.apErr rid cause off write
  if write then t else t.toHost (.reply [] false true)

/-- The cause that a physical-mode access fails with (R344): a logical die that the realm has not, a key id outside its range, an
offset beyond the tier (log 98). -/
def physBad (s : State) (rid : Nat) (w : Word) (off : Nat) : Option Nat :=
  let r := s.realm rid
  let key := bitsOf w.toNat 15 8
  if r.n ≤ bitsOf w.toNat 63 58 then some 0x13
  else if if w.getLsbD 16 then key != 0 else !(r.kbase ≤ key && key < r.kbase + r.kcnt) then some 0x20
  else if (if w.getLsbD 7 then 0x3000000 else 0xC00000) * 4096 ≤ bitsOf w.toNat 57 30 * 2 ^ 30 + off then some 0x14
  else none
/-- The place of a physical-mode access (R344). -/
def physLoc (s : State) (rid : Nat) (w : Word) (off : Nat) : Loc :=
  .dev (s.pdieOf rid (bitsOf w.toNat 63 58)) (bitsOf w.toNat 7 7) (bitsOf w.toNat 57 30 * 2 ^ 30 + off)
    (if w.getLsbD 16 then 0 else s.keyOf (bitsOf w.toNat 15 8) (bitsOf w.toNat 63 58)) false
/-- The pieces of n bytes from an offset on that lie in one 64-byte line each: offset and length. -/
def linePieces (off : Nat) (n : Nat) : List (Nat × Nat) :=
  (List.range (n / 64 + 2)).filterMap fun i =>
    let a := if i = 0 then off else off / 64 * 64 + 64 * i
    let e := min (off + n) (off / 64 * 64 + 64 * i + 64)
    if a < e then some (a, e - a) else none

/-- A physical-mode read: under its key, or as the bytes are stored (R344). -/
def physRead (s : State) (rid : Nat) (w : Word) (off n : Nat) : State :=
  let l := s.physLoc rid w off
  let bs := (linePieces off n).flatMap fun p => s.rdLoc rid (l.plus (p.1 - off)) p.2
  ((linePieces off n).foldl (fun t _ => t.countServed l) s).toHost (.reply bs (s.poisoned (locAddr rid l) n) false)
/-- A physical-mode write. -/
def physWrite (s : State) (rid : Nat) (w : Word) (off : Nat) (bs : List Byte) : State :=
  let l := s.physLoc rid w off
  (linePieces off bs.length).foldl (fun t p =>
    let m := l.plus (p.1 - off)
    (t.wrLoc rid m (enumBytes 0 ((bs.drop (p.1 - off)).take p.2))).countWrite m) s

/-- A virtual-mode access: the realm's page table translates, with RD and W checked (R69, R344); a FREE realm has none. `n` is 0
for a write of `bs`. -/
def virtAccess (s : State) (rid : Nat) (w : Word) (off n : Nat) (bs : List Byte) : State :=
  let va := bitsOf w.toNat 63 30 * 2 ^ 30 + off
  let write := n = 0
  if !pteTableOk (s.realm rid).n (s.realm rid).root || (s.realm rid).state = 0 then s.apFail rid 0x14 off write
  else if write then
    match s.unitWrite rid 0 6 va 1 (unmarked bs) with
    | (none, t) => t
    | (some f, t) => t.apErr rid f.code off true
  else match s.unitRead rid 0 va n 1 with
    | (.ok rs, t) => t.toHost (.reply (plain rs) (anyMark rs) false)
    | (.bad f, t) => t.apFail rid f.code off false
    | (.lack, t) => t

end State

/-- APERTURE_ACCESS: a host read of `inp.b` bytes at offset `inp.a` of aperture `rid`, or, where `inp.b` is 0, a write of the bytes
`inp.data` (R344, R383). A read of another device's page is answered once its lines have come. An access has at
most the maximum payload of 512 bytes (R342) and stays within 4 KiB, as PCI Express requires (log 99). -/
def execApertureAccess (s : State) : Res :=
  let rid := s.cur.rid
  let off := s.cur.inp.a
  let n := s.cur.inp.b
  let bs := s.cur.inp.data
  let len := if n = 0 then bs.length else n
  if !s.hostReady || 64 ≤ rid || 2 ^ 30 ≤ off || len == 0 || 512 < len || 4096 < off % 4096 + len then .next s
  else
    let t := s.wake
    let w := (t.realm rid).wbase
    if w.getLsbD 0 then
      match t.physBad rid w off with
      | some c => .next (t.apFail rid c off (n == 0))
      | none => .next (if n = 0 then t.physWrite rid w off bs else t.physRead rid w off n)
    else .next (t.whole (t.virtAccess rid w off n bs))

/-! ### Invalidations (R72, R193, R354) -/

/-- The page that INVVA or TLBINV names: first address and size (R346). -/
def invPage (v : Word) : Nat × Nat :=
  let size := match v.toNat % 4 with
    | 0 => 4096
    | 1 => 65536
    | 2 => 2 ^ 21
    | _ => 2 ^ 30
  (v.toNat / size * size, size)

namespace State

/-- Remove the leaf of a page from a cluster's TLB. -/
def tlbRemove (s : State) (ck base size : Nat) : State :=
  s.modCluster ck fun c => { c with tlb := c.tlb.filter fun e => e.base + e.size ≤ base || base + size ≤ e.base }
/-- Remove the leaf of a page from every TLB of a realm. -/
def tlbRemoveAll (s : State) (rid base size : Nat) : State :=
  (s.clusters.filter fun p => p.1 / (64 * 320) == rid).foldl (fun t p => t.tlbRemove p.1 base size) s
/-- An access of the realm to the page is translated and not yet performed at its home, or a walk has found a leaf that translates it and has
not ended (R354). -/
def pageBusy (s : State) (rid base size : Nat) : Bool :=
  let inPage (va : Nat) : Bool := base ≤ va && va < base + size
  s.agentQ.any (fun r => r.rid == rid && inPage r.va) || s.farQ.any (fun r => r.rid == rid && inPage r.va)
    || s.cores.any (fun p => p.1 / 2 ^ 20 == rid && (p.2.cbuf.any (fun e => inPage e.va)
      || p.2.fifo.any (fun r => r.unacked.any (fun q => inPage q.2.1) || r.pkt.any (fun q => inPage q.va))))
    || s.frames.any (fun p => keyRid p.1 == rid && p.2.vops.any fun o => o.elems.any fun e => e.loc.isSome && inPage e.va)
    || s.dies.any (fun p => p.1 / 64 == rid && p.2.walks.any fun w => w.leaf.any fun e => e.base < base + size && base < e.base + e.size)
/-- A task that waits on a watched word of the page reads through the page table again. -/
def rewatch (s : State) (rid base size : Nat) : State :=
  let next (w : Wait) : Wait := match w with
    | .watch _ va _ _ => if base ≤ va ∧ va < base + size then .none else w
    | w => w
  let t := (s.slots.filter fun p => keyRid p.1 == rid).foldl (fun u p => u.modSlot p.1 fun x => { x with wait := next x.wait }) s
  (s.frames.filter fun p => keyRid p.1 == rid).foldl (fun u p => u.modFrame p.1 fun x => { x with wait := next x.wait }) t

end State

/-- INVCTL_START: a write of 1 to INVCTL[0] (R354); the leaf leaves the TLBs by the end (log 100). -/
def execInvctlStart (s : State) : Res :=
  let rid := s.cur.rid
  if !s.hostReady || 64 ≤ rid then .next s
  else
    let t := s.wake
    if (t.realm rid).inving then .next t else .next (t.modRealm rid fun r => { r with inving := true, invAt := r.invva })

/-- INVALIDATION_END: an invalidation of the host (`sub` 0) or of the trap handler core (`sub` 1) ends once every access that the leaf
translated has been performed; before that the leaf leaves the TLB of the cluster `idx` of die `die` (R193, R354, log 101). -/
def execInvalidationEnd (s : State) : Res :=
  let rid := s.cur.rid
  let r := s.realm rid
  let task := s.cur.sub = 1
  let (base, size) := invPage (if task then r.tlbinvAt else r.invAt)
  if !(if task then r.tlbinving else r.inving) then .next s
  else if s.pageBusy rid base size then .next (s.tlbRemove (clusterKeyOf rid (s.cur.die % 64) (s.cur.idx % 320)) base size)
  else
    let t := (s.tlbRemoveAll rid base size).rewatch rid base size
    .next (t.modRealm rid fun q => if task then { q with tlbinving := false } else { q with inving := false })

/-! ### Power (R355, R356) -/

namespace State

/-- An entry of a die command queue can issue, a doorbell's entry can enter it, or a Trail entry can start (R355, log 140). -/
def dieCanAct (s : State) (rid die : Nat) : Bool :=
  let d := s.dieSt (dieKey rid die)
  (s.realm rid).state == 1 && ((!d.dcq.stopped && d.dcq.cur.isNone && d.dcq.head < d.dcq.tail) || s.curCanGo rid die
    || (s.hostWaiting rid die && !s.dcqFull rid die) || d.dcq.flush
    || (d.trail.running && (s.headWait rid die d.trail).isNone))
/-- The module is idle (R355). A deque's records are ready tasks where the realm acts; those of a HALTED realm do not prevent it
(R38, log 140). -/
def idle (s : State) : Bool :=
  s.slots.all (fun p => !p.2.busy)
    && s.cores.all (fun p => p.2.urgent.isEmpty && p.2.normal.isEmpty && p.2.backgr.isEmpty && p.2.hold.isEmpty
      && (!s.acts (p.1 / 2 ^ 20) || (p.2.deque.isEmpty && p.2.spilled == 0)) && p.2.cbuf.isEmpty && p.2.outq.isEmpty && p.2.evq.isEmpty && p.2.mq.isEmpty && p.2.fifo.isEmpty
      && p.2.engPend.isEmpty)
    && s.dies.all (fun p => p.2.creqs.isEmpty && p.2.walks.isEmpty && p.2.walkQ.isEmpty && p.2.dcq.reqs.isEmpty)
    && s.ports.all (fun p => p.2.tx.isEmpty && p.2.singles.isEmpty)
    && s.octets.all (fun p => p.2.sfu.isEmpty && p.2.running.isNone)
    && s.frames.all (fun p => p.2.vops.isEmpty) && s.vblocks.all (fun p => p.2.st != .regen)
    && s.experts.all (fun p => p.2.vq.isEmpty)
    && s.net.isEmpty && s.rnet.isEmpty && s.replies.isEmpty && s.agentQ.isEmpty && s.farQ.isEmpty && s.reports.isEmpty
    && s.barNet.isEmpty && s.barReps.isEmpty && s.barDones.isEmpty && s.slotRets.isEmpty && s.sentMsgs.isEmpty
    && s.farAns.all (·.sent) && s.doneFlits.isEmpty
    && s.realms.all (fun p => (List.range p.2.n).all fun d => !s.dieCanAct p.1 d)
/-- The deepest eligible state whose exit latency LTOL admits (R355). -/
def deepest (s : State) : Nat :=
  let free := s.realms.all fun p => p.2.state == 0
  if !s.idle then 0
  else if free && 200000 ≤ s.ltol then 4
  else if free && 2000 ≤ s.ltol then 3
  else if 40 ≤ s.ltol then 2
  else if 2 ≤ s.ltol then 1
  else 0

end State

/-- IDLE_POWER_ENTRY: an idle module enters the deepest eligible state (R355). D3 loses LM, which every CREATE sets to zero; D4
loses device memory and what is not on the standby rail (log 102), and leaving it boots the firmware (R356). -/
def execIdlePowerEntry (s : State) : Res :=
  let d := s.deepest
  if d ≤ s.power then .next s
  else if d = 4 then
    .next { s with power := 4, toHw := {}, realms := [], mem := [], poison := [], keySer := [], corrected := [] }
  else .next { s with power := d }

/-- WAKE_EVENT: an access of the host to any BAR, a flit, or a management command brings the module back to D0 (R356). Where `sub` is
1, the access is a host read of `inp.b` bytes at offset `inp.a` of BAR0, within one 8-byte register (R343, R346, R403); where it is 2,
one of the four memory counters of die `die` of realm `rid`, whose place in BAR0 the manual does not give (R73, log 129). -/
def execWakeEvent (s : State) : Res :=
  let t := s.wake
  let o := s.cur.inp.a
  let n := s.cur.inp.b
  if s.cur.sub = 1 ∧ s.hostReady = true ∧ 0 < n ∧ o % 8 + n ≤ 8 then
    .next (t.toHost (.reply (((toBytes 8 (t.barWord (o / 8 * 8))).drop (o % 8)).take n) false false))
  else if s.cur.sub = 2 ∧ s.hostReady = true then
    let d := t.dieSt (dieKey s.cur.rid s.cur.die)
    .next (t.toHost (.reply (toBytes 8 d.rdLocal.toNat ++ toBytes 8 d.rdRemote.toNat ++ toBytes 8 d.rdServed.toNat
      ++ toBytes 8 d.wrServed.toNat) false false))
  else .next t

/-! ### The host link (R406) -/

namespace State

/-- The request that a read of host memory is. -/
def hostReq (s : State) (r : HostRd) : HostOut :=
  if r.flush then .flush else .read (((s.realm r.rid).hqt.get {} r.die).base.toNat + 64 * ((s.realm r.rid).hqt.get {} r.die).head) 64
/-- The host link is lost: what follows is held, reads without completion among it, and dirty-page logging stops (R406, log 105). -/
def loseHost (s : State) : State :=
  if !s.hostUp then s
  else
    let off (r : RealmSt) : RealmSt := if r.dlctl.getLsbD 4 then { r with dlovf := true } else r
    let t := (s.realms.map (·.1)).foldl (fun u k => u.modRealm k off) s
    { t with hostUp := false, hldown := t.hldown + 1, hostHeld := t.hostHeld ++ t.hostRds.map t.hostReq }

end State

/-- HOST_LINK_DOWN (R406). -/
def execHostLinkDown (s : State) : Res := .next s.loseHost

/-- HOST_LINK_RESTORED: the host has enumerated the function again and enabled MSI-X: the held requests go out in their order, then
the pending vectors that the table does not mask (R406). A port that the management port has disabled stays down (R407). -/
def execHostLinkRestored (s : State) : Res :=
  if s.hostUp || s.hostOff then .next s
  else
    let masked (v : Nat) : Bool := (s.msix.get {} v).masked
    .next { s with hostUp := true, hostOut := s.hostOut ++ s.hostHeld ++ (s.pend.filter (!masked ·)).map HostOut.msi, hostHeld := [],
                   pend := s.pend.filter masked, hostRds := s.hostRds.map fun r => { r with at_ := s.clock, again := false } }

/-- HOST_READ_TIMEOUT: a read of host memory has had no completion for 50 ms (80,000,000 cycles) while the link is up: it is issued
again once; the second time the link counts as lost (R406). -/
def execHostReadTimeout (s : State) : Res :=
  match s.hostRds[s.cur.idx]? with
  | none => .next s
  | some r =>
    if !s.hostUp || s.clock < r.at_ + 80000000 then .next s
    else if r.again then .next s.loseHost
    else .next ({ s with hostRds := s.hostRds.set s.cur.idx { r with at_ := s.clock, again := true } }.toHost (s.hostReq r))

/-! ### The module fabric (R404) -/

/-- FABRIC_HOP_FAILURE: a hop that cannot be retrained: every ACTIVE realm halts with 0xE1 (R404, R412). Bit d of `inp.a` says that the
one route from physical die d to the host port crosses the hop (log 127). -/
def execFabricHopFailure (s : State) : Res :=
  .next ((s.realms.filter fun p => p.2.state == 1).foldl (fun t p => t.deviceHalt p.1 0xE1)
    { s with hopDown := true, cutDies := s.cutDies ++ (List.range 64).filter s.cur.inp.a.testBit })

/-! ### Firmware, measurements and reset (R357 to R359, R407) -/

/-- MODULE_RESET (R358, R407). -/
def execModuleReset (s : State) : Res := .next s.moduleReset

/-- FIRMWARE_UPDATE: `inp.data` is the signature (384 bytes) and the image it signs, `inp.a` its security version. It is accepted when
the signature verifies under the key whose digest is fused and the version is not below the rollback counter, which a higher version
raises (R358). -/
def execFirmwareUpdate (s : State) : Res :=
  let t := s.wake
  let sig := s.cur.inp.data.take 384
  let img := s.cur.inp.data.drop 384
  let ver := s.cur.inp.a % 2 ^ 32
  if Config.signatureValid (img ++ toBytes 4 ver) (t.fuse ++ sig) && t.rollback ≤ ver then
    .next { t with firmNext := some img, rollback := ver, hostOut := t.hostOut ++ [.mgmt [0#8]] }
  else .next { t with hostOut := t.hostOut ++ [.mgmt [1#8]] }

/-- The measurement of an index (R359): 3 is MSTEP and the fuses. -/
def State.measurement (s : State) (i : Nat) : List Byte :=
  if i = 1 then sha256 s.boot
  else if i = 2 then sha256 s.firm
  else if i = 3 then toBytes 2 s.mstep ++ s.fuse ++ toBytes 4 s.rollback
  else if 16 ≤ i ∧ i < 80 then (s.realm (i - 16)).meas
  else []

/-- GET_MEASUREMENTS: the measurement of index `inp.a` (R359); where `inp.b` is 1, with its signature over the requester's nonce
`inp.data` and the measurement (R357, log 107). -/
def execGetMeasurements (s : State) : Res :=
  let t := s.wake
  let m := t.measurement s.cur.inp.a
  let sig := if s.cur.inp.b = 1 then Config.identitySign t.identity (s.cur.inp.data ++ m) else []
  .next { t with hostOut := t.hostOut ++ [.mgmt (m ++ sig)] }

/-- MGMT_REQUEST: a request over the management port, numbered by `inp.a` (the model's own numbers, log 22): 0 HLDOWN; 1 the state of
the host port; 2 the port register at BAR0 offset `inp.b`; 3 retrain the host port; 4 disable it; 5 write PCTL of port `die` with
`inp.b`; 6 HALT and 7 DESTROY of realm `rid`; 8 the power state; 9 LTOL; 10 set LTOL to `inp.b`; 11 RSTATE of realm `rid`; 12 the
corrected errors of die `die`; 13 reset the module; 14 the replays of hops that die `die` counts (R404); 15 the identity key, and 16 the
certificate chain; 17 a signature under the identity key over the challenge `inp.data`; 18 the temperature and 19 the power of die
`die`, readings that the manual leaves open (R357, R359, R406, R407). Those of R407 that act on ports and realms are accepted while
the host link is down (log 107). -/
def execMgmtRequest (s : State) : Res :=
  let t := s.wake
  let v := s.cur.inp.b
  let rid := s.cur.rid
  let say (u : State) (n : Nat) : Res := .next { u with hostOut := u.hostOut ++ [.mgmt (toBytes 8 n)] }
  match s.cur.inp.a with
  | 0 => say t t.hldown.toNat
  | 1 => say t (if t.hostUp then 1 else 0)
  | 2 => say t (if 0x10000 ≤ v ∧ v < 0x10800 then t.barWord (v / 8 * 8) else 0)
  | 3 => say { t with hostOff := false } 0
  | 4 => say { t.loseHost with hostOff := true } 0
  | 5 => if t.hostUp || 32 ≤ s.cur.die then say t 1 else say (t.pctlWrite s.cur.die v) 0
  | 6 => if t.hostUp || 64 ≤ rid then say t 1
      else if (t.realm rid).state = 1 then say (t.haltRealm rid (bitsOf v 26 16)) 0
      else say (t.endCmd rid 0x01 (bitsOf v 26 16)) 1
  | 7 => if t.hostUp || 64 ≤ rid then say t 1
      else if (t.realm rid).state = 1 ∨ (t.realm rid).state = 3 then say ((t.freeRealm rid).endCmd rid 0 (bitsOf v 26 16)) 0
      else say (t.endCmd rid 0x01 (bitsOf v 26 16)) 1
  | 8 => say t s.power
  | 9 => say t t.ltol
  | 10 => say { t with ltol := v } 0
  | 11 => say t ((t.realm rid).pageWord 0)
  | 12 => say t (t.corrected.get 0 s.cur.die)
  | 13 => say t.moduleReset 0
  | 14 => say t (t.hopReplays.get 0 s.cur.die)
  | 15 => .next { t with hostOut := t.hostOut ++ [.mgmt t.identity] }
  | 16 => .next { t with hostOut := t.hostOut ++ [.mgmt t.chain] }
  | 17 => .next { t with hostOut := t.hostOut ++ [.mgmt (Config.identitySign t.identity s.cur.inp.data)] }
  | 18 | 19 => say t (Config.freeValue (s.fresh * 64 + s.cur.die)).toNat
  | _ => say t 1

end Sys2Proof.Machine
end

