-- ==== Sys2Proof/Machine/Ring.lean ====
section
/-! DEFINITION. Ring handles and the halo exchange (14_isa_matrix.md, R303 to R307). -/

namespace Sys2Proof.Machine

namespace State

/-- Key of handle h of the issuing core. -/
def ringKey (s : State) (h : Nat) : Nat := s.ck * 16 + h
/-- A RING form that uses handle h, which must be defined (R307); INFO names the handle's field. -/
def ringUse (s : State) (h field : Nat) (k : Ring → State) : State :=
  let r := s.ring (s.ringKey h)
  s.checked [resval (r.count == 0) 0x37 h field] (k r)

end State

/-- rset: defines the handle (R303, R307). -/
def execRset (d : BitVec 4) (a b : BitVec 5) (s : State) : Res :=
  let base := (s.rx a).toNat
  let v := (s.rx b).toNat
  let sz := bitsOf v 15 8
  let n := bitsOf v 24 16
  .next (s.checked [resval (2 ^ 18 ≤ base || base % 64 != 0) 0x37 base 1,
      resval (bitsOf v 63 25 != 0 || bitsOf v 7 0 != 0 || sz == 0 || 64 < sz || n == 0 || 256 < n || 0x27000 < base + 64 * sz * n)
        0x37 v 2]
    (if s.portBusy s.ck then s.waitFor .stall
      else
        let r : Ring := { base := base, slotsz := sz, count := n, fill := 0, free := n, head := 0, tail := 0 }
        (s.setRing (s.ringKey d.toNat) r).retire 4))

/-- RWAITF and RWAITE: safe points and acquires of scope .oct; n above COUNT is reserved at issue, while a wait that is pending
only tests the counts, those of a new RSET too (R304). -/
def ringWait (free : Bool) (d : BitVec 4) (a : BitVec 5) (s : State) : Res :=
  let n := (s.rx a).toNat
  let pending := match s.me.wait with
    | .ring .. => true
    | _ => false
  .next (s.ringUse d.toNat 0 fun r => s.checked [resval (!pending && r.count < n) 0x37 n 1]
    (if !s.safeReady then s.waitFor .stall
      else
        let t := s.flushVops s.cur.rid s.cur.core s.me.frame
        if n ≤ (if free then r.free else r.fill) then (t.acquire 1).retireSafe 4
        else t.waitSafe (.ring d.toNat free n)))
/-- rwaitf (R304). -/
def execRwaitf (d : BitVec 4) (a : BitVec 5) (s : State) : Res := ringWait false d a s
/-- rwaite (R304). -/
def execRwaite (d : BitVec 4) (a : BitVec 5) (s : State) : Res := ringWait true d a s

/-- RADVP and RADVC: releases of scope .oct; n above FREE or FILL is reserved (R303, R304). -/
def ringAdv (consumer : Bool) (d : BitVec 4) (a : BitVec 5) (s : State) : Res :=
  let n := (s.rx a).toNat
  .next (s.ringUse d.toNat 0 fun r => s.checked [resval ((if consumer then r.fill else r.free) < n) 0x37 n 1]
    (if s.portBusy s.ck || !s.canRelease 1 then s.waitFor .stall
      else ((s.release 1).setRing (s.ringKey d.toNat) (State.ringAdvance r consumer n)).retire 4))
/-- radvp (R304). -/
def execRadvp (d : BitVec 4) (a : BitVec 5) (s : State) : Res := ringAdv false d a s
/-- radvc (R304). -/
def execRadvc (d : BitVec 4) (a : BitVec 5) (s : State) : Res := ringAdv true d a s

/-- rstat (R304); it reads an undefined handle too (R307). -/
def execRstat (d : BitVec 5) (a : BitVec 4) (s : State) : Res :=
  let r := s.ring (s.ringKey a.toNat)
  let v := r.base * 2 ^ 46 + r.tail * 2 ^ 38 + r.head * 2 ^ 30 + r.free * 2 ^ 21 + r.fill * 2 ^ 12 + r.slotsz * 2 ^ 5
  .next ((s.wx d (BitVec.ofNat 64 v)).retire 4)

/-! ### HALO (R305, R306) -/

/-- A halo record. -/
structure HaloRec where
  /-- TBASE. -/
  tbase : Nat
  /-- PITCH. -/
  pitch : Nat
  /-- C. -/
  c : Nat
  /-- ROWS. -/
  rows : Nat
  /-- DH. -/
  dh : Nat
  /-- DW. -/
  dw : Nat
  /-- NOFF, EOFF, SOFF, WOFF. -/
  off : List Nat
  deriving DecidableEq, Repr

/-- The record that 32 bytes hold, as a number (R305). -/
def haloOf (n : Nat) : HaloRec :=
  { tbase := bitsOf n 17 0, pitch := bitsOf n 47 32, c := bitsOf n 79 64, rows := bitsOf n 95 80, dh := bitsOf n 111 104,
    dw := bitsOf n 127 112, off := [bitsOf n 145 128, bitsOf n 209 192, bitsOf n 177 160, bitsOf n 241 224] }

/-- The border of direction d (0 north, 1 east, 2 south, 3 west): first row, rows, first byte, bytes of a row (R306). -/
def haloBorder (h : HaloRec) (d : Nat) : Nat × Nat × Nat × Nat :=
  match d with
  | 0 => (0, h.dh, 0, h.c)
  | 1 => (0, h.rows, h.c - h.dw, h.dw)
  | 2 => (h.rows - h.dh, h.dh, 0, h.c)
  | _ => (0, h.rows, 0, h.dw)
/-- Bytes of a packed border. -/
def borderSize (h : HaloRec) (d : Nat) : Nat := (haloBorder h d).2.1 * (haloBorder h d).2.2.2
/-- Its payload in 64-byte units. -/
def borderUnits (h : HaloRec) (d : Nat) : Nat := (borderSize h d + 63) / 64
/-- The neighbour of a core in a direction, on the same die; none at the edge of the 128 × 80 grid (R306). -/
def neighbour (core d : Nat) : Option Nat :=
  let die := coreDie core
  let row := coreRow core
  let col := coreCol core
  match d with
  | 0 => if row = 0 then none else some (mkCore die (row - 1) col)
  | 1 => if col = 127 then none else some (mkCore die row (col + 1))
  | 2 => if row = 79 then none else some (mkCore die (row + 1) col)
  | _ => if col = 0 then none else some (mkCore die row (col - 1))
/-- The mailbox counter of the side at which direction d's data arrives (R306). -/
def mailbox (d : Nat) : Nat :=
  match d with
  | 0 => 254 | 1 => 255 | 2 => 252 | _ => 253

/-- The checks of a halo record: reserved bits and the limits of R305 in field order, then those of R306 for the selected
directions (log 106). -/
def haloChecks (n : Nat) (dirs : List Nat) : List (Option Flt) :=
  let h := haloOf n
  let bad (b : Bool) (v : Nat) : Option Flt := resval b 0x38 v 4
  let zero (hi lo : Nat) : Option Flt := bad (bitsOf n hi lo != 0) (bitsOf n hi lo)
  [zero 31 18, bad (h.pitch < h.c) h.pitch, zero 63 48, bad (h.c == 0 || 4096 < h.c) h.c, bad (h.rows == 0 || 4096 < h.rows) h.rows,
    zero 103 96, bad (h.dh == 0 || h.rows < h.dh) h.dh, bad (h.dw == 0 || 4096 < h.dw || h.c < h.dw) h.dw,
    zero 159 146, zero 191 178, zero 223 210, zero 255 242, bad (0x30000 < h.tbase + (h.rows - 1) * h.pitch + h.c) h.tbase]
  ++ dirs.map fun d =>
    let o := h.off[d]?.getD 0
    if 4096 < borderSize h d then bad true (if d % 2 = 0 then h.dh else h.dw)
    else bad (o % 64 != 0 || 0x30000 < o + 64 * borderUnits h d) o

namespace State

/-- The packed border of the issuing core's tile, padded with zeros (R306), with its poison marks (R383). -/
def packBorder (s : State) (h : HaloRec) (d : Nat) : List Byte × List Nat :=
  let (r0, nr, b0, nb) := haloBorder h d
  let rid := s.cur.rid
  let core := s.cur.core
  let rows := (List.range nr).map fun i => (h.tbase + (r0 + i) * h.pitch + b0, i * nb)
  let bs := (rows.map fun r => s.rdLm rid core r.1 nb).flatten
  let marks := (rows.map fun r => ((List.range nb).filter fun x => s.poisoned (lmAddr rid core (r.1 + x)) 1).map
    fun x => (r.2 + x) / 8).flatten
  (bs ++ List.replicate (64 * borderUnits h d - borderSize h d) 0#8, marks.eraseDups)

/-- HALO's messages, north, east, south, west (R306). -/
def sendHalo (s : State) (h : HaloRec) : List Nat → State
  | [] => s
  | d :: ds =>
    match neighbour s.cur.core d with
    | none => s.sendHalo h ds
    | some c =>
      let (bs, marks) := s.packBorder h d
      let m : Msg := { rid := s.cur.rid, sdev := s.fabid, score := s.cur.core,
                       h0 := mkH0 (borderUnits h d) 2 false (mailbox d) 0 0xFFF c,
                       h1 := mkH1 false false s.cur.rid s.fabid s.cur.core (h.off[d]?.getD 0), payload := bs, marks := marks }
      (s.sendOut m).sendHalo h ds

/-- Room in the outbound queue for messages of these payload sizes (R247). -/
def outRoomFor (s : State) (sizes : List Nat) : Bool :=
  let q := (s.coreSt s.ck).outq
  q.length + sizes.length ≤ 16 && (q.map (·.size)).sum + sizes.sum ≤ 16384

end State

/-- halo (R305, R306). -/
def execHalo (a b : BitVec 5) (s : State) : Res :=
  let off := (s.rx a).toNat
  let sel := (s.rx b).toNat
  let va := lmBase s.cur.core + off
  .next (s.checked [resval (2 ^ 18 ≤ off) 0x38 off 1, resval (16 ≤ sel) 0x38 sel 2]
    (if off % 32 ≠ 0 then s.trap 4 { code := 0x10, detail := 32, addr := va }
      else if 0x30000 < off + 32 then s.trap 4 { code := 0x12, addr := lmBase s.cur.core + max off 0x30000 }
      else
        let l : Loc := .lm s.cur.core off
        s.settleThen l 32 fun t =>
        if t.poisoned (locAddr t.cur.rid l) 32 then s.trapPoison 4 va l
        else
          let n := t.rdNum t.cur.rid l 32
          let dirs := (List.range 4).filter fun d => sel.testBit d
          let h := haloOf n
          let live := dirs.filter fun d => (neighbour s.cur.core d).isSome
          s.checked (haloChecks n dirs)
            (if !s.canRelease ((s.relScope (some 3)).getD 0) then s.awaitRelease ((s.relScope (some 3)).getD 0) .stall
              else if !s.outRoomFor (live.map fun d => 64 * borderUnits h d) then s.waitFor .stall
              else ((s.release ((s.relScope (some 3)).getD 0)).sendHalo h dirs).retire 4)))

end Sys2Proof.Machine
end

