-- ==== Sys2Proof/Machine/Sfu.lean ====
section
/-! DEFINITION. The special functions (13_isa_vector.md, R280, R281): the exact value rounded once under RNE. The exact value is
enclosed between two multiples of 2^−P; where both ends round to one element, that element is the result, else P doubles. -/

namespace Sys2Proof.Machine

/-- A nonnegative value enclosed: lo · 2^−P ≤ value ≤ hi · 2^−P. -/
abbrev Encl := Nat × Nat

/-- The element to which the whole enclosure rounds, if there is one. -/
def roundEncl (s : Bool) (p : Nat) (v : Encl) : Option Nat :=
  let a := (roundMag .f32 .rne false s v.1 (-(p : Int)) true).1
  let b := (roundMag .f32 .rne false s v.2 (-(p : Int)) false).1
  if a = b then some a else none

/-- Σ 1 / (k · 2^k) at P bits, `n` terms from k = 1 on: ln 2 from below. -/
def ln2Sum (p : Nat) : Nat → Nat
  | 0 => 0
  | k + 1 => ln2Sum p k + 2 ^ p / ((k + 1) * 2 ^ (k + 1))
/-- ln 2, enclosed. -/
def ln2Encl (p : Nat) : Encl := (ln2Sum p p, ln2Sum p p + p + 2)

/-- The series of e^t from term i on, t below 1 at P bits: each term and the sum from below. -/
def expSum (p t : Nat) : Nat → Nat → Nat → Nat
  | 0, _, _ => 0
  | n + 1, i, term => if term = 0 then 0 else term + expSum p t n (i + 1) (term * t / ((i + 1) * 2 ^ p))
/-- e^t for t below 1, enclosed, from an enclosure of t. -/
def expEncl (p : Nat) (t : Encl) : Encl := (expSum p t.1 p 0 (2 ^ p), expSum p t.2 p 0 (2 ^ p) + 2 * p + 8)

/-- e^y for 0 ≤ y < 128, y exact at P bits, enclosed at P bits. -/
def expBig (p y : Nat) : Encl :=
  let l := ln2Encl p
  let n := y / l.2
  let e := expEncl p (y - n * l.2, y - n * l.1)
  (e.1 * 2 ^ n, e.2 * 2 ^ n)

/-- The series of atanh z from term i on, with z² and the running power, at P bits: from below. -/
def atanhSum (p z2 : Nat) : Nat → Nat → Nat → Nat
  | 0, _, _ => 0
  | n + 1, i, pow => if pow = 0 then 0 else pow / (2 * i + 1) + atanhSum p z2 n (i + 1) (pow * z2 / 2 ^ p)

/-- log2 u for 1 ≤ u < 2, u = m / 2^k, enclosed at P bits. -/
def log2Encl (p m k : Nat) : Encl :=
  let z := (m - 2 ^ k) * 2 ^ p / (m + 2 ^ k)
  let a := 2 * atanhSum p (z * z / 2 ^ p) p 0 z
  let b := a + 2 * (3 * p + 10)
  let l := ln2Encl p
  (a * 2 ^ p / l.2, b * 2 ^ p / l.1 + 1)

/-- The series of arctan(1/n) at P bits, `i` pairs of terms, from pair k on. -/
def atanInv (p n : Nat) : Nat → Nat → Int
  | 0, _ => 0
  | i + 1, k =>
    ((2 ^ p / (n ^ (4 * k + 1) * (4 * k + 1)) : Nat) : Int) - ((2 ^ p / (n ^ (4 * k + 3) * (4 * k + 3)) : Nat) : Int)
      + atanInv p n i (k + 1)
/-- π, enclosed at P bits (Machin). -/
def piEncl (p : Nat) : Encl :=
  let v := (16 * atanInv p 5 (p / 8 + 8) 0 - 4 * atanInv p 239 (p / 8 + 8) 0).toNat
  (v - 32 * p, v + 32 * p)

/-- The alternating series of sin or cos from a term on: terms of the next sign, at P bits. -/
def trigSum (p t2 : Nat) : Nat → Nat → Nat → Int
  | 0, _, _ => 0
  | n + 1, i, term => if term = 0 then 0 else (term : Int) - trigSum p t2 n (i + 2) (term * t2 / ((i + 1) * (i + 2) * 2 ^ p))
/-- sin t or cos t for 0 ≤ t < 1 known to within w units at P bits, enclosed. -/
def trigEncl (p : Nat) (cosine : Bool) (t w : Nat) : Encl :=
  let v := if cosine then trigSum p (t * t / 2 ^ p) p 0 (2 ^ p) else trigSum p (t * t / 2 ^ p) p 1 t
  let e := w + 4 * p + 8
  ((v - e).toNat, (v + e).toNat)

/-- sin x or cos x of x = ± m · 2^e, at P bits, rounded if the enclosure allows: reduction by multiples of π / 2. -/
def trigRound (p : Nat) (cosine s : Bool) (m : Nat) (e : Int) : Option Nat :=
  let q := p + 140
  let x := if 0 ≤ e then m * 2 ^ (e.toNat + q) else m * 2 ^ q / 2 ^ (-e).toNat
  let pi := piEncl q
  let k := (4 * x + pi.1) / (2 * pi.1)
  let lo : Int := (2 * x : Int) - (k : Int) * pi.2
  let hi : Int := (2 * x : Int) - (k : Int) * pi.1
  let neg := hi < 0
  let near : Int := if neg then -hi else lo
  let far : Int := if neg then -lo else hi
  if near < 0 then none
  else
    let t := near.toNat / 2 ^ 141
    let w := (far - near).toNat / 2 ^ 141 + 2
    -- x = k · π/2 ± t: sin and cos by the quadrant
    let quad := (if cosine then k + 1 else k) % 4
    let useCos := quad % 2 == 1
    let sign := (quad ≥ 2) != (!useCos && neg)
    let sign := if cosine then sign else sign != s
    roundEncl sign p (trigEncl p useCos t w)

/-- Exact y at P bits of a value m · 2^e below 2^8; exact when P is at least 149. -/
def scaled (p m : Nat) (e : Int) : Nat := if 0 ≤ e + p then m * 2 ^ (e + p).toNat else m / 2 ^ (-(e + p)).toNat

/-- 2^x of x = ± m · 2^e. -/
def exp2Round (p : Nat) (s : Bool) (m : Nat) (e : Int) : Option Nat :=
  let big := 8 ≤ (Nat.log2 m : Int) + e
  if m = 0 then some 0x3F800000
  else if big then some (if s then 0 else 0x7F800000)
  else
    let y := scaled p m e
    let fl := if s then (y + 2 ^ p - 1) / 2 ^ p else y / 2 ^ p
    let n : Int := if s then -(fl : Int) else fl
    let f := if s then fl * 2 ^ p - y else y - fl * 2 ^ p
    if f = 0 then some (roundMag .f32 .rne false false 1 n false).1
    else
      let l := ln2Encl p
      let v := expEncl p (f * l.1 / 2 ^ p, f * l.2 / 2 ^ p + 1)
      let a := (roundMag .f32 .rne false false v.1 (n - p) true).1
      let b := (roundMag .f32 .rne false false v.2 (n - p) false).1
      if a = b then some a else none
/-- log2 x of x = m · 2^e > 0. -/
def log2Round (p m : Nat) (e : Int) : Option Nat :=
  let k := Nat.log2 m
  let n : Int := e + k
  if m = 2 ^ k then some (fOfInt .f32 .rne n).1
  else
    let v := log2Encl p m k
    if 0 ≤ n then roundEncl false p (n.toNat * 2 ^ p + v.1, n.toNat * 2 ^ p + v.2)
    else roundEncl true p ((-n).toNat * 2 ^ p - v.2, (-n).toNat * 2 ^ p - v.1)
/-- tanh x of x = ± m · 2^e. -/
def tanhRound (p : Nat) (s : Bool) (m : Nat) (e : Int) : Option Nat :=
  if 5 ≤ (Nat.log2 m : Int) + e then some (Fmt.signBit .f32 s + 0x3F800000)
  else
    let v := expBig p (scaled p m (e + 1))
    let one := 2 ^ p
    roundEncl s p ((v.1 - one) * one / (v.1 + one), (v.2 - one) * one / (v.2 + one) + 1)
/-- 1 / (1 + e^−x) of x = ± m · 2^e. -/
def sigmRound (p : Nat) (s : Bool) (m : Nat) (e : Int) : Option Nat :=
  if 7 ≤ (Nat.log2 m : Int) + e then some (if s then 0 else 0x3F800000)
  else
    let v := expBig p (scaled p m e)
    let one := 2 ^ p
    if s then roundEncl false p (one * one / (v.2 + one), one * one / (v.1 + one) + 1)
    else roundEncl false p (v.1 * one / (v.1 + one), v.2 * one / (v.2 + one) + 1)
/-- 1/√x of x = m · 2^e > 0: exact up to a sticky bit. -/
def rsqrtRound (m : Nat) (e : Int) : Nat :=
  let even := e % 2 == 0
  let m' := if even then m else 2 * m
  let e' := if even then e else e - 1
  let k := 64 + Nat.log2 m'
  let r := isqrt (2 ^ (2 * k) / m')
  (roundMag .f32 .rne false false r (-(e' / 2) - k) (r * r * m' != 2 ^ (2 * k))).1

/-- The first precision of the list at which the enclosure rounds; a value that no listed precision decides is left open. -/
def decideRound (fn x : Nat) (f : Nat → Option Nat) : List Nat → Nat
  | [] => (Config.sfuOpen fn x).toNat
  | p :: ps => match f p with
    | some r => r
    | none => decideRound fn x f ps
/-- The precisions tried. -/
def sfuBits : List Nat := [256, 512, 1024, 2048]

/-- The result of special function fn for the element x (R280, R281). -/
def sfu (fn x : Nat) : Nat :=
  let nan := 0x7FC00000
  match Fmt.val .f32 x with
  | .nan _ => nan
  | .inf s =>
    match fn with
    | 0 => if s then 0 else 0x7F800000
    | 1 => if s then nan else 0x7F800000
    | 2 => Fmt.signBit .f32 s
    | 3 => if s then nan else 0
    | 4 => Fmt.signBit .f32 s + 0x3F800000
    | 5 => if s then 0 else 0x3F800000
    | _ => nan
  | .fin s m e =>
    if m = 0 then
      match fn with
      | 0 => 0x3F800000
      | 1 => 0xFF800000
      | 2 | 3 => Fmt.signBit .f32 s + 0x7F800000
      | 4 => Fmt.signBit .f32 s
      | 5 => 0x3F000000
      | 6 => Fmt.signBit .f32 s
      | _ => 0x3F800000
    else
      match fn with
      | 0 => decideRound fn x (exp2Round · s m e) sfuBits
      | 1 => if s then nan else decideRound fn x (log2Round · m e) sfuBits
      | 2 => (fDiv .f32 .rne 0x3F800000 x).1
      | 3 => if s then nan else rsqrtRound m e
      | 4 => decideRound fn x (tanhRound · s m e) sfuBits
      | 5 => decideRound fn x (sigmRound · s m e) sfuBits
      | 6 => decideRound fn x (trigRound · false s m e) sfuBits
      | _ => decideRound fn x (trigRound · true s m e) sfuBits

/-! ### VSFN (R280) -/

/-- A VSFN request: it enters the octet's queue with its results, which are written to v[d] when it leaves; with 32 requests in
the queue the slot is not ready (R16, R280). -/
def vsfn (fn : Nat) (d a : BitVec 5) (p : BitVec 3) (s : State) : Res :=
  .next (s.vform 0x2F [d.toNat, a.toNat] <|
    if 32 ≤ (s.octetSt s.octk).sfu.length then s.waitFor .stall
    else
      let req : SfuReq := { core := s.cur.core, frame := s.me.frame, reg := d.toNat,
                            res := (s.active p).map fun j => (j, BitVec.ofNat 32 (sfu fn (s.rv a.toNat j).toNat)) }
      (s.modOctet s.octk fun o => { o with sfu := o.sfu ++ [req] }).retire 4)

/-- vexp2 (R280). -/
def execVexp2 (d a : BitVec 5) (p : BitVec 3) (s : State) : Res := vsfn 0 d a p s
/-- vlog2 (R280). -/
def execVlog2 (d a : BitVec 5) (p : BitVec 3) (s : State) : Res := vsfn 1 d a p s
/-- vrcp (R280). -/
def execVrcp (d a : BitVec 5) (p : BitVec 3) (s : State) : Res := vsfn 2 d a p s
/-- vrsqrt (R280). -/
def execVrsqrt (d a : BitVec 5) (p : BitVec 3) (s : State) : Res := vsfn 3 d a p s
/-- vtanh (R280). -/
def execVtanh (d a : BitVec 5) (p : BitVec 3) (s : State) : Res := vsfn 4 d a p s
/-- vsigm (R280). -/
def execVsigm (d a : BitVec 5) (p : BitVec 3) (s : State) : Res := vsfn 5 d a p s
/-- vsin (R280). -/
def execVsin (d a : BitVec 5) (p : BitVec 3) (s : State) : Res := vsfn 6 d a p s
/-- vcos (R280). -/
def execVcos (d a : BitVec 5) (p : BitVec 3) (s : State) : Res := vsfn 7 d a p s

/-- SFU_RESULT: the head request's results are written into its claim's registers; one of a killed task passes without
writing, and the last of them frees its width (R280, R371). -/
def execSfuResult (s : State) : Res :=
  match (s.octetSt s.octk).sfu with
  | [] => .next s
  | r :: rest =>
    let t := s.modOctet s.octk fun o => { o with sfu := rest }
    if r.dead then .next t
    else .next (r.res.foldl (fun u q => u.wvAt (unitKey s.cur.rid r.core r.frame) r.reg q.1 q.2) t)

end Sys2Proof.Machine
end

