-- ==== Sys2Proof/Machine/Dispatch.lean ====
section
/-! DEFINITION. Dispatch: one arm for each constructor of Instr, each one call of that instruction's meaning. -/

namespace Sys2Proof.Machine

/-- The meaning of an instruction or an event in a state. -/
def exec (i : Instr) (s : State) : Host.Outcome State Fault Refusal :=
  match i with
  | .add d a b => Sys2Proof.Machine.execAdd d a b s
  | .sub d a b => Sys2Proof.Machine.execSub d a b s
  | .and d a b => Sys2Proof.Machine.execAnd d a b s
  | .or d a b => Sys2Proof.Machine.execOr d a b s
  | .xor d a b => Sys2Proof.Machine.execXor d a b s
  | .andn d a b => Sys2Proof.Machine.execAndn d a b s
  | .orn d a b => Sys2Proof.Machine.execOrn d a b s
  | .xnor d a b => Sys2Proof.Machine.execXnor d a b s
  | .sll d a b => Sys2Proof.Machine.execSll d a b s
  | .srl d a b => Sys2Proof.Machine.execSrl d a b s
  | .sra d a b => Sys2Proof.Machine.execSra d a b s
  | .rol d a b => Sys2Proof.Machine.execRol d a b s
  | .ror d a b => Sys2Proof.Machine.execRor d a b s
  | .slt d a b => Sys2Proof.Machine.execSlt d a b s
  | .sltz d a b => Sys2Proof.Machine.execSltz d a b s
  | .min d a b => Sys2Proof.Machine.execMin d a b s
  | .max d a b => Sys2Proof.Machine.execMax d a b s
  | .minz d a b => Sys2Proof.Machine.execMinz d a b s
  | .maxz d a b => Sys2Proof.Machine.execMaxz d a b s
  | .addSat d a b => Sys2Proof.Machine.execAddSat d a b s
  | .subSat d a b => Sys2Proof.Machine.execSubSat d a b s
  | .addzSat d a b => Sys2Proof.Machine.execAddzSat d a b s
  | .subzSat d a b => Sys2Proof.Machine.execSubzSat d a b s
  | .clz d a => Sys2Proof.Machine.execClz d a s
  | .ctz d a => Sys2Proof.Machine.execCtz d a s
  | .cpop d a => Sys2Proof.Machine.execCpop d a s
  | .rev8 d a => Sys2Proof.Machine.execRev8 d a s
  | .bfxS d a b => Sys2Proof.Machine.execBfxS d a b s
  | .bfxZ d a b => Sys2Proof.Machine.execBfxZ d a b s
  | .bfi d a b => Sys2Proof.Machine.execBfi d a b s
  | .sel d a b c => Sys2Proof.Machine.execSel d a b c s
  | .addi d a im => Sys2Proof.Machine.execAddi d a im s
  | .andi d a im => Sys2Proof.Machine.execAndi d a im s
  | .ori d a im => Sys2Proof.Machine.execOri d a im s
  | .xori d a im => Sys2Proof.Machine.execXori d a im s
  | .slti d a im => Sys2Proof.Machine.execSlti d a im s
  | .shiSll d a n => Sys2Proof.Machine.execShiSll d a n s
  | .shiSrl d a n => Sys2Proof.Machine.execShiSrl d a n s
  | .shiSra d a n => Sys2Proof.Machine.execShiSra d a n s
  | .shiRor d a n => Sys2Proof.Machine.execShiRor d a n s
  | .mul d a b => Sys2Proof.Machine.execMul d a b s
  | .mulh d a b => Sys2Proof.Machine.execMulh d a b s
  | .mulhz d a b => Sys2Proof.Machine.execMulhz d a b s
  | .mulhsz d a b => Sys2Proof.Machine.execMulhsz d a b s
  | .div d a b => Sys2Proof.Machine.execDiv d a b s
  | .divz d a b => Sys2Proof.Machine.execDivz d a b s
  | .rem d a b => Sys2Proof.Machine.execRem d a b s
  | .remz d a b => Sys2Proof.Machine.execRemz d a b s
  | .lui d im => Sys2Proof.Machine.execLui d im s
  | .addpc d im => Sys2Proof.Machine.execAddpc d im s
  | .jal d im => Sys2Proof.Machine.execJal d im s
  | .jalr d a im => Sys2Proof.Machine.execJalr d a im s
  | .beq a b o p => Sys2Proof.Machine.execBeq a b o p s
  | .bne a b o p => Sys2Proof.Machine.execBne a b o p s
  | .blt a b o p => Sys2Proof.Machine.execBlt a b o p s
  | .bge a b o p => Sys2Proof.Machine.execBge a b o p s
  | .bltz a b o p => Sys2Proof.Machine.execBltz a b o p s
  | .bgez a b o p => Sys2Proof.Machine.execBgez a b o p s
  | .fadd d a b r => Sys2Proof.Machine.execFadd d a b r s
  | .fsub d a b r => Sys2Proof.Machine.execFsub d a b r s
  | .fmul d a b r => Sys2Proof.Machine.execFmul d a b r s
  | .fdiv d a b r => Sys2Proof.Machine.execFdiv d a b r s
  | .fsqrt d a r => Sys2Proof.Machine.execFsqrt d a r s
  | .fmin d a b => Sys2Proof.Machine.execFmin d a b s
  | .fmax d a b => Sys2Proof.Machine.execFmax d a b s
  | .fcpsgn d a b => Sys2Proof.Machine.execFcpsgn d a b s
  | .fcpsgnn d a b => Sys2Proof.Machine.execFcpsgnn d a b s
  | .fcpsgnx d a b => Sys2Proof.Machine.execFcpsgnx d a b s
  | .feq d a b => Sys2Proof.Machine.execFeq d a b s
  | .flt d a b => Sys2Proof.Machine.execFlt d a b s
  | .fle d a b => Sys2Proof.Machine.execFle d a b s
  | .fclass d a => Sys2Proof.Machine.execFclass d a s
  | .fcvtF32Ty d a t r => Sys2Proof.Machine.execFcvtF32Ty d a t r s
  | .fcvtTyF32 d a t r => Sys2Proof.Machine.execFcvtTyF32 d a t r s
  | .fmvXF d a => Sys2Proof.Machine.execFmvXF d a s
  | .fmvFX d a => Sys2Proof.Machine.execFmvFX d a s
  | .fcvtF32Nfmt d a r st n => Sys2Proof.Machine.execFcvtF32Nfmt d a r st n s
  | .fcvtNfmtF32 d a n => Sys2Proof.Machine.execFcvtNfmtF32 d a n s
  | .ffma d a b c r => Sys2Proof.Machine.execFfma d a b c r s
  | .ffms d a b c r => Sys2Proof.Machine.execFfms d a b c r s
  | .fnma d a b c r => Sys2Proof.Machine.execFnma d a b c r s
  | .fnms d a b c r => Sys2Proof.Machine.execFnms d a b c r s
  | .csrr d k => Sys2Proof.Machine.execCsrr d k s
  | .csrw d a k => Sys2Proof.Machine.execCsrw d a k s
  | .csrs d a k => Sys2Proof.Machine.execCsrs d a k s
  | .csrc d a k => Sys2Proof.Machine.execCsrc d a k s
  | .safe n => Sys2Proof.Machine.execSafe n s
  | .yield => Sys2Proof.Machine.execYield s
  | .done => Sys2Proof.Machine.execDone s
  | .svc n => Sys2Proof.Machine.execSvc n s
  | .trap n => Sys2Proof.Machine.execTrap n s
  | .ld d a im st => Sys2Proof.Machine.execLd d a im st s
  | .st a b im st j => Sys2Proof.Machine.execSt a b im st j s
  | .fldW d a im => Sys2Proof.Machine.execFldW d a im s
  | .fstW d a im => Sys2Proof.Machine.execFstW d a im s
  | .lds d a st o => Sys2Proof.Machine.execLds d a st o s
  | .sts a b st o => Sys2Proof.Machine.execSts a b st o s
  | .amoSwap d a b z o => Sys2Proof.Machine.execAmoSwap d a b z o s
  | .amoAdd d a b z o => Sys2Proof.Machine.execAmoAdd d a b z o s
  | .amoAnd d a b z o => Sys2Proof.Machine.execAmoAnd d a b z o s
  | .amoOr d a b z o => Sys2Proof.Machine.execAmoOr d a b z o s
  | .amoXor d a b z o => Sys2Proof.Machine.execAmoXor d a b z o s
  | .amoMin d a b z o => Sys2Proof.Machine.execAmoMin d a b z o s
  | .amoMax d a b z o => Sys2Proof.Machine.execAmoMax d a b z o s
  | .amoMinz d a b z o => Sys2Proof.Machine.execAmoMinz d a b z o s
  | .amoMaxz d a b z o => Sys2Proof.Machine.execAmoMaxz d a b z o s
  | .amoFadd d a b o => Sys2Proof.Machine.execAmoFadd d a b o s
  | .amoFmin d a b o => Sys2Proof.Machine.execAmoFmin d a b o s
  | .amoFmax d a b o => Sys2Proof.Machine.execAmoFmax d a b o s
  | .amocas d a b c o => Sys2Proof.Machine.execAmocas d a b c o s
  | .fence o => Sys2Proof.Machine.execFence o s
  | .tadd a b st => Sys2Proof.Machine.execTadd a b st s
  | .tread d a st => Sys2Proof.Machine.execTread d a st s
  | .waitge a b st => Sys2Proof.Machine.execWaitge a b st s
  | .msend a b c => Sys2Proof.Machine.execMsend a b c s
  | .msendp d a b c => Sys2Proof.Machine.execMsendp d a b c s
  | .tarm a b c => Sys2Proof.Machine.execTarm a b c s
  | .tarmRep a b c => Sys2Proof.Machine.execTarmRep a b c s
  | .tbind a b c => Sys2Proof.Machine.execTbind a b c s
  | .tunbind a => Sys2Proof.Machine.execTunbind a s
  | .tdis a => Sys2Proof.Machine.execTdis a s
  | .ten a => Sys2Proof.Machine.execTen a s
  | .tdec a => Sys2Proof.Machine.execTdec a s
  | .tstat d a => Sys2Proof.Machine.execTstat d a s
  | .tfcnt d a => Sys2Proof.Machine.execTfcnt d a s
  | .tclrf a => Sys2Proof.Machine.execTclrf a s
  | .hbind a b => Sys2Proof.Machine.execHbind a b s
  | .bar a b st => Sys2Proof.Machine.execBar a b st s
  | .bara d a b st => Sys2Proof.Machine.execBara d a b st s
  | .barw a b st => Sys2Proof.Machine.execBarw a b st s
  | .elect d a b st => Sys2Proof.Machine.execElect d a b st s
  | .spawn d a b c => Sys2Proof.Machine.execSpawn d a b c s
  | .dqcnt d => Sys2Proof.Machine.execDqcnt d s
  | .vclaim d a => Sys2Proof.Machine.execVclaim d a s
  | .vclaimTry d a => Sys2Proof.Machine.execVclaimTry d a s
  | .vrel => Sys2Proof.Machine.execVrel s
  | .vwaitm b => Sys2Proof.Machine.execVwaitm b s
  | .vld d a p => Sys2Proof.Machine.execVld d a p s
  | .vlds d a b p => Sys2Proof.Machine.execVlds d a b p s
  | .vldg d a b p => Sys2Proof.Machine.execVldg d a b p s
  | .vldt d a b k p => Sys2Proof.Machine.execVldt d a b k p s
  | .vst d a p => Sys2Proof.Machine.execVst d a p s
  | .vsts d a b p => Sys2Proof.Machine.execVsts d a b p s
  | .vstg d a b p => Sys2Proof.Machine.execVstg d a b p s
  | .vstt d a b k p => Sys2Proof.Machine.execVstt d a b k p s
  | .vadd d a b w p => Sys2Proof.Machine.execVadd d a b w p s
  | .vsub d a b w p => Sys2Proof.Machine.execVsub d a b w p s
  | .vmul d a b w p => Sys2Proof.Machine.execVmul d a b w p s
  | .vmulh d a b w p => Sys2Proof.Machine.execVmulh d a b w p s
  | .vmulhz d a b w p => Sys2Proof.Machine.execVmulhz d a b w p s
  | .vand d a b w p => Sys2Proof.Machine.execVand d a b w p s
  | .vor d a b w p => Sys2Proof.Machine.execVor d a b w p s
  | .vxor d a b w p => Sys2Proof.Machine.execVxor d a b w p s
  | .vandn d a b w p => Sys2Proof.Machine.execVandn d a b w p s
  | .vsll d a b w p => Sys2Proof.Machine.execVsll d a b w p s
  | .vsrl d a b w p => Sys2Proof.Machine.execVsrl d a b w p s
  | .vsra d a b w p => Sys2Proof.Machine.execVsra d a b w p s
  | .vmin d a b w p => Sys2Proof.Machine.execVmin d a b w p s
  | .vmax d a b w p => Sys2Proof.Machine.execVmax d a b w p s
  | .vminz d a b w p => Sys2Proof.Machine.execVminz d a b w p s
  | .vmaxz d a b w p => Sys2Proof.Machine.execVmaxz d a b w p s
  | .vaddSat d a b w p => Sys2Proof.Machine.execVaddSat d a b w p s
  | .vaddzSat d a b w p => Sys2Proof.Machine.execVaddzSat d a b w p s
  | .vsubSat d a b w p => Sys2Proof.Machine.execVsubSat d a b w p s
  | .vsubzSat d a b w p => Sys2Proof.Machine.execVsubzSat d a b w p s
  | .vmac d a b w p => Sys2Proof.Machine.execVmac d a b w p s
  | .vdot d a b w p => Sys2Proof.Machine.execVdot d a b w p s
  | .vdotz d a b w p => Sys2Proof.Machine.execVdotz d a b w p s
  | .vsel d a b w p => Sys2Proof.Machine.execVsel d a b w p s
  | .vfadd d a b t p => Sys2Proof.Machine.execVfadd d a b t p s
  | .vfsub d a b t p => Sys2Proof.Machine.execVfsub d a b t p s
  | .vfmul d a b t p => Sys2Proof.Machine.execVfmul d a b t p s
  | .vfma d a b t p => Sys2Proof.Machine.execVfma d a b t p s
  | .vfnma d a b t p => Sys2Proof.Machine.execVfnma d a b t p s
  | .vfmin d a b t p => Sys2Proof.Machine.execVfmin d a b t p s
  | .vfmax d a b t p => Sys2Proof.Machine.execVfmax d a b t p s
  | .vfcpsgn d a b t p => Sys2Proof.Machine.execVfcpsgn d a b t p s
  | .vcmpeq d a b p => Sys2Proof.Machine.execVcmpeq d a b p s
  | .vcmpne d a b p => Sys2Proof.Machine.execVcmpne d a b p s
  | .vcmplt d a b p => Sys2Proof.Machine.execVcmplt d a b p s
  | .vcmple d a b p => Sys2Proof.Machine.execVcmple d a b p s
  | .vcmpltz d a b p => Sys2Proof.Machine.execVcmpltz d a b p s
  | .vcmplez d a b p => Sys2Proof.Machine.execVcmplez d a b p s
  | .vfcmpeq d a b p => Sys2Proof.Machine.execVfcmpeq d a b p s
  | .vfcmplt d a b p => Sys2Proof.Machine.execVfcmplt d a b p s
  | .vfcmple d a b p => Sys2Proof.Machine.execVfcmple d a b p s
  | .vfcmpun d a b p => Sys2Proof.Machine.execVfcmpun d a b p s
  | .pand d a b => Sys2Proof.Machine.execPand d a b s
  | .por d a b => Sys2Proof.Machine.execPor d a b s
  | .pxor d a b => Sys2Proof.Machine.execPxor d a b s
  | .pandn d a b => Sys2Proof.Machine.execPandn d a b s
  | .pnot d a => Sys2Proof.Machine.execPnot d a s
  | .pwhile d a => Sys2Proof.Machine.execPwhile d a s
  | .pcnt d a => Sys2Proof.Machine.execPcnt d a s
  | .vperm d a b p => Sys2Proof.Machine.execVperm d a b p s
  | .vslideUp d a b p => Sys2Proof.Machine.execVslideUp d a b p s
  | .vslideDn d a b p => Sys2Proof.Machine.execVslideDn d a b p s
  | .vbcast d a p => Sys2Proof.Machine.execVbcast d a p s
  | .vbcastE d a b p => Sys2Proof.Machine.execVbcastE d a b p s
  | .vins d a b => Sys2Proof.Machine.execVins d a b s
  | .vext d a b => Sys2Proof.Machine.execVext d a b s
  | .vredadd d a p => Sys2Proof.Machine.execVredadd d a p s
  | .vredmin d a p => Sys2Proof.Machine.execVredmin d a p s
  | .vredmax d a p => Sys2Proof.Machine.execVredmax d a p s
  | .vredminz d a p => Sys2Proof.Machine.execVredminz d a p s
  | .vredmaxz d a p => Sys2Proof.Machine.execVredmaxz d a p s
  | .vredand d a p => Sys2Proof.Machine.execVredand d a p s
  | .vredor d a p => Sys2Proof.Machine.execVredor d a p s
  | .vredxor d a p => Sys2Proof.Machine.execVredxor d a p s
  | .vfredadd d a p => Sys2Proof.Machine.execVfredadd d a p s
  | .vfredmin d a p => Sys2Proof.Machine.execVfredmin d a p s
  | .vfredmax d a p => Sys2Proof.Machine.execVfredmax d a p s
  | .vcvtF32Bf16 d a b st r => Sys2Proof.Machine.execVcvtF32Bf16 d a b st r s
  | .vcvtF32F16 d a b st r => Sys2Proof.Machine.execVcvtF32F16 d a b st r s
  | .vcvtF32E4m3 d a b st r => Sys2Proof.Machine.execVcvtF32E4m3 d a b st r s
  | .vcvtF32E5m2 d a b st r => Sys2Proof.Machine.execVcvtF32E5m2 d a b st r s
  | .vcvtF32E2m1 d a b st r => Sys2Proof.Machine.execVcvtF32E2m1 d a b st r s
  | .vcvtBf16F32 d a => Sys2Proof.Machine.execVcvtBf16F32 d a s
  | .vcvtF16F32 d a => Sys2Proof.Machine.execVcvtF16F32 d a s
  | .vcvtE4m3F32 d a => Sys2Proof.Machine.execVcvtE4m3F32 d a s
  | .vcvtE5m2F32 d a => Sys2Proof.Machine.execVcvtE5m2F32 d a s
  | .vcvtE2m1F32 d a => Sys2Proof.Machine.execVcvtE2m1F32 d a s
  | .vcvtS32F32 d a r => Sys2Proof.Machine.execVcvtS32F32 d a r s
  | .vcvtZ32F32 d a r => Sys2Proof.Machine.execVcvtZ32F32 d a r s
  | .vcvtF32S32 d a r => Sys2Proof.Machine.execVcvtF32S32 d a r s
  | .vcvtF32Z32 d a r => Sys2Proof.Machine.execVcvtF32Z32 d a r s
  | .vcvtS32S16x2 d a st => Sys2Proof.Machine.execVcvtS32S16x2 d a st s
  | .vcvtZ32Z16x2 d a st => Sys2Proof.Machine.execVcvtZ32Z16x2 d a st s
  | .vcvtS32S8x4 d a st => Sys2Proof.Machine.execVcvtS32S8x4 d a st s
  | .vcvtZ32Z8x4 d a st => Sys2Proof.Machine.execVcvtZ32Z8x4 d a st s
  | .vcvtS16x2S32 d a => Sys2Proof.Machine.execVcvtS16x2S32 d a s
  | .vcvtZ16x2Z32 d a => Sys2Proof.Machine.execVcvtZ16x2Z32 d a s
  | .vcvtS8x4S32 d a => Sys2Proof.Machine.execVcvtS8x4S32 d a s
  | .vcvtZ8x4Z32 d a => Sys2Proof.Machine.execVcvtZ8x4Z32 d a s
  | .vexp2 d a p => Sys2Proof.Machine.execVexp2 d a p s
  | .vlog2 d a p => Sys2Proof.Machine.execVlog2 d a p s
  | .vrcp d a p => Sys2Proof.Machine.execVrcp d a p s
  | .vrsqrt d a p => Sys2Proof.Machine.execVrsqrt d a p s
  | .vtanh d a p => Sys2Proof.Machine.execVtanh d a p s
  | .vsigm d a p => Sys2Proof.Machine.execVsigm d a p s
  | .vsin d a p => Sys2Proof.Machine.execVsin d a p s
  | .vcos d a p => Sys2Proof.Machine.execVcos d a p s
  | .mma d a b c q p => Sys2Proof.Machine.execMma d a b c q p s
  | .mmab d a b c q p => Sys2Proof.Machine.execMmab d a b c q p s
  | .zclr d f => Sys2Proof.Machine.execZclr d f s
  | .zld d a f => Sys2Proof.Machine.execZld d a f s
  | .zst d a r f st t => Sys2Proof.Machine.execZst d a r f st t s
  | .mwait a => Sys2Proof.Machine.execMwait a s
  | .wldPlain d a c => Sys2Proof.Machine.execWldPlain d a c s
  | .wldXpb4 d a b c => Sys2Proof.Machine.execWldXpb4 d a b c s
  | .wldXpb5 d a b c => Sys2Proof.Machine.execWldXpb5 d a b c s
  | .qpush d a b c => Sys2Proof.Machine.execQpush d a b c s
  | .qtry d a b c => Sys2Proof.Machine.execQtry d a b c s
  | .rset d a b => Sys2Proof.Machine.execRset d a b s
  | .rwaitf d a => Sys2Proof.Machine.execRwaitf d a s
  | .rwaite d a => Sys2Proof.Machine.execRwaite d a s
  | .radvp d a => Sys2Proof.Machine.execRadvp d a s
  | .radvc d a => Sys2Proof.Machine.execRadvc d a s
  | .rstat d a => Sys2Proof.Machine.execRstat d a s
  | .halo a b => Sys2Proof.Machine.execHalo a b s
  | .xreg d a b => Sys2Proof.Machine.execXreg d a b s
  | .xroute d a b c => Sys2Proof.Machine.execXroute d a b c s
  | .xgate d a b st => Sys2Proof.Machine.execXgate d a b st s
  | .xgrad a b c => Sys2Proof.Machine.execXgrad a b c s
  | .xjoin d a b => Sys2Proof.Machine.execXjoin d a b s
  | .xstat d a b => Sys2Proof.Machine.execXstat d a b s
  | .xpol d a b c => Sys2Proof.Machine.execXpol d a b c s
  | .xdrop d a => Sys2Proof.Machine.execXdrop d a s
  | .vwdef d a c => Sys2Proof.Machine.execVwdef d a c s
  | .vwdrop d a => Sys2Proof.Machine.execVwdrop d a s
  | .vwrd d a b c => Sys2Proof.Machine.execVwrd d a b c s
  | .vwtag d a b => Sys2Proof.Machine.execVwtag d a b s
  | .vwpub d a => Sys2Proof.Machine.execVwpub d a s
  | .vwpol d a b c => Sys2Proof.Machine.execVwpol d a b c s
  | .vwsync a b => Sys2Proof.Machine.execVwsync a b s
  | .stgdef d a => Sys2Proof.Machine.execStgdef d a s
  | .stggo d a => Sys2Proof.Machine.execStggo d a s
  | .stgstop d => Sys2Proof.Machine.execStgstop d s
  | .stgpost d a b c => Sys2Proof.Machine.execStgpost d a b c s
  | .stgstash d a => Sys2Proof.Machine.execStgstash d a s
  | .stgbub d a => Sys2Proof.Machine.execStgbub d a s
  | .launch d a b => Sys2Proof.Machine.execLaunch d a b s
  | .cqpost d a b => Sys2Proof.Machine.execCqpost d a b s
  | .cqwait d a b => Sys2Proof.Machine.execCqwait d a b s
  | .cAddi d im => Sys2Proof.Machine.execCAddi d im s
  | .cLi d im => Sys2Proof.Machine.execCLi d im s
  | .cMv d a => Sys2Proof.Machine.execCMv d a s
  | .cAdd d a => Sys2Proof.Machine.execCAdd d a s
  | .cSub d a => Sys2Proof.Machine.execCSub d a s
  | .cAnd d a => Sys2Proof.Machine.execCAnd d a s
  | .cSlli d n => Sys2Proof.Machine.execCSlli d n s
  | .cLdd d im => Sys2Proof.Machine.execCLdd d im s
  | .cStd b im => Sys2Proof.Machine.execCStd b im s
  | .cLdw d a u => Sys2Proof.Machine.execCLdw d a u s
  | .cStw a b u => Sys2Proof.Machine.execCStw a b u s
  | .cBeqz a im => Sys2Proof.Machine.execCBeqz a im s
  | .cBnez a im => Sys2Proof.Machine.execCBnez a im s
  | .cJ o => Sys2Proof.Machine.execCJ o s
  | .cJr a => Sys2Proof.Machine.execCJr a s
  | .cSafe n => Sys2Proof.Machine.execCSafe n s
  | .messageArrival => Sys2Proof.Machine.execMessageArrival s
  | .heldDecrement => Sys2Proof.Machine.execHeldDecrement s
  | .taskStart => Sys2Proof.Machine.execTaskStart s
  | .creationHoldRelease => Sys2Proof.Machine.execCreationHoldRelease s
  | .taskPromotion => Sys2Proof.Machine.execTaskPromotion s
  | .evictedTaskReady => Sys2Proof.Machine.execEvictedTaskReady s
  | .stealRequest => Sys2Proof.Machine.execStealRequest s
  | .stealBackoff => Sys2Proof.Machine.execStealBackoff s
  | .stealHandover => Sys2Proof.Machine.execStealHandover s
  | .remoteAccess => Sys2Proof.Machine.execRemoteAccess s
  | .remoteReply => Sys2Proof.Machine.execRemoteReply s
  | .combiningDrainTimeout => Sys2Proof.Machine.execCombiningDrainTimeout s
  | .pageWalkComplete => Sys2Proof.Machine.execPageWalkComplete s
  | .memoryAgentRequest => Sys2Proof.Machine.execMemoryAgentRequest s
  | .writeReport => Sys2Proof.Machine.execWriteReport s
  | .waitTimeout => Sys2Proof.Machine.execWaitTimeout s
  | .claimGrant => Sys2Proof.Machine.execClaimGrant s
  | .vmemPerformed => Sys2Proof.Machine.execVmemPerformed s
  | .sfuResult => Sys2Proof.Machine.execSfuResult s
  | .matrixSelect => Sys2Proof.Machine.execMatrixSelect s
  | .operandsConsumed => Sys2Proof.Machine.execOperandsConsumed s
  | .matrixComplete => Sys2Proof.Machine.execMatrixComplete s
  | .copyTurn => Sys2Proof.Machine.execCopyTurn s
  | .copyRequestComplete => Sys2Proof.Machine.execCopyRequestComplete s
  | .remoteWritePacket => Sys2Proof.Machine.execRemoteWritePacket s
  | .writeAcknowledgement => Sys2Proof.Machine.execWriteAcknowledgement s
  | .blockRegeneration => Sys2Proof.Machine.execBlockRegeneration s
  | .regenerationComplete => Sys2Proof.Machine.execRegenerationComplete s
  | .tokenDecision => Sys2Proof.Machine.execTokenDecision s
  | .heldTokenRedecision => Sys2Proof.Machine.execHeldTokenRedecision s
  | .windowEnd => Sys2Proof.Machine.execWindowEnd s
  | .versionChange => Sys2Proof.Machine.execVersionChange s
  | .partialArrival => Sys2Proof.Machine.execPartialArrival s
  | .dcqReservation => Sys2Proof.Machine.execDcqReservation s
  | .doorbell => Sys2Proof.Machine.execDoorbell s
  | .hostQueueFetch => Sys2Proof.Machine.execHostQueueFetch s
  | .dcqNop => Sys2Proof.Machine.execDcqNop s
  | .dcqLaunch => Sys2Proof.Machine.execDcqLaunch s
  | .dcqTiles => Sys2Proof.Machine.execDcqTiles s
  | .dcqCollectiveStep => Sys2Proof.Machine.execDcqCollectiveStep s
  | .dcqWait => Sys2Proof.Machine.execDcqWait s
  | .dcqBranch => Sys2Proof.Machine.execDcqBranch s
  | .dcqSignal => Sys2Proof.Machine.execDcqSignal s
  | .dcqFence => Sys2Proof.Machine.execDcqFence s
  | .dcqReservedCommand => Sys2Proof.Machine.execDcqReservedCommand s
  | .commandTlcAdd => Sys2Proof.Machine.execCommandTlcAdd s
  | .trailEntryStart => Sys2Proof.Machine.execTrailEntryStart s
  | .trailEntryComplete => Sys2Proof.Machine.execTrailEntryComplete s
  | .trailPostArrival => Sys2Proof.Machine.execTrailPostArrival s
  | .slotReturn => Sys2Proof.Machine.execSlotReturn s
  | .barrierArrival => Sys2Proof.Machine.execBarrierArrival s
  | .barrierReply => Sys2Proof.Machine.execBarrierReply s
  | .completionMulticast => Sys2Proof.Machine.execCompletionMulticast s
  | .barrierDoneFlit => Sys2Proof.Machine.execBarrierDoneFlit s
  | .flitReceive => Sys2Proof.Machine.execFlitReceive s
  | .ackReceive => Sys2Proof.Machine.execAckReceive s
  | .nakReceive => Sys2Proof.Machine.execNakReceive s
  | .ackTimer => Sys2Proof.Machine.execAckTimer s
  | .nakResendTimeout => Sys2Proof.Machine.execNakResendTimeout s
  | .replayTimeout => Sys2Proof.Machine.execReplayTimeout s
  | .laneFailure => Sys2Proof.Machine.execLaneFailure s
  | .retrainingEnd => Sys2Proof.Machine.execRetrainingEnd s
  | .trainingRetry => Sys2Proof.Machine.execTrainingRetry s
  | .retrain => Sys2Proof.Machine.execRetrain s
  | .hold => Sys2Proof.Machine.execHold s
  | .fabricHopFailure => Sys2Proof.Machine.execFabricHopFailure s
  | .uncorrectableError => Sys2Proof.Machine.execUncorrectableError s
  | .apertureAccess => Sys2Proof.Machine.execApertureAccess s
  | .create => Sys2Proof.Machine.execCreate s
  | .halt => Sys2Proof.Machine.execHalt s
  | .save => Sys2Proof.Machine.execSave s
  | .restore => Sys2Proof.Machine.execRestore s
  | .resume => Sys2Proof.Machine.execResume s
  | .destroy => Sys2Proof.Machine.execDestroy s
  | .realmCommandInvalid => Sys2Proof.Machine.execRealmCommandInvalid s
  | .haltComplete => Sys2Proof.Machine.execHaltComplete s
  | .saveComplete => Sys2Proof.Machine.execSaveComplete s
  | .restoreComplete => Sys2Proof.Machine.execRestoreComplete s
  | .haltLimit => Sys2Proof.Machine.execHaltLimit s
  | .saveLimit => Sys2Proof.Machine.execSaveLimit s
  | .restoreLimit => Sys2Proof.Machine.execRestoreLimit s
  | .invctlStart => Sys2Proof.Machine.execInvctlStart s
  | .invalidationEnd => Sys2Proof.Machine.execInvalidationEnd s
  | .registerWrite => Sys2Proof.Machine.execRegisterWrite s
  | .ltolWrite => Sys2Proof.Machine.execLtolWrite s
  | .idlePowerEntry => Sys2Proof.Machine.execIdlePowerEntry s
  | .wakeEvent => Sys2Proof.Machine.execWakeEvent s
  | .hostLinkDown => Sys2Proof.Machine.execHostLinkDown s
  | .hostLinkRestored => Sys2Proof.Machine.execHostLinkRestored s
  | .hostReadTimeout => Sys2Proof.Machine.execHostReadTimeout s
  | .mgmtRequest => Sys2Proof.Machine.execMgmtRequest s
  | .firmwareUpdate => Sys2Proof.Machine.execFirmwareUpdate s
  | .getMeasurements => Sys2Proof.Machine.execGetMeasurements s
  | .moduleReset => Sys2Proof.Machine.execModuleReset s
  | .wdogStallLimit => Sys2Proof.Machine.execWdogStallLimit s
  | .wdogT1Expiry => Sys2Proof.Machine.execWdogT1Expiry s
  | .wdogKillsComplete => Sys2Proof.Machine.execWdogKillsComplete s
  | .wdogT2Expiry => Sys2Proof.Machine.execWdogT2Expiry s
  | .trapRecordDispatch => Sys2Proof.Machine.execTrapRecordDispatch s
  | .svcDispatch => Sys2Proof.Machine.execSvcDispatch s
  | .flushingReadComplete => Sys2Proof.Machine.execFlushingReadComplete s
  | .correctedError => Sys2Proof.Machine.execCorrectedError s

end Sys2Proof.Machine
end

