-- ==== Sys2Proof/Decode.lean ====
section
/-! DEFINITION. From halfwords to an instruction and back (09_encoding.md, R180 to R190). `decodeWord` and `decodeCompact`
cut a word into the fields of its format and refuse every word whose fixed bits are no row of the opcode table;
`decode` also refuses the reserved sub-field values (`Instr.wellFormed`, R185). `encode` writes a word from the same
formats. The parts of an immediate that lie in several fields are joined here and nowhere else. The definitions that build
an `Instr` are marked noncomputable because Lean's code generator holds at most 244 constructors with fields; the kernel
evaluates them all the same. -/

namespace Sys2Proof

/-- Why a word is no instruction; R369 turns each of them into the trap RESENC. -/
inductive DecodeError where
  /-- The major is one of the reserved majors of R186. -/
  | reservedMajor (maj : BitVec 6)
  /-- The major is defined, and the fixed bits match none of its rows (R185). -/
  | reservedForm (maj : BitVec 6)
  /-- A compact word whose fixed-zero bits are not zero, or a reserved compact use (R189, R190). -/
  | reservedCompact (cm : BitVec 4)
  /-- There is no halfword left to read. -/
  | shortInput
  deriving DecidableEq, Repr

/-- A 32-bit word from its fields (R181). -/
def mkR (fn c b a d : BitVec 5) (maj : BitVec 6) : BitVec 32 := fn ++ c ++ b ++ a ++ d ++ (maj ++ 1#1)
/-- A compact word from its upper eleven bits and its compact major (R188). -/
def mkC (top : BitVec 11) (cm : BitVec 4) : Half := top ++ (cm ++ 0#1)

/-- Bits [31:27] (R181). -/
def fFn (w : BitVec 32) : BitVec 5 := w.extractLsb' 27 5
/-- Bits [26:22] (R181). -/
def fC (w : BitVec 32) : BitVec 5 := w.extractLsb' 22 5
/-- Bits [21:17] (R181). -/
def fB (w : BitVec 32) : BitVec 5 := w.extractLsb' 17 5
/-- Bits [16:12] (R181). -/
def fA (w : BitVec 32) : BitVec 5 := w.extractLsb' 12 5
/-- Bits [11:7] (R181). -/
def fD (w : BitVec 32) : BitVec 5 := w.extractLsb' 7 5
/-- Bits [6:1], the major opcode (R181). -/
def fMaj (w : BitVec 32) : BitVec 6 := w.extractLsb' 1 6

/-- Major 0x00 (R186): the row whose fixed bits the fields match. -/
def decAluR (fn c b a d : BitVec 5) : Option Instr :=
  if fn == 0#5 && c == 0#5 then some (.add d a b)
  else if fn == 1#5 && c == 0#5 then some (.sub d a b)
  else if fn == 2#5 && c == 0#5 then some (.and d a b)
  else if fn == 3#5 && c == 0#5 then some (.or d a b)
  else if fn == 4#5 && c == 0#5 then some (.xor d a b)
  else if fn == 5#5 && c == 0#5 then some (.andn d a b)
  else if fn == 6#5 && c == 0#5 then some (.orn d a b)
  else if fn == 7#5 && c == 0#5 then some (.xnor d a b)
  else if fn == 8#5 && c == 0#5 then some (.sll d a b)
  else if fn == 9#5 && c == 0#5 then some (.srl d a b)
  else if fn == 10#5 && c == 0#5 then some (.sra d a b)
  else if fn == 11#5 && c == 0#5 then some (.rol d a b)
  else if fn == 12#5 && c == 0#5 then some (.ror d a b)
  else if fn == 13#5 && c == 0#5 then some (.slt d a b)
  else if fn == 14#5 && c == 0#5 then some (.sltz d a b)
  else if fn == 15#5 && c == 0#5 then some (.min d a b)
  else if fn == 16#5 && c == 0#5 then some (.max d a b)
  else if fn == 17#5 && c == 0#5 then some (.minz d a b)
  else if fn == 18#5 && c == 0#5 then some (.maxz d a b)
  else if fn == 19#5 && c == 0#5 then some (.addSat d a b)
  else if fn == 20#5 && c == 0#5 then some (.subSat d a b)
  else if fn == 21#5 && c == 0#5 then some (.addzSat d a b)
  else if fn == 22#5 && c == 0#5 then some (.subzSat d a b)
  else if fn == 23#5 && c == 0#5 && b == 0#5 then some (.clz d a)
  else if fn == 24#5 && c == 0#5 && b == 0#5 then some (.ctz d a)
  else if fn == 25#5 && c == 0#5 && b == 0#5 then some (.cpop d a)
  else if fn == 26#5 && c == 0#5 && b == 0#5 then some (.rev8 d a)
  else if fn == 27#5 && c == 0#5 then some (.bfxS d a b)
  else if fn == 28#5 && c == 0#5 then some (.bfxZ d a b)
  else if fn == 29#5 && c == 0#5 then some (.bfi d a b)
  else if fn == 30#5 then some (.sel d a b c)
  else none

/-- Major 0x06 (R186): the row whose fixed bits the fields match. -/
def decShi (fn c b a d : BitVec 5) : Option Instr :=
  if fn == 0#5 && c.extractLsb' 1 4 == 0#4 then some (.shiSll d a (c.extractLsb' 0 1 ++ b))
  else if fn == 0#5 && c.extractLsb' 1 4 == 1#4 then some (.shiSrl d a (c.extractLsb' 0 1 ++ b))
  else if fn == 0#5 && c.extractLsb' 1 4 == 2#4 then some (.shiSra d a (c.extractLsb' 0 1 ++ b))
  else if fn == 0#5 && c.extractLsb' 1 4 == 3#4 then some (.shiRor d a (c.extractLsb' 0 1 ++ b))
  else none

/-- Major 0x07 (R186): the row whose fixed bits the fields match. -/
def decMulDiv (fn c b a d : BitVec 5) : Option Instr :=
  if fn == 0#5 && c == 0#5 then some (.mul d a b)
  else if fn == 1#5 && c == 0#5 then some (.mulh d a b)
  else if fn == 2#5 && c == 0#5 then some (.mulhz d a b)
  else if fn == 3#5 && c == 0#5 then some (.mulhsz d a b)
  else if fn == 4#5 && c == 0#5 then some (.div d a b)
  else if fn == 5#5 && c == 0#5 then some (.divz d a b)
  else if fn == 6#5 && c == 0#5 then some (.rem d a b)
  else if fn == 7#5 && c == 0#5 then some (.remz d a b)
  else none

/-- Major 0x12 (R186): the row whose fixed bits the fields match. -/
def decFpu (fn c b a d : BitVec 5) : Option Instr :=
  if fn == 0#5 && c.extractLsb' 3 2 == 0#2 then some (.fadd d a b (c.extractLsb' 0 3))
  else if fn == 1#5 && c.extractLsb' 3 2 == 0#2 then some (.fsub d a b (c.extractLsb' 0 3))
  else if fn == 2#5 && c.extractLsb' 3 2 == 0#2 then some (.fmul d a b (c.extractLsb' 0 3))
  else if fn == 3#5 && c.extractLsb' 3 2 == 0#2 then some (.fdiv d a b (c.extractLsb' 0 3))
  else if fn == 4#5 && c.extractLsb' 3 2 == 0#2 && b == 0#5 then some (.fsqrt d a (c.extractLsb' 0 3))
  else if fn == 5#5 && c == 0#5 then some (.fmin d a b)
  else if fn == 6#5 && c == 0#5 then some (.fmax d a b)
  else if fn == 7#5 && c == 0#5 then some (.fcpsgn d a b)
  else if fn == 8#5 && c == 0#5 then some (.fcpsgnn d a b)
  else if fn == 9#5 && c == 0#5 then some (.fcpsgnx d a b)
  else if fn == 10#5 && c == 0#5 then some (.feq d a b)
  else if fn == 11#5 && c == 0#5 then some (.flt d a b)
  else if fn == 12#5 && c == 0#5 then some (.fle d a b)
  else if fn == 13#5 && c == 0#5 && b == 0#5 then some (.fclass d a)
  else if fn == 14#5 && b == 0#5 then some (.fcvtF32Ty d a (c.extractLsb' 3 2) (c.extractLsb' 0 3))
  else if fn == 15#5 && b == 0#5 then some (.fcvtTyF32 d a (c.extractLsb' 3 2) (c.extractLsb' 0 3))
  else if fn == 16#5 && c == 0#5 && b == 0#5 then some (.fmvXF d a)
  else if fn == 17#5 && c == 0#5 && b == 0#5 then some (.fmvFX d a)
  else if fn == 18#5 && c.extractLsb' 3 2 == 0#2 && (b.extractLsb' 3 2).extractLsb' 1 1 == 0#1 then some (.fcvtF32Nfmt d a (c.extractLsb' 0 3) ((b.extractLsb' 3 2).extractLsb' 0 1) (b.extractLsb' 0 3))
  else if fn == 19#5 && c == 0#5 && b.extractLsb' 3 2 == 0#2 then some (.fcvtNfmtF32 d a (b.extractLsb' 0 3))
  else none

/-- Major 0x13 (R186): the row whose fixed bits the fields match. -/
def decFfma (fn c b a d : BitVec 5) : Option Instr :=
  if fn.extractLsb' 0 2 == 0#2 then some (.ffma d a b c (fn.extractLsb' 2 3))
  else if fn.extractLsb' 0 2 == 1#2 then some (.ffms d a b c (fn.extractLsb' 2 3))
  else if fn.extractLsb' 0 2 == 2#2 then some (.fnma d a b c (fn.extractLsb' 2 3))
  else if fn.extractLsb' 0 2 == 3#2 then some (.fnms d a b c (fn.extractLsb' 2 3))
  else none

/-- Major 0x14 (R186): the row whose fixed bits the fields match. -/
def decSys (fn c b a d : BitVec 5) : Option Instr :=
  if fn.extractLsb' 2 3 == 0#3 && a == 0#5 then some (.csrr d (fn.extractLsb' 0 2 ++ c ++ b))
  else if fn.extractLsb' 2 3 == 1#3 then some (.csrw d a (fn.extractLsb' 0 2 ++ c ++ b))
  else if fn.extractLsb' 2 3 == 2#3 then some (.csrs d a (fn.extractLsb' 0 2 ++ c ++ b))
  else if fn.extractLsb' 2 3 == 3#3 then some (.csrc d a (fn.extractLsb' 0 2 ++ c ++ b))
  else if fn == 16#5 && c.extractLsb' 3 2 == 0#2 && a == 0#5 && d == 0#5 then some (.safe (c.extractLsb' 0 3 ++ b))
  else if fn == 20#5 && c == 0#5 && b == 0#5 && a == 0#5 && d == 0#5 then some .yield
  else if fn == 24#5 && c == 0#5 && b == 0#5 && a == 0#5 && d == 0#5 then some .done
  else if fn == 28#5 && c.extractLsb' 3 2 == 0#2 && a == 0#5 && d == 0#5 then some (.svc (c.extractLsb' 0 3 ++ b))
  else if fn == 30#5 && c.extractLsb' 3 2 == 0#2 && a == 0#5 && d == 0#5 then some (.trap (c.extractLsb' 0 3 ++ b))
  else none

/-- Major 0x1A (R186): the row whose fixed bits the fields match. -/
def decFls (fn c b a d : BitVec 5) : Option Instr :=
  if b.extractLsb' 0 3 == 2#3 then some (.fldW d a (fn ++ c ++ b.extractLsb' 3 2))
  else if b.extractLsb' 0 3 == 6#3 then some (.fstW d a (fn ++ c ++ b.extractLsb' 3 2))
  else none

/-- Major 0x1B (R186): the row whose fixed bits the fields match. -/
def decLdsSts (fn c b a d : BitVec 5) : Option Instr :=
  if fn.extractLsb' 3 2 == 0#2 && b == 0#5 then some (.lds d a (fn.extractLsb' 0 3) c)
  else if fn.extractLsb' 2 3 == 4#3 && d == 0#5 then some (.sts a b (fn.extractLsb' 0 2) c)
  else none

/-- Major 0x1C (R186): the row whose fixed bits the fields match. -/
def decAmo (fn c b a d : BitVec 5) : Option Instr :=
  if fn.extractLsb' 0 4 == 0#4 then some (.amoSwap d a b (fn.extractLsb' 4 1) c)
  else if fn.extractLsb' 0 4 == 1#4 then some (.amoAdd d a b (fn.extractLsb' 4 1) c)
  else if fn.extractLsb' 0 4 == 2#4 then some (.amoAnd d a b (fn.extractLsb' 4 1) c)
  else if fn.extractLsb' 0 4 == 3#4 then some (.amoOr d a b (fn.extractLsb' 4 1) c)
  else if fn.extractLsb' 0 4 == 4#4 then some (.amoXor d a b (fn.extractLsb' 4 1) c)
  else if fn.extractLsb' 0 4 == 5#4 then some (.amoMin d a b (fn.extractLsb' 4 1) c)
  else if fn.extractLsb' 0 4 == 6#4 then some (.amoMax d a b (fn.extractLsb' 4 1) c)
  else if fn.extractLsb' 0 4 == 7#4 then some (.amoMinz d a b (fn.extractLsb' 4 1) c)
  else if fn.extractLsb' 0 4 == 8#4 then some (.amoMaxz d a b (fn.extractLsb' 4 1) c)
  else if fn == 9#5 then some (.amoFadd d a b c)
  else if fn == 10#5 then some (.amoFmin d a b c)
  else if fn == 11#5 then some (.amoFmax d a b c)
  else none

/-- Major 0x1E (R186): the row whose fixed bits the fields match. -/
def decFence (fn c b a d : BitVec 5) : Option Instr :=
  if fn == 0#5 && b == 0#5 && a == 0#5 && d == 0#5 then some (.fence c)
  else none

/-- Major 0x1F (R186): the row whose fixed bits the fields match. -/
def decCtr (fn c b a d : BitVec 5) : Option Instr :=
  if fn == 0#5 && c.extractLsb' 3 2 == 0#2 && d == 0#5 then some (.tadd a b (c.extractLsb' 0 3))
  else if fn == 1#5 && c.extractLsb' 3 2 == 0#2 && b == 0#5 then some (.tread d a (c.extractLsb' 0 3))
  else if fn == 2#5 && c.extractLsb' 3 2 == 0#2 && d == 0#5 then some (.waitge a b (c.extractLsb' 0 3))
  else none

/-- Major 0x20 (R186): the row whose fixed bits the fields match. -/
def decMsg (fn c b a d : BitVec 5) : Option Instr :=
  if fn == 0#5 && d == 0#5 then some (.msend a b c)
  else if fn == 1#5 then some (.msendp d a b c)
  else none

/-- Major 0x21 (R186): the row whose fixed bits the fields match. -/
def decTrig (fn c b a d : BitVec 5) : Option Instr :=
  if fn == 0#5 && d == 0#5 then some (.tarm a b c)
  else if fn == 1#5 && d == 0#5 then some (.tarmRep a b c)
  else if fn == 2#5 && d == 0#5 then some (.tbind a b c)
  else if fn == 3#5 && c == 0#5 && b == 0#5 && d == 0#5 then some (.tunbind a)
  else if fn == 4#5 && c == 0#5 && b == 0#5 && d == 0#5 then some (.tdis a)
  else if fn == 5#5 && c == 0#5 && b == 0#5 && d == 0#5 then some (.ten a)
  else if fn == 6#5 && c == 0#5 && b == 0#5 && d == 0#5 then some (.tdec a)
  else if fn == 7#5 && c == 0#5 && b == 0#5 then some (.tstat d a)
  else if fn == 8#5 && c == 0#5 && b == 0#5 then some (.tfcnt d a)
  else if fn == 9#5 && c == 0#5 && b == 0#5 && d == 0#5 then some (.tclrf a)
  else if fn == 10#5 && c == 0#5 && d == 0#5 then some (.hbind a b)
  else none

/-- Major 0x22 (R186): the row whose fixed bits the fields match. -/
def decBar (fn c b a d : BitVec 5) : Option Instr :=
  if fn == 0#5 && c.extractLsb' 3 2 == 0#2 && d == 0#5 then some (.bar a b (c.extractLsb' 0 3))
  else if fn == 1#5 && c.extractLsb' 3 2 == 0#2 then some (.bara d a b (c.extractLsb' 0 3))
  else if fn == 2#5 && c.extractLsb' 3 2 == 0#2 && d == 0#5 then some (.barw a b (c.extractLsb' 0 3))
  else if fn == 3#5 && c.extractLsb' 3 2 == 0#2 then some (.elect d a b (c.extractLsb' 0 3))
  else none

/-- Major 0x23 (R186): the row whose fixed bits the fields match. -/
def decTask (fn c b a d : BitVec 5) : Option Instr :=
  if fn == 0#5 then some (.spawn d a b c)
  else if fn == 1#5 && c == 0#5 && b == 0#5 && a == 0#5 then some (.dqcnt d)
  else none

/-- Major 0x28 (R186): the row whose fixed bits the fields match. -/
def decVcl (fn c b a d : BitVec 5) : Option Instr :=
  if fn == 0#5 && c == 0#5 && b == 0#5 then some (.vclaim d a)
  else if fn == 1#5 && c == 0#5 && b == 0#5 then some (.vclaimTry d a)
  else if fn == 2#5 && c == 0#5 && b == 0#5 && a == 0#5 && d == 0#5 then some .vrel
  else if fn == 3#5 && c == 0#5 && a == 0#5 && d == 0#5 then some (.vwaitm b)
  else none

/-- Major 0x29 (R186): the row whose fixed bits the fields match. -/
def decVmem (fn c b a d : BitVec 5) : Option Instr :=
  if fn == 0#5 && c.extractLsb' 3 2 == 0#2 && b == 0#5 then some (.vld d a (c.extractLsb' 0 3))
  else if fn == 1#5 && c.extractLsb' 3 2 == 0#2 then some (.vlds d a b (c.extractLsb' 0 3))
  else if fn == 2#5 && c.extractLsb' 3 2 == 0#2 then some (.vldg d a b (c.extractLsb' 0 3))
  else if fn == 3#5 then some (.vldt d a b (c.extractLsb' 3 2) (c.extractLsb' 0 3))
  else if fn == 4#5 && c.extractLsb' 3 2 == 0#2 && b == 0#5 then some (.vst d a (c.extractLsb' 0 3))
  else if fn == 5#5 && c.extractLsb' 3 2 == 0#2 then some (.vsts d a b (c.extractLsb' 0 3))
  else if fn == 6#5 && c.extractLsb' 3 2 == 0#2 then some (.vstg d a b (c.extractLsb' 0 3))
  else if fn == 7#5 then some (.vstt d a b (c.extractLsb' 3 2) (c.extractLsb' 0 3))
  else none

/-- Major 0x2A (R186): the row whose fixed bits the fields match. -/
def decVint (fn c b a d : BitVec 5) : Option Instr :=
  if fn == 0#5 then some (.vadd d a b (c.extractLsb' 3 2) (c.extractLsb' 0 3))
  else if fn == 1#5 then some (.vsub d a b (c.extractLsb' 3 2) (c.extractLsb' 0 3))
  else if fn == 2#5 then some (.vmul d a b (c.extractLsb' 3 2) (c.extractLsb' 0 3))
  else if fn == 3#5 then some (.vmulh d a b (c.extractLsb' 3 2) (c.extractLsb' 0 3))
  else if fn == 4#5 then some (.vmulhz d a b (c.extractLsb' 3 2) (c.extractLsb' 0 3))
  else if fn == 5#5 then some (.vand d a b (c.extractLsb' 3 2) (c.extractLsb' 0 3))
  else if fn == 6#5 then some (.vor d a b (c.extractLsb' 3 2) (c.extractLsb' 0 3))
  else if fn == 7#5 then some (.vxor d a b (c.extractLsb' 3 2) (c.extractLsb' 0 3))
  else if fn == 8#5 then some (.vandn d a b (c.extractLsb' 3 2) (c.extractLsb' 0 3))
  else if fn == 9#5 then some (.vsll d a b (c.extractLsb' 3 2) (c.extractLsb' 0 3))
  else if fn == 10#5 then some (.vsrl d a b (c.extractLsb' 3 2) (c.extractLsb' 0 3))
  else if fn == 11#5 then some (.vsra d a b (c.extractLsb' 3 2) (c.extractLsb' 0 3))
  else if fn == 12#5 then some (.vmin d a b (c.extractLsb' 3 2) (c.extractLsb' 0 3))
  else if fn == 13#5 then some (.vmax d a b (c.extractLsb' 3 2) (c.extractLsb' 0 3))
  else if fn == 14#5 then some (.vminz d a b (c.extractLsb' 3 2) (c.extractLsb' 0 3))
  else if fn == 15#5 then some (.vmaxz d a b (c.extractLsb' 3 2) (c.extractLsb' 0 3))
  else if fn == 16#5 then some (.vaddSat d a b (c.extractLsb' 3 2) (c.extractLsb' 0 3))
  else if fn == 17#5 then some (.vaddzSat d a b (c.extractLsb' 3 2) (c.extractLsb' 0 3))
  else if fn == 18#5 then some (.vsubSat d a b (c.extractLsb' 3 2) (c.extractLsb' 0 3))
  else if fn == 19#5 then some (.vsubzSat d a b (c.extractLsb' 3 2) (c.extractLsb' 0 3))
  else if fn == 20#5 then some (.vmac d a b (c.extractLsb' 3 2) (c.extractLsb' 0 3))
  else if fn == 21#5 then some (.vdot d a b (c.extractLsb' 3 2) (c.extractLsb' 0 3))
  else if fn == 22#5 then some (.vdotz d a b (c.extractLsb' 3 2) (c.extractLsb' 0 3))
  else if fn == 23#5 then some (.vsel d a b (c.extractLsb' 3 2) (c.extractLsb' 0 3))
  else none

/-- Major 0x2B (R186): the row whose fixed bits the fields match. -/
def decVfp (fn c b a d : BitVec 5) : Option Instr :=
  if fn.extractLsb' 0 3 == 0#3 && c.extractLsb' 3 2 == 0#2 then some (.vfadd d a b (fn.extractLsb' 3 2) (c.extractLsb' 0 3))
  else if fn.extractLsb' 0 3 == 1#3 && c.extractLsb' 3 2 == 0#2 then some (.vfsub d a b (fn.extractLsb' 3 2) (c.extractLsb' 0 3))
  else if fn.extractLsb' 0 3 == 2#3 && c.extractLsb' 3 2 == 0#2 then some (.vfmul d a b (fn.extractLsb' 3 2) (c.extractLsb' 0 3))
  else if fn.extractLsb' 0 3 == 3#3 && c.extractLsb' 3 2 == 0#2 then some (.vfma d a b (fn.extractLsb' 3 2) (c.extractLsb' 0 3))
  else if fn.extractLsb' 0 3 == 4#3 && c.extractLsb' 3 2 == 0#2 then some (.vfnma d a b (fn.extractLsb' 3 2) (c.extractLsb' 0 3))
  else if fn.extractLsb' 0 3 == 5#3 && c.extractLsb' 3 2 == 0#2 then some (.vfmin d a b (fn.extractLsb' 3 2) (c.extractLsb' 0 3))
  else if fn.extractLsb' 0 3 == 6#3 && c.extractLsb' 3 2 == 0#2 then some (.vfmax d a b (fn.extractLsb' 3 2) (c.extractLsb' 0 3))
  else if fn.extractLsb' 0 3 == 7#3 && c.extractLsb' 3 2 == 0#2 then some (.vfcpsgn d a b (fn.extractLsb' 3 2) (c.extractLsb' 0 3))
  else none

/-- Major 0x2C (R186): the row whose fixed bits the fields match. -/
def decVperm (fn c b a d : BitVec 5) : Option Instr :=
  if fn == 0#5 && c.extractLsb' 3 2 == 0#2 then some (.vperm d a b (c.extractLsb' 0 3))
  else if fn == 1#5 && c.extractLsb' 3 2 == 0#2 then some (.vslideUp d a b (c.extractLsb' 0 3))
  else if fn == 2#5 && c.extractLsb' 3 2 == 0#2 then some (.vslideDn d a b (c.extractLsb' 0 3))
  else if fn == 3#5 && c.extractLsb' 3 2 == 0#2 && b == 0#5 then some (.vbcast d a (c.extractLsb' 0 3))
  else if fn == 4#5 && c.extractLsb' 3 2 == 0#2 then some (.vbcastE d a b (c.extractLsb' 0 3))
  else if fn == 5#5 && c == 0#5 then some (.vins d a b)
  else if fn == 6#5 && c == 0#5 then some (.vext d a b)
  else none

/-- Major 0x2D (R186): the row whose fixed bits the fields match. -/
def decVred (fn c b a d : BitVec 5) : Option Instr :=
  if fn == 0#5 && c.extractLsb' 3 2 == 0#2 && b == 0#5 then some (.vredadd d a (c.extractLsb' 0 3))
  else if fn == 1#5 && c.extractLsb' 3 2 == 0#2 && b == 0#5 then some (.vredmin d a (c.extractLsb' 0 3))
  else if fn == 2#5 && c.extractLsb' 3 2 == 0#2 && b == 0#5 then some (.vredmax d a (c.extractLsb' 0 3))
  else if fn == 3#5 && c.extractLsb' 3 2 == 0#2 && b == 0#5 then some (.vredminz d a (c.extractLsb' 0 3))
  else if fn == 4#5 && c.extractLsb' 3 2 == 0#2 && b == 0#5 then some (.vredmaxz d a (c.extractLsb' 0 3))
  else if fn == 5#5 && c.extractLsb' 3 2 == 0#2 && b == 0#5 then some (.vredand d a (c.extractLsb' 0 3))
  else if fn == 6#5 && c.extractLsb' 3 2 == 0#2 && b == 0#5 then some (.vredor d a (c.extractLsb' 0 3))
  else if fn == 7#5 && c.extractLsb' 3 2 == 0#2 && b == 0#5 then some (.vredxor d a (c.extractLsb' 0 3))
  else if fn == 8#5 && c.extractLsb' 3 2 == 0#2 && b == 0#5 then some (.vfredadd d a (c.extractLsb' 0 3))
  else if fn == 9#5 && c.extractLsb' 3 2 == 0#2 && b == 0#5 then some (.vfredmin d a (c.extractLsb' 0 3))
  else if fn == 10#5 && c.extractLsb' 3 2 == 0#2 && b == 0#5 then some (.vfredmax d a (c.extractLsb' 0 3))
  else none

/-- Major 0x2E (R186): the row whose fixed bits the fields match. -/
def decVcvt (fn c b a d : BitVec 5) : Option Instr :=
  if fn == 0#5 && (c.extractLsb' 3 2).extractLsb' 1 1 == 0#1 then some (.vcvtF32Bf16 d a b ((c.extractLsb' 3 2).extractLsb' 0 1) (c.extractLsb' 0 3))
  else if fn == 1#5 && (c.extractLsb' 3 2).extractLsb' 1 1 == 0#1 then some (.vcvtF32F16 d a b ((c.extractLsb' 3 2).extractLsb' 0 1) (c.extractLsb' 0 3))
  else if fn == 2#5 && (c.extractLsb' 3 2).extractLsb' 1 1 == 0#1 then some (.vcvtF32E4m3 d a b ((c.extractLsb' 3 2).extractLsb' 0 1) (c.extractLsb' 0 3))
  else if fn == 3#5 && (c.extractLsb' 3 2).extractLsb' 1 1 == 0#1 then some (.vcvtF32E5m2 d a b ((c.extractLsb' 3 2).extractLsb' 0 1) (c.extractLsb' 0 3))
  else if fn == 4#5 && (c.extractLsb' 3 2).extractLsb' 1 1 == 0#1 then some (.vcvtF32E2m1 d a b ((c.extractLsb' 3 2).extractLsb' 0 1) (c.extractLsb' 0 3))
  else if fn == 5#5 && c == 0#5 && b == 0#5 then some (.vcvtBf16F32 d a)
  else if fn == 6#5 && c == 0#5 && b == 0#5 then some (.vcvtF16F32 d a)
  else if fn == 7#5 && c == 0#5 && b == 0#5 then some (.vcvtE4m3F32 d a)
  else if fn == 8#5 && c == 0#5 && b == 0#5 then some (.vcvtE5m2F32 d a)
  else if fn == 9#5 && c == 0#5 && b == 0#5 then some (.vcvtE2m1F32 d a)
  else if fn == 10#5 && c.extractLsb' 3 2 == 0#2 && b == 0#5 then some (.vcvtS32F32 d a (c.extractLsb' 0 3))
  else if fn == 11#5 && c.extractLsb' 3 2 == 0#2 && b == 0#5 then some (.vcvtZ32F32 d a (c.extractLsb' 0 3))
  else if fn == 12#5 && c.extractLsb' 3 2 == 0#2 && b == 0#5 then some (.vcvtF32S32 d a (c.extractLsb' 0 3))
  else if fn == 13#5 && c.extractLsb' 3 2 == 0#2 && b == 0#5 then some (.vcvtF32Z32 d a (c.extractLsb' 0 3))
  else if fn == 14#5 && (c.extractLsb' 3 2).extractLsb' 1 1 == 0#1 && c.extractLsb' 0 3 == 0#3 && b == 0#5 then some (.vcvtS32S16x2 d a ((c.extractLsb' 3 2).extractLsb' 0 1))
  else if fn == 15#5 && (c.extractLsb' 3 2).extractLsb' 1 1 == 0#1 && c.extractLsb' 0 3 == 0#3 && b == 0#5 then some (.vcvtZ32Z16x2 d a ((c.extractLsb' 3 2).extractLsb' 0 1))
  else if fn == 16#5 && (c.extractLsb' 3 2).extractLsb' 1 1 == 0#1 && c.extractLsb' 0 3 == 0#3 && b == 0#5 then some (.vcvtS32S8x4 d a ((c.extractLsb' 3 2).extractLsb' 0 1))
  else if fn == 17#5 && (c.extractLsb' 3 2).extractLsb' 1 1 == 0#1 && c.extractLsb' 0 3 == 0#3 && b == 0#5 then some (.vcvtZ32Z8x4 d a ((c.extractLsb' 3 2).extractLsb' 0 1))
  else if fn == 18#5 && c == 0#5 && b == 0#5 then some (.vcvtS16x2S32 d a)
  else if fn == 19#5 && c == 0#5 && b == 0#5 then some (.vcvtZ16x2Z32 d a)
  else if fn == 20#5 && c == 0#5 && b == 0#5 then some (.vcvtS8x4S32 d a)
  else if fn == 21#5 && c == 0#5 && b == 0#5 then some (.vcvtZ8x4Z32 d a)
  else none

/-- Major 0x2F (R186): the row whose fixed bits the fields match. -/
def decVsfn (fn c b a d : BitVec 5) : Option Instr :=
  if fn == 0#5 && c.extractLsb' 3 2 == 0#2 && b == 0#5 then some (.vexp2 d a (c.extractLsb' 0 3))
  else if fn == 1#5 && c.extractLsb' 3 2 == 0#2 && b == 0#5 then some (.vlog2 d a (c.extractLsb' 0 3))
  else if fn == 2#5 && c.extractLsb' 3 2 == 0#2 && b == 0#5 then some (.vrcp d a (c.extractLsb' 0 3))
  else if fn == 3#5 && c.extractLsb' 3 2 == 0#2 && b == 0#5 then some (.vrsqrt d a (c.extractLsb' 0 3))
  else if fn == 4#5 && c.extractLsb' 3 2 == 0#2 && b == 0#5 then some (.vtanh d a (c.extractLsb' 0 3))
  else if fn == 5#5 && c.extractLsb' 3 2 == 0#2 && b == 0#5 then some (.vsigm d a (c.extractLsb' 0 3))
  else if fn == 6#5 && c.extractLsb' 3 2 == 0#2 && b == 0#5 then some (.vsin d a (c.extractLsb' 0 3))
  else if fn == 7#5 && c.extractLsb' 3 2 == 0#2 && b == 0#5 then some (.vcos d a (c.extractLsb' 0 3))
  else none

/-- Major 0x30 (R186): the row whose fixed bits the fields match. -/
def decVpred (fn c b a d : BitVec 5) : Option Instr :=
  if fn == 0#5 && c.extractLsb' 3 2 == 0#2 && d.extractLsb' 3 2 == 0#2 then some (.vcmpeq (d.extractLsb' 0 3) a b (c.extractLsb' 0 3))
  else if fn == 1#5 && c.extractLsb' 3 2 == 0#2 && d.extractLsb' 3 2 == 0#2 then some (.vcmpne (d.extractLsb' 0 3) a b (c.extractLsb' 0 3))
  else if fn == 2#5 && c.extractLsb' 3 2 == 0#2 && d.extractLsb' 3 2 == 0#2 then some (.vcmplt (d.extractLsb' 0 3) a b (c.extractLsb' 0 3))
  else if fn == 3#5 && c.extractLsb' 3 2 == 0#2 && d.extractLsb' 3 2 == 0#2 then some (.vcmple (d.extractLsb' 0 3) a b (c.extractLsb' 0 3))
  else if fn == 4#5 && c.extractLsb' 3 2 == 0#2 && d.extractLsb' 3 2 == 0#2 then some (.vcmpltz (d.extractLsb' 0 3) a b (c.extractLsb' 0 3))
  else if fn == 5#5 && c.extractLsb' 3 2 == 0#2 && d.extractLsb' 3 2 == 0#2 then some (.vcmplez (d.extractLsb' 0 3) a b (c.extractLsb' 0 3))
  else if fn == 6#5 && c.extractLsb' 3 2 == 0#2 && d.extractLsb' 3 2 == 0#2 then some (.vfcmpeq (d.extractLsb' 0 3) a b (c.extractLsb' 0 3))
  else if fn == 7#5 && c.extractLsb' 3 2 == 0#2 && d.extractLsb' 3 2 == 0#2 then some (.vfcmplt (d.extractLsb' 0 3) a b (c.extractLsb' 0 3))
  else if fn == 8#5 && c.extractLsb' 3 2 == 0#2 && d.extractLsb' 3 2 == 0#2 then some (.vfcmple (d.extractLsb' 0 3) a b (c.extractLsb' 0 3))
  else if fn == 9#5 && c.extractLsb' 3 2 == 0#2 && d.extractLsb' 3 2 == 0#2 then some (.vfcmpun (d.extractLsb' 0 3) a b (c.extractLsb' 0 3))
  else if fn == 10#5 && c == 0#5 && b.extractLsb' 3 2 == 0#2 && a.extractLsb' 3 2 == 0#2 && d.extractLsb' 3 2 == 0#2 then some (.pand (d.extractLsb' 0 3) (a.extractLsb' 0 3) (b.extractLsb' 0 3))
  else if fn == 11#5 && c == 0#5 && b.extractLsb' 3 2 == 0#2 && a.extractLsb' 3 2 == 0#2 && d.extractLsb' 3 2 == 0#2 then some (.por (d.extractLsb' 0 3) (a.extractLsb' 0 3) (b.extractLsb' 0 3))
  else if fn == 12#5 && c == 0#5 && b.extractLsb' 3 2 == 0#2 && a.extractLsb' 3 2 == 0#2 && d.extractLsb' 3 2 == 0#2 then some (.pxor (d.extractLsb' 0 3) (a.extractLsb' 0 3) (b.extractLsb' 0 3))
  else if fn == 13#5 && c == 0#5 && b.extractLsb' 3 2 == 0#2 && a.extractLsb' 3 2 == 0#2 && d.extractLsb' 3 2 == 0#2 then some (.pandn (d.extractLsb' 0 3) (a.extractLsb' 0 3) (b.extractLsb' 0 3))
  else if fn == 14#5 && c == 0#5 && b == 0#5 && a.extractLsb' 3 2 == 0#2 && d.extractLsb' 3 2 == 0#2 then some (.pnot (d.extractLsb' 0 3) (a.extractLsb' 0 3))
  else if fn == 15#5 && c == 0#5 && b == 0#5 && d.extractLsb' 3 2 == 0#2 then some (.pwhile (d.extractLsb' 0 3) a)
  else if fn == 16#5 && c == 0#5 && b == 0#5 && a.extractLsb' 3 2 == 0#2 then some (.pcnt d (a.extractLsb' 0 3))
  else none

/-- Major 0x34 (R186): the row whose fixed bits the fields match. -/
noncomputable def decZop (fn c b a d : BitVec 5) : Option Instr :=
  if fn == 0#5 && c.extractLsb' 2 3 == 0#3 && b == 0#5 && a == 0#5 then some (.zclr d (c.extractLsb' 0 2))
  else if fn == 1#5 && c.extractLsb' 2 3 == 0#3 && b == 0#5 then some (.zld d a (c.extractLsb' 0 2))
  else if fn == 2#5 && (b.extractLsb' 3 2).extractLsb' 1 1 == 0#1 then some (.zst d a (c.extractLsb' 2 3) (c.extractLsb' 0 2) ((b.extractLsb' 3 2).extractLsb' 0 1) (b.extractLsb' 0 3))
  else if fn == 3#5 && c == 0#5 && b == 0#5 && d == 0#5 then some (.mwait a)
  else none

/-- Major 0x35 (R186): the row whose fixed bits the fields match. -/
noncomputable def decWld (fn c b a d : BitVec 5) : Option Instr :=
  if fn == 0#5 && b == 0#5 && d.extractLsb' 1 4 == 0#4 then some (.wldPlain (d.extractLsb' 0 1) a c)
  else if fn == 1#5 && d.extractLsb' 1 4 == 0#4 then some (.wldXpb4 (d.extractLsb' 0 1) a b c)
  else if fn == 2#5 && d.extractLsb' 1 4 == 0#4 then some (.wldXpb5 (d.extractLsb' 0 1) a b c)
  else none

/-- Major 0x36 (R186): the row whose fixed bits the fields match. -/
noncomputable def decQcopy (fn c b a d : BitVec 5) : Option Instr :=
  if fn == 0#5 then some (.qpush d a b c)
  else if fn == 1#5 then some (.qtry d a b c)
  else none

/-- Major 0x37 (R186): the row whose fixed bits the fields match. -/
noncomputable def decRing (fn c b a d : BitVec 5) : Option Instr :=
  if fn == 0#5 && c == 0#5 && d.extractLsb' 4 1 == 0#1 then some (.rset (d.extractLsb' 0 4) a b)
  else if fn == 1#5 && c == 0#5 && b == 0#5 && d.extractLsb' 4 1 == 0#1 then some (.rwaitf (d.extractLsb' 0 4) a)
  else if fn == 2#5 && c == 0#5 && b == 0#5 && d.extractLsb' 4 1 == 0#1 then some (.rwaite (d.extractLsb' 0 4) a)
  else if fn == 3#5 && c == 0#5 && b == 0#5 && d.extractLsb' 4 1 == 0#1 then some (.radvp (d.extractLsb' 0 4) a)
  else if fn == 4#5 && c == 0#5 && b == 0#5 && d.extractLsb' 4 1 == 0#1 then some (.radvc (d.extractLsb' 0 4) a)
  else if fn == 5#5 && c == 0#5 && b == 0#5 && a.extractLsb' 4 1 == 0#1 then some (.rstat d (a.extractLsb' 0 4))
  else none

/-- Major 0x38 (R186): the row whose fixed bits the fields match. -/
noncomputable def decHalo (fn c b a d : BitVec 5) : Option Instr :=
  if fn == 0#5 && c == 0#5 && d == 0#5 then some (.halo a b)
  else none

/-- Major 0x3A (R186): the row whose fixed bits the fields match. -/
noncomputable def decXpt (fn c b a d : BitVec 5) : Option Instr :=
  if fn == 0#5 && c == 0#5 then some (.xreg d a b)
  else if fn == 1#5 then some (.xroute d a b c)
  else if fn == 2#5 && c.extractLsb' 3 2 == 0#2 then some (.xgate d a b (c.extractLsb' 0 3))
  else if fn == 3#5 && d == 0#5 then some (.xgrad a b c)
  else if fn == 4#5 && c == 0#5 then some (.xjoin d a b)
  else if fn == 5#5 && c == 0#5 then some (.xstat d a b)
  else if fn == 6#5 then some (.xpol d a b c)
  else if fn == 7#5 && c == 0#5 && b == 0#5 then some (.xdrop d a)
  else none

/-- Major 0x3B (R186): the row whose fixed bits the fields match. -/
noncomputable def decView (fn c b a d : BitVec 5) : Option Instr :=
  if fn == 0#5 && b == 0#5 then some (.vwdef d a c)
  else if fn == 1#5 && c == 0#5 && b == 0#5 then some (.vwdrop d a)
  else if fn == 2#5 then some (.vwrd d a b c)
  else if fn == 3#5 && c == 0#5 then some (.vwtag d a b)
  else if fn == 4#5 && c == 0#5 && b == 0#5 then some (.vwpub d a)
  else if fn == 5#5 then some (.vwpol d a b c)
  else if fn == 6#5 && c == 0#5 && d == 0#5 then some (.vwsync a b)
  else none

/-- Major 0x3C (R186): the row whose fixed bits the fields match. -/
noncomputable def decStg (fn c b a d : BitVec 5) : Option Instr :=
  if fn == 0#5 && c == 0#5 && b == 0#5 then some (.stgdef d a)
  else if fn == 1#5 && c == 0#5 && b == 0#5 then some (.stggo d a)
  else if fn == 2#5 && c == 0#5 && b == 0#5 && a == 0#5 then some (.stgstop d)
  else if fn == 3#5 then some (.stgpost d a b c)
  else if fn == 4#5 && c == 0#5 && b == 0#5 then some (.stgstash d a)
  else if fn == 5#5 && c == 0#5 && b == 0#5 then some (.stgbub d a)
  else none

/-- Major 0x3D (R186): the row whose fixed bits the fields match. -/
noncomputable def decCmdq (fn c b a d : BitVec 5) : Option Instr :=
  if fn == 0#5 && c == 0#5 then some (.launch d a b)
  else if fn == 1#5 && c == 0#5 then some (.cqpost d a b)
  else if fn == 2#5 && c == 0#5 then some (.cqwait d a b)
  else none

/-- Whether the opcode map gives the major no class (R186). -/
def reservedMaj (maj : Nat) : Bool :=
  (0x15 ≤ maj && maj ≤ 0x17) || (0x24 ≤ maj && maj ≤ 0x27) || maj == 0x31 || maj == 0x39 || maj == 0x3E || maj == 0x3F

/-- The opcode map of R186 over the fields of a 32-bit word. -/
noncomputable def decFields (fn c b a d : BitVec 5) (maj : BitVec 6) : Option Instr :=
  match maj.toNat with
  | 0x00 => decAluR fn c b a d
  | 0x01 => some (.addi d a (fn ++ c ++ b))
  | 0x02 => some (.andi d a (fn ++ c ++ b))
  | 0x03 => some (.ori d a (fn ++ c ++ b))
  | 0x04 => some (.xori d a (fn ++ c ++ b))
  | 0x05 => some (.slti d a (fn ++ c ++ b))
  | 0x06 => decShi fn c b a d
  | 0x07 => decMulDiv fn c b a d
  | 0x08 => some (.lui d (fn ++ c ++ b ++ a))
  | 0x09 => some (.addpc d (fn ++ c ++ b ++ a))
  | 0x0A => some (.jal d (fn ++ c ++ b ++ a))
  | 0x0B => some (.jalr d a (fn ++ c ++ b))
  | 0x0C => some (.beq a b (fn ++ c) d)
  | 0x0D => some (.bne a b (fn ++ c) d)
  | 0x0E => some (.blt a b (fn ++ c) d)
  | 0x0F => some (.bge a b (fn ++ c) d)
  | 0x10 => some (.bltz a b (fn ++ c) d)
  | 0x11 => some (.bgez a b (fn ++ c) d)
  | 0x12 => decFpu fn c b a d
  | 0x13 => decFfma fn c b a d
  | 0x14 => decSys fn c b a d
  | 0x18 => some (.ld d a (fn ++ c ++ b.extractLsb' 3 2) (b.extractLsb' 0 3))
  | 0x19 => some (.st a b (fn ++ c.extractLsb' 3 2) (c.extractLsb' 0 3) d)
  | 0x1A => decFls fn c b a d
  | 0x1B => decLdsSts fn c b a d
  | 0x1C => decAmo fn c b a d
  | 0x1D => some (.amocas d a b c fn)
  | 0x1E => decFence fn c b a d
  | 0x1F => decCtr fn c b a d
  | 0x20 => decMsg fn c b a d
  | 0x21 => decTrig fn c b a d
  | 0x22 => decBar fn c b a d
  | 0x23 => decTask fn c b a d
  | 0x28 => decVcl fn c b a d
  | 0x29 => decVmem fn c b a d
  | 0x2A => decVint fn c b a d
  | 0x2B => decVfp fn c b a d
  | 0x2C => decVperm fn c b a d
  | 0x2D => decVred fn c b a d
  | 0x2E => decVcvt fn c b a d
  | 0x2F => decVsfn fn c b a d
  | 0x30 => decVpred fn c b a d
  | 0x32 => some (.mma d a b c (fn.extractLsb' 3 2) (fn.extractLsb' 0 3))
  | 0x33 => some (.mmab d a b c (fn.extractLsb' 3 2) (fn.extractLsb' 0 3))
  | 0x34 => decZop fn c b a d
  | 0x35 => decWld fn c b a d
  | 0x36 => decQcopy fn c b a d
  | 0x37 => decRing fn c b a d
  | 0x38 => decHalo fn c b a d
  | 0x3A => decXpt fn c b a d
  | 0x3B => decView fn c b a d
  | 0x3C => decStg fn c b a d
  | 0x3D => decCmdq fn c b a d
  | _ => none

/-- A 32-bit word (R181, R182, R186). -/
noncomputable def decodeWord (w : BitVec 32) : Except DecodeError Instr :=
  match decFields (fFn w) (fC w) (fB w) (fA w) (fD w) (fMaj w) with
  | some i => .ok i
  | none => .error (if reservedMaj (fMaj w).toNat then .reservedMajor (fMaj w) else .reservedForm (fMaj w))

/-- The compact forms over the upper eleven bits (R188, R189). -/
noncomputable def decTop (t : BitVec 11) (cm : BitVec 4) : Option Instr :=
  match cm.toNat with
  | 0 => some (.cAddi (t.extractLsb' 0 5) (t.extractLsb' 5 6))
  | 1 => some (.cLi (t.extractLsb' 0 5) (t.extractLsb' 5 6))
  | 2 => if (t.extractLsb' 5 6).extractLsb' 5 1 == 0#1 then some (.cMv (t.extractLsb' 0 5) ((t.extractLsb' 5 6).extractLsb' 0 5)) else none
  | 3 => if (t.extractLsb' 5 6).extractLsb' 5 1 == 0#1 then some (.cAdd (t.extractLsb' 0 5) ((t.extractLsb' 5 6).extractLsb' 0 5)) else none
  | 4 => if (t.extractLsb' 5 6).extractLsb' 5 1 == 0#1 then some (.cSub (t.extractLsb' 0 5) ((t.extractLsb' 5 6).extractLsb' 0 5)) else none
  | 5 => if (t.extractLsb' 5 6).extractLsb' 5 1 == 0#1 then some (.cAnd (t.extractLsb' 0 5) ((t.extractLsb' 5 6).extractLsb' 0 5)) else none
  | 6 => some (.cSlli (t.extractLsb' 0 5) (t.extractLsb' 5 6))
  | 7 => some (.cLdd (t.extractLsb' 0 5) (t.extractLsb' 5 6))
  | 8 => some (.cStd (t.extractLsb' 0 5) (t.extractLsb' 5 6))
  | 9 => some (.cLdw (t.extractLsb' 0 3) ((t.extractLsb' 3 8).extractLsb' 0 3) ((t.extractLsb' 3 8).extractLsb' 3 5))
  | 10 => some (.cStw ((t.extractLsb' 3 8).extractLsb' 0 3) (t.extractLsb' 0 3) ((t.extractLsb' 3 8).extractLsb' 3 5))
  | 11 => some (.cBeqz (t.extractLsb' 0 5) (t.extractLsb' 5 6))
  | 12 => some (.cBnez (t.extractLsb' 0 5) (t.extractLsb' 5 6))
  | 13 => some (.cJ t)
  | 14 => if t.extractLsb' 5 6 == 0#6 then some (.cJr (t.extractLsb' 0 5)) else none
  | 15 => if t.extractLsb' 8 3 == 0#3 then some (.cSafe (t.extractLsb' 0 8)) else none
  | _ => none

/-- A compact halfword (R188, R189). -/
noncomputable def decodeCompact (h : Half) : Except DecodeError Instr :=
  match decTop (h.extractLsb' 5 11) (h.extractLsb' 1 4) with
  | some i => .ok i
  | none => .error (.reservedCompact (h.extractLsb' 1 4))

/-- The framing of R180: bit 0 of the first halfword gives the length; the fixed bits alone are looked at. -/
noncomputable def decodeRaw : List Half → Except DecodeError (Instr × List Half)
  | [] => .error .shortInput
  | h :: rest =>
    if h.getLsbD 0 then
      match rest with
      | [] => .error .shortInput
      | g :: rest' => match decodeWord (g ++ h) with
        | .ok i => .ok (i, rest')
        | .error e => .error e
    else match decodeCompact h with
      | .ok i => .ok (i, rest)
      | .error e => .error e

/-- The name of a reserved use of the word that starts with the halfword `h`. -/
def reservedUse : List Half → DecodeError
  | [] => .shortInput
  | h :: rest =>
    if h.getLsbD 0 then .reservedForm ((rest.headD 0#16 ++ h : BitVec 32).extractLsb' 1 6)
    else .reservedCompact (h.extractLsb' 1 4)

/-- An instruction and what follows it, or the reason why the words are reserved: the reserved sub-field values of the
class chapters are refused with the reserved words (R185). -/
noncomputable def decode (hs : List Half) : Except DecodeError (Instr × List Half) :=
  match decodeRaw hs with
  | .ok (i, rest) => if i.wellFormed then .ok (i, rest) else .error (reservedUse hs)
  | .error e => .error e

/-- The 32-bit word of an instruction; zero where it has none. -/
def encodeWord : Instr → BitVec 32
  | .add d a b => mkR 0#5 0#5 b a d 0x00#6
  | .sub d a b => mkR 1#5 0#5 b a d 0x00#6
  | .and d a b => mkR 2#5 0#5 b a d 0x00#6
  | .or d a b => mkR 3#5 0#5 b a d 0x00#6
  | .xor d a b => mkR 4#5 0#5 b a d 0x00#6
  | .andn d a b => mkR 5#5 0#5 b a d 0x00#6
  | .orn d a b => mkR 6#5 0#5 b a d 0x00#6
  | .xnor d a b => mkR 7#5 0#5 b a d 0x00#6
  | .sll d a b => mkR 8#5 0#5 b a d 0x00#6
  | .srl d a b => mkR 9#5 0#5 b a d 0x00#6
  | .sra d a b => mkR 10#5 0#5 b a d 0x00#6
  | .rol d a b => mkR 11#5 0#5 b a d 0x00#6
  | .ror d a b => mkR 12#5 0#5 b a d 0x00#6
  | .slt d a b => mkR 13#5 0#5 b a d 0x00#6
  | .sltz d a b => mkR 14#5 0#5 b a d 0x00#6
  | .min d a b => mkR 15#5 0#5 b a d 0x00#6
  | .max d a b => mkR 16#5 0#5 b a d 0x00#6
  | .minz d a b => mkR 17#5 0#5 b a d 0x00#6
  | .maxz d a b => mkR 18#5 0#5 b a d 0x00#6
  | .addSat d a b => mkR 19#5 0#5 b a d 0x00#6
  | .subSat d a b => mkR 20#5 0#5 b a d 0x00#6
  | .addzSat d a b => mkR 21#5 0#5 b a d 0x00#6
  | .subzSat d a b => mkR 22#5 0#5 b a d 0x00#6
  | .clz d a => mkR 23#5 0#5 0#5 a d 0x00#6
  | .ctz d a => mkR 24#5 0#5 0#5 a d 0x00#6
  | .cpop d a => mkR 25#5 0#5 0#5 a d 0x00#6
  | .rev8 d a => mkR 26#5 0#5 0#5 a d 0x00#6
  | .bfxS d a b => mkR 27#5 0#5 b a d 0x00#6
  | .bfxZ d a b => mkR 28#5 0#5 b a d 0x00#6
  | .bfi d a b => mkR 29#5 0#5 b a d 0x00#6
  | .sel d a b c => mkR 30#5 c b a d 0x00#6
  | .addi d a i => mkR ((i.extractLsb' 5 10).extractLsb' 5 5) ((i.extractLsb' 5 10).extractLsb' 0 5) (i.extractLsb' 0 5) a d 0x01#6
  | .andi d a i => mkR ((i.extractLsb' 5 10).extractLsb' 5 5) ((i.extractLsb' 5 10).extractLsb' 0 5) (i.extractLsb' 0 5) a d 0x02#6
  | .ori d a i => mkR ((i.extractLsb' 5 10).extractLsb' 5 5) ((i.extractLsb' 5 10).extractLsb' 0 5) (i.extractLsb' 0 5) a d 0x03#6
  | .xori d a i => mkR ((i.extractLsb' 5 10).extractLsb' 5 5) ((i.extractLsb' 5 10).extractLsb' 0 5) (i.extractLsb' 0 5) a d 0x04#6
  | .slti d a i => mkR ((i.extractLsb' 5 10).extractLsb' 5 5) ((i.extractLsb' 5 10).extractLsb' 0 5) (i.extractLsb' 0 5) a d 0x05#6
  | .shiSll d a n => mkR 0#5 (0#4 ++ (n.extractLsb' 5 1)) (n.extractLsb' 0 5) a d 0x06#6
  | .shiSrl d a n => mkR 0#5 (1#4 ++ (n.extractLsb' 5 1)) (n.extractLsb' 0 5) a d 0x06#6
  | .shiSra d a n => mkR 0#5 (2#4 ++ (n.extractLsb' 5 1)) (n.extractLsb' 0 5) a d 0x06#6
  | .shiRor d a n => mkR 0#5 (3#4 ++ (n.extractLsb' 5 1)) (n.extractLsb' 0 5) a d 0x06#6
  | .mul d a b => mkR 0#5 0#5 b a d 0x07#6
  | .mulh d a b => mkR 1#5 0#5 b a d 0x07#6
  | .mulhz d a b => mkR 2#5 0#5 b a d 0x07#6
  | .mulhsz d a b => mkR 3#5 0#5 b a d 0x07#6
  | .div d a b => mkR 4#5 0#5 b a d 0x07#6
  | .divz d a b => mkR 5#5 0#5 b a d 0x07#6
  | .rem d a b => mkR 6#5 0#5 b a d 0x07#6
  | .remz d a b => mkR 7#5 0#5 b a d 0x07#6
  | .lui d i => mkR (((i.extractLsb' 5 15).extractLsb' 5 10).extractLsb' 5 5) (((i.extractLsb' 5 15).extractLsb' 5 10).extractLsb' 0 5) ((i.extractLsb' 5 15).extractLsb' 0 5) (i.extractLsb' 0 5) d 0x08#6
  | .addpc d i => mkR (((i.extractLsb' 5 15).extractLsb' 5 10).extractLsb' 5 5) (((i.extractLsb' 5 15).extractLsb' 5 10).extractLsb' 0 5) ((i.extractLsb' 5 15).extractLsb' 0 5) (i.extractLsb' 0 5) d 0x09#6
  | .jal d i => mkR (((i.extractLsb' 5 15).extractLsb' 5 10).extractLsb' 5 5) (((i.extractLsb' 5 15).extractLsb' 5 10).extractLsb' 0 5) ((i.extractLsb' 5 15).extractLsb' 0 5) (i.extractLsb' 0 5) d 0x0A#6
  | .jalr d a i => mkR ((i.extractLsb' 5 10).extractLsb' 5 5) ((i.extractLsb' 5 10).extractLsb' 0 5) (i.extractLsb' 0 5) a d 0x0B#6
  | .beq a b o p => mkR (o.extractLsb' 5 5) (o.extractLsb' 0 5) b a p 0x0C#6
  | .bne a b o p => mkR (o.extractLsb' 5 5) (o.extractLsb' 0 5) b a p 0x0D#6
  | .blt a b o p => mkR (o.extractLsb' 5 5) (o.extractLsb' 0 5) b a p 0x0E#6
  | .bge a b o p => mkR (o.extractLsb' 5 5) (o.extractLsb' 0 5) b a p 0x0F#6
  | .bltz a b o p => mkR (o.extractLsb' 5 5) (o.extractLsb' 0 5) b a p 0x10#6
  | .bgez a b o p => mkR (o.extractLsb' 5 5) (o.extractLsb' 0 5) b a p 0x11#6
  | .fadd d a b r => mkR 0#5 (0#2 ++ r) b a d 0x12#6
  | .fsub d a b r => mkR 1#5 (0#2 ++ r) b a d 0x12#6
  | .fmul d a b r => mkR 2#5 (0#2 ++ r) b a d 0x12#6
  | .fdiv d a b r => mkR 3#5 (0#2 ++ r) b a d 0x12#6
  | .fsqrt d a r => mkR 4#5 (0#2 ++ r) 0#5 a d 0x12#6
  | .fmin d a b => mkR 5#5 0#5 b a d 0x12#6
  | .fmax d a b => mkR 6#5 0#5 b a d 0x12#6
  | .fcpsgn d a b => mkR 7#5 0#5 b a d 0x12#6
  | .fcpsgnn d a b => mkR 8#5 0#5 b a d 0x12#6
  | .fcpsgnx d a b => mkR 9#5 0#5 b a d 0x12#6
  | .feq d a b => mkR 10#5 0#5 b a d 0x12#6
  | .flt d a b => mkR 11#5 0#5 b a d 0x12#6
  | .fle d a b => mkR 12#5 0#5 b a d 0x12#6
  | .fclass d a => mkR 13#5 0#5 0#5 a d 0x12#6
  | .fcvtF32Ty d a t r => mkR 14#5 (t ++ r) 0#5 a d 0x12#6
  | .fcvtTyF32 d a t r => mkR 15#5 (t ++ r) 0#5 a d 0x12#6
  | .fmvXF d a => mkR 16#5 0#5 0#5 a d 0x12#6
  | .fmvFX d a => mkR 17#5 0#5 0#5 a d 0x12#6
  | .fcvtF32Nfmt d a r s n => mkR 18#5 (0#2 ++ r) (0#1 ++ s ++ n) a d 0x12#6
  | .fcvtNfmtF32 d a n => mkR 19#5 0#5 (0#2 ++ n) a d 0x12#6
  | .ffma d a b c r => mkR (r ++ 0#2) c b a d 0x13#6
  | .ffms d a b c r => mkR (r ++ 1#2) c b a d 0x13#6
  | .fnma d a b c r => mkR (r ++ 2#2) c b a d 0x13#6
  | .fnms d a b c r => mkR (r ++ 3#2) c b a d 0x13#6
  | .csrr d k => mkR (0#3 ++ ((k.extractLsb' 5 7).extractLsb' 5 2)) ((k.extractLsb' 5 7).extractLsb' 0 5) (k.extractLsb' 0 5) 0#5 d 0x14#6
  | .csrw d a k => mkR (1#3 ++ ((k.extractLsb' 5 7).extractLsb' 5 2)) ((k.extractLsb' 5 7).extractLsb' 0 5) (k.extractLsb' 0 5) a d 0x14#6
  | .csrs d a k => mkR (2#3 ++ ((k.extractLsb' 5 7).extractLsb' 5 2)) ((k.extractLsb' 5 7).extractLsb' 0 5) (k.extractLsb' 0 5) a d 0x14#6
  | .csrc d a k => mkR (3#3 ++ ((k.extractLsb' 5 7).extractLsb' 5 2)) ((k.extractLsb' 5 7).extractLsb' 0 5) (k.extractLsb' 0 5) a d 0x14#6
  | .safe n => mkR 16#5 (0#2 ++ (n.extractLsb' 5 3)) (n.extractLsb' 0 5) 0#5 0#5 0x14#6
  | .yield => mkR 20#5 0#5 0#5 0#5 0#5 0x14#6
  | .done => mkR 24#5 0#5 0#5 0#5 0#5 0x14#6
  | .svc n => mkR 28#5 (0#2 ++ (n.extractLsb' 5 3)) (n.extractLsb' 0 5) 0#5 0#5 0x14#6
  | .trap n => mkR 30#5 (0#2 ++ (n.extractLsb' 5 3)) (n.extractLsb' 0 5) 0#5 0#5 0x14#6
  | .ld d a i s => mkR ((i.extractLsb' 2 10).extractLsb' 5 5) ((i.extractLsb' 2 10).extractLsb' 0 5) ((i.extractLsb' 0 2) ++ s) a d 0x18#6
  | .st a b i s j => mkR (i.extractLsb' 2 5) ((i.extractLsb' 0 2) ++ s) b a j 0x19#6
  | .fldW d a i => mkR ((i.extractLsb' 2 10).extractLsb' 5 5) ((i.extractLsb' 2 10).extractLsb' 0 5) ((i.extractLsb' 0 2) ++ 2#3) a d 0x1A#6
  | .fstW d a i => mkR ((i.extractLsb' 2 10).extractLsb' 5 5) ((i.extractLsb' 2 10).extractLsb' 0 5) ((i.extractLsb' 0 2) ++ 6#3) a d 0x1A#6
  | .lds d a s o => mkR (0#2 ++ s) o 0#5 a d 0x1B#6
  | .sts a b s o => mkR (4#3 ++ s) o b a 0#5 0x1B#6
  | .amoSwap d a b z o => mkR (z ++ 0#4) o b a d 0x1C#6
  | .amoAdd d a b z o => mkR (z ++ 1#4) o b a d 0x1C#6
  | .amoAnd d a b z o => mkR (z ++ 2#4) o b a d 0x1C#6
  | .amoOr d a b z o => mkR (z ++ 3#4) o b a d 0x1C#6
  | .amoXor d a b z o => mkR (z ++ 4#4) o b a d 0x1C#6
  | .amoMin d a b z o => mkR (z ++ 5#4) o b a d 0x1C#6
  | .amoMax d a b z o => mkR (z ++ 6#4) o b a d 0x1C#6
  | .amoMinz d a b z o => mkR (z ++ 7#4) o b a d 0x1C#6
  | .amoMaxz d a b z o => mkR (z ++ 8#4) o b a d 0x1C#6
  | .amoFadd d a b o => mkR 9#5 o b a d 0x1C#6
  | .amoFmin d a b o => mkR 10#5 o b a d 0x1C#6
  | .amoFmax d a b o => mkR 11#5 o b a d 0x1C#6
  | .amocas d a b c o => mkR o c b a d 0x1D#6
  | .fence o => mkR 0#5 o 0#5 0#5 0#5 0x1E#6
  | .tadd a b s => mkR 0#5 (0#2 ++ s) b a 0#5 0x1F#6
  | .tread d a s => mkR 1#5 (0#2 ++ s) 0#5 a d 0x1F#6
  | .waitge a b s => mkR 2#5 (0#2 ++ s) b a 0#5 0x1F#6
  | .msend a b c => mkR 0#5 c b a 0#5 0x20#6
  | .msendp d a b c => mkR 1#5 c b a d 0x20#6
  | .tarm a b c => mkR 0#5 c b a 0#5 0x21#6
  | .tarmRep a b c => mkR 1#5 c b a 0#5 0x21#6
  | .tbind a b c => mkR 2#5 c b a 0#5 0x21#6
  | .tunbind a => mkR 3#5 0#5 0#5 a 0#5 0x21#6
  | .tdis a => mkR 4#5 0#5 0#5 a 0#5 0x21#6
  | .ten a => mkR 5#5 0#5 0#5 a 0#5 0x21#6
  | .tdec a => mkR 6#5 0#5 0#5 a 0#5 0x21#6
  | .tstat d a => mkR 7#5 0#5 0#5 a d 0x21#6
  | .tfcnt d a => mkR 8#5 0#5 0#5 a d 0x21#6
  | .tclrf a => mkR 9#5 0#5 0#5 a 0#5 0x21#6
  | .hbind a b => mkR 10#5 0#5 b a 0#5 0x21#6
  | .bar a b s => mkR 0#5 (0#2 ++ s) b a 0#5 0x22#6
  | .bara d a b s => mkR 1#5 (0#2 ++ s) b a d 0x22#6
  | .barw a b s => mkR 2#5 (0#2 ++ s) b a 0#5 0x22#6
  | .elect d a b s => mkR 3#5 (0#2 ++ s) b a d 0x22#6
  | .spawn d a b c => mkR 0#5 c b a d 0x23#6
  | .dqcnt d => mkR 1#5 0#5 0#5 0#5 d 0x23#6
  | .vclaim d a => mkR 0#5 0#5 0#5 a d 0x28#6
  | .vclaimTry d a => mkR 1#5 0#5 0#5 a d 0x28#6
  | .vrel => mkR 2#5 0#5 0#5 0#5 0#5 0x28#6
  | .vwaitm b => mkR 3#5 0#5 b 0#5 0#5 0x28#6
  | .vld d a p => mkR 0#5 (0#2 ++ p) 0#5 a d 0x29#6
  | .vlds d a b p => mkR 1#5 (0#2 ++ p) b a d 0x29#6
  | .vldg d a b p => mkR 2#5 (0#2 ++ p) b a d 0x29#6
  | .vldt d a b k p => mkR 3#5 (k ++ p) b a d 0x29#6
  | .vst d a p => mkR 4#5 (0#2 ++ p) 0#5 a d 0x29#6
  | .vsts d a b p => mkR 5#5 (0#2 ++ p) b a d 0x29#6
  | .vstg d a b p => mkR 6#5 (0#2 ++ p) b a d 0x29#6
  | .vstt d a b k p => mkR 7#5 (k ++ p) b a d 0x29#6
  | .vadd d a b w p => mkR 0#5 (w ++ p) b a d 0x2A#6
  | .vsub d a b w p => mkR 1#5 (w ++ p) b a d 0x2A#6
  | .vmul d a b w p => mkR 2#5 (w ++ p) b a d 0x2A#6
  | .vmulh d a b w p => mkR 3#5 (w ++ p) b a d 0x2A#6
  | .vmulhz d a b w p => mkR 4#5 (w ++ p) b a d 0x2A#6
  | .vand d a b w p => mkR 5#5 (w ++ p) b a d 0x2A#6
  | .vor d a b w p => mkR 6#5 (w ++ p) b a d 0x2A#6
  | .vxor d a b w p => mkR 7#5 (w ++ p) b a d 0x2A#6
  | .vandn d a b w p => mkR 8#5 (w ++ p) b a d 0x2A#6
  | .vsll d a b w p => mkR 9#5 (w ++ p) b a d 0x2A#6
  | .vsrl d a b w p => mkR 10#5 (w ++ p) b a d 0x2A#6
  | .vsra d a b w p => mkR 11#5 (w ++ p) b a d 0x2A#6
  | .vmin d a b w p => mkR 12#5 (w ++ p) b a d 0x2A#6
  | .vmax d a b w p => mkR 13#5 (w ++ p) b a d 0x2A#6
  | .vminz d a b w p => mkR 14#5 (w ++ p) b a d 0x2A#6
  | .vmaxz d a b w p => mkR 15#5 (w ++ p) b a d 0x2A#6
  | .vaddSat d a b w p => mkR 16#5 (w ++ p) b a d 0x2A#6
  | .vaddzSat d a b w p => mkR 17#5 (w ++ p) b a d 0x2A#6
  | .vsubSat d a b w p => mkR 18#5 (w ++ p) b a d 0x2A#6
  | .vsubzSat d a b w p => mkR 19#5 (w ++ p) b a d 0x2A#6
  | .vmac d a b w p => mkR 20#5 (w ++ p) b a d 0x2A#6
  | .vdot d a b w p => mkR 21#5 (w ++ p) b a d 0x2A#6
  | .vdotz d a b w p => mkR 22#5 (w ++ p) b a d 0x2A#6
  | .vsel d a b w p => mkR 23#5 (w ++ p) b a d 0x2A#6
  | .vfadd d a b t p => mkR (t ++ 0#3) (0#2 ++ p) b a d 0x2B#6
  | .vfsub d a b t p => mkR (t ++ 1#3) (0#2 ++ p) b a d 0x2B#6
  | .vfmul d a b t p => mkR (t ++ 2#3) (0#2 ++ p) b a d 0x2B#6
  | .vfma d a b t p => mkR (t ++ 3#3) (0#2 ++ p) b a d 0x2B#6
  | .vfnma d a b t p => mkR (t ++ 4#3) (0#2 ++ p) b a d 0x2B#6
  | .vfmin d a b t p => mkR (t ++ 5#3) (0#2 ++ p) b a d 0x2B#6
  | .vfmax d a b t p => mkR (t ++ 6#3) (0#2 ++ p) b a d 0x2B#6
  | .vfcpsgn d a b t p => mkR (t ++ 7#3) (0#2 ++ p) b a d 0x2B#6
  | .vcmpeq d a b p => mkR 0#5 (0#2 ++ p) b a (0#2 ++ d) 0x30#6
  | .vcmpne d a b p => mkR 1#5 (0#2 ++ p) b a (0#2 ++ d) 0x30#6
  | .vcmplt d a b p => mkR 2#5 (0#2 ++ p) b a (0#2 ++ d) 0x30#6
  | .vcmple d a b p => mkR 3#5 (0#2 ++ p) b a (0#2 ++ d) 0x30#6
  | .vcmpltz d a b p => mkR 4#5 (0#2 ++ p) b a (0#2 ++ d) 0x30#6
  | .vcmplez d a b p => mkR 5#5 (0#2 ++ p) b a (0#2 ++ d) 0x30#6
  | .vfcmpeq d a b p => mkR 6#5 (0#2 ++ p) b a (0#2 ++ d) 0x30#6
  | .vfcmplt d a b p => mkR 7#5 (0#2 ++ p) b a (0#2 ++ d) 0x30#6
  | .vfcmple d a b p => mkR 8#5 (0#2 ++ p) b a (0#2 ++ d) 0x30#6
  | .vfcmpun d a b p => mkR 9#5 (0#2 ++ p) b a (0#2 ++ d) 0x30#6
  | .pand d a b => mkR 10#5 0#5 (0#2 ++ b) (0#2 ++ a) (0#2 ++ d) 0x30#6
  | .por d a b => mkR 11#5 0#5 (0#2 ++ b) (0#2 ++ a) (0#2 ++ d) 0x30#6
  | .pxor d a b => mkR 12#5 0#5 (0#2 ++ b) (0#2 ++ a) (0#2 ++ d) 0x30#6
  | .pandn d a b => mkR 13#5 0#5 (0#2 ++ b) (0#2 ++ a) (0#2 ++ d) 0x30#6
  | .pnot d a => mkR 14#5 0#5 0#5 (0#2 ++ a) (0#2 ++ d) 0x30#6
  | .pwhile d a => mkR 15#5 0#5 0#5 a (0#2 ++ d) 0x30#6
  | .pcnt d a => mkR 16#5 0#5 0#5 (0#2 ++ a) d 0x30#6
  | .vperm d a b p => mkR 0#5 (0#2 ++ p) b a d 0x2C#6
  | .vslideUp d a b p => mkR 1#5 (0#2 ++ p) b a d 0x2C#6
  | .vslideDn d a b p => mkR 2#5 (0#2 ++ p) b a d 0x2C#6
  | .vbcast d a p => mkR 3#5 (0#2 ++ p) 0#5 a d 0x2C#6
  | .vbcastE d a b p => mkR 4#5 (0#2 ++ p) b a d 0x2C#6
  | .vins d a b => mkR 5#5 0#5 b a d 0x2C#6
  | .vext d a b => mkR 6#5 0#5 b a d 0x2C#6
  | .vredadd d a p => mkR 0#5 (0#2 ++ p) 0#5 a d 0x2D#6
  | .vredmin d a p => mkR 1#5 (0#2 ++ p) 0#5 a d 0x2D#6
  | .vredmax d a p => mkR 2#5 (0#2 ++ p) 0#5 a d 0x2D#6
  | .vredminz d a p => mkR 3#5 (0#2 ++ p) 0#5 a d 0x2D#6
  | .vredmaxz d a p => mkR 4#5 (0#2 ++ p) 0#5 a d 0x2D#6
  | .vredand d a p => mkR 5#5 (0#2 ++ p) 0#5 a d 0x2D#6
  | .vredor d a p => mkR 6#5 (0#2 ++ p) 0#5 a d 0x2D#6
  | .vredxor d a p => mkR 7#5 (0#2 ++ p) 0#5 a d 0x2D#6
  | .vfredadd d a p => mkR 8#5 (0#2 ++ p) 0#5 a d 0x2D#6
  | .vfredmin d a p => mkR 9#5 (0#2 ++ p) 0#5 a d 0x2D#6
  | .vfredmax d a p => mkR 10#5 (0#2 ++ p) 0#5 a d 0x2D#6
  | .vcvtF32Bf16 d a b s r => mkR 0#5 (0#1 ++ s ++ r) b a d 0x2E#6
  | .vcvtF32F16 d a b s r => mkR 1#5 (0#1 ++ s ++ r) b a d 0x2E#6
  | .vcvtF32E4m3 d a b s r => mkR 2#5 (0#1 ++ s ++ r) b a d 0x2E#6
  | .vcvtF32E5m2 d a b s r => mkR 3#5 (0#1 ++ s ++ r) b a d 0x2E#6
  | .vcvtF32E2m1 d a b s r => mkR 4#5 (0#1 ++ s ++ r) b a d 0x2E#6
  | .vcvtBf16F32 d a => mkR 5#5 0#5 0#5 a d 0x2E#6
  | .vcvtF16F32 d a => mkR 6#5 0#5 0#5 a d 0x2E#6
  | .vcvtE4m3F32 d a => mkR 7#5 0#5 0#5 a d 0x2E#6
  | .vcvtE5m2F32 d a => mkR 8#5 0#5 0#5 a d 0x2E#6
  | .vcvtE2m1F32 d a => mkR 9#5 0#5 0#5 a d 0x2E#6
  | .vcvtS32F32 d a r => mkR 10#5 (0#2 ++ r) 0#5 a d 0x2E#6
  | .vcvtZ32F32 d a r => mkR 11#5 (0#2 ++ r) 0#5 a d 0x2E#6
  | .vcvtF32S32 d a r => mkR 12#5 (0#2 ++ r) 0#5 a d 0x2E#6
  | .vcvtF32Z32 d a r => mkR 13#5 (0#2 ++ r) 0#5 a d 0x2E#6
  | .vcvtS32S16x2 d a s => mkR 14#5 (0#1 ++ s ++ 0#3) 0#5 a d 0x2E#6
  | .vcvtZ32Z16x2 d a s => mkR 15#5 (0#1 ++ s ++ 0#3) 0#5 a d 0x2E#6
  | .vcvtS32S8x4 d a s => mkR 16#5 (0#1 ++ s ++ 0#3) 0#5 a d 0x2E#6
  | .vcvtZ32Z8x4 d a s => mkR 17#5 (0#1 ++ s ++ 0#3) 0#5 a d 0x2E#6
  | .vcvtS16x2S32 d a => mkR 18#5 0#5 0#5 a d 0x2E#6
  | .vcvtZ16x2Z32 d a => mkR 19#5 0#5 0#5 a d 0x2E#6
  | .vcvtS8x4S32 d a => mkR 20#5 0#5 0#5 a d 0x2E#6
  | .vcvtZ8x4Z32 d a => mkR 21#5 0#5 0#5 a d 0x2E#6
  | .vexp2 d a p => mkR 0#5 (0#2 ++ p) 0#5 a d 0x2F#6
  | .vlog2 d a p => mkR 1#5 (0#2 ++ p) 0#5 a d 0x2F#6
  | .vrcp d a p => mkR 2#5 (0#2 ++ p) 0#5 a d 0x2F#6
  | .vrsqrt d a p => mkR 3#5 (0#2 ++ p) 0#5 a d 0x2F#6
  | .vtanh d a p => mkR 4#5 (0#2 ++ p) 0#5 a d 0x2F#6
  | .vsigm d a p => mkR 5#5 (0#2 ++ p) 0#5 a d 0x2F#6
  | .vsin d a p => mkR 6#5 (0#2 ++ p) 0#5 a d 0x2F#6
  | .vcos d a p => mkR 7#5 (0#2 ++ p) 0#5 a d 0x2F#6
  | .mma d a b c q p => mkR (q ++ p) c b a d 0x32#6
  | .mmab d a b c q p => mkR (q ++ p) c b a d 0x33#6
  | .zclr d f => mkR 0#5 (0#3 ++ f) 0#5 0#5 d 0x34#6
  | .zld d a f => mkR 1#5 (0#3 ++ f) 0#5 a d 0x34#6
  | .zst d a r f s t => mkR 2#5 (r ++ f) (0#1 ++ s ++ t) a d 0x34#6
  | .mwait a => mkR 3#5 0#5 0#5 a 0#5 0x34#6
  | .wldPlain d a c => mkR 0#5 c 0#5 a (0#4 ++ d) 0x35#6
  | .wldXpb4 d a b c => mkR 1#5 c b a (0#4 ++ d) 0x35#6
  | .wldXpb5 d a b c => mkR 2#5 c b a (0#4 ++ d) 0x35#6
  | .qpush d a b c => mkR 0#5 c b a d 0x36#6
  | .qtry d a b c => mkR 1#5 c b a d 0x36#6
  | .rset d a b => mkR 0#5 0#5 b a (0#1 ++ d) 0x37#6
  | .rwaitf d a => mkR 1#5 0#5 0#5 a (0#1 ++ d) 0x37#6
  | .rwaite d a => mkR 2#5 0#5 0#5 a (0#1 ++ d) 0x37#6
  | .radvp d a => mkR 3#5 0#5 0#5 a (0#1 ++ d) 0x37#6
  | .radvc d a => mkR 4#5 0#5 0#5 a (0#1 ++ d) 0x37#6
  | .rstat d a => mkR 5#5 0#5 0#5 (0#1 ++ a) d 0x37#6
  | .halo a b => mkR 0#5 0#5 b a 0#5 0x38#6
  | .xreg d a b => mkR 0#5 0#5 b a d 0x3A#6
  | .xroute d a b c => mkR 1#5 c b a d 0x3A#6
  | .xgate d a b s => mkR 2#5 (0#2 ++ s) b a d 0x3A#6
  | .xgrad a b c => mkR 3#5 c b a 0#5 0x3A#6
  | .xjoin d a b => mkR 4#5 0#5 b a d 0x3A#6
  | .xstat d a b => mkR 5#5 0#5 b a d 0x3A#6
  | .xpol d a b c => mkR 6#5 c b a d 0x3A#6
  | .xdrop d a => mkR 7#5 0#5 0#5 a d 0x3A#6
  | .vwdef d a c => mkR 0#5 c 0#5 a d 0x3B#6
  | .vwdrop d a => mkR 1#5 0#5 0#5 a d 0x3B#6
  | .vwrd d a b c => mkR 2#5 c b a d 0x3B#6
  | .vwtag d a b => mkR 3#5 0#5 b a d 0x3B#6
  | .vwpub d a => mkR 4#5 0#5 0#5 a d 0x3B#6
  | .vwpol d a b c => mkR 5#5 c b a d 0x3B#6
  | .vwsync a b => mkR 6#5 0#5 b a 0#5 0x3B#6
  | .stgdef d a => mkR 0#5 0#5 0#5 a d 0x3C#6
  | .stggo d a => mkR 1#5 0#5 0#5 a d 0x3C#6
  | .stgstop d => mkR 2#5 0#5 0#5 0#5 d 0x3C#6
  | .stgpost d a b c => mkR 3#5 c b a d 0x3C#6
  | .stgstash d a => mkR 4#5 0#5 0#5 a d 0x3C#6
  | .stgbub d a => mkR 5#5 0#5 0#5 a d 0x3C#6
  | .launch d a b => mkR 0#5 0#5 b a d 0x3D#6
  | .cqpost d a b => mkR 1#5 0#5 b a d 0x3D#6
  | .cqwait d a b => mkR 2#5 0#5 b a d 0x3D#6
  | _ => 0#32

/-- The compact halfword of an instruction; zero where it has none. -/
def encodeCompact : Instr → Half
  | .cAddi d i => mkC (i ++ d) 0x0#4
  | .cLi d i => mkC (i ++ d) 0x1#4
  | .cMv d a => mkC (0#1 ++ a ++ d) 0x2#4
  | .cAdd d a => mkC (0#1 ++ a ++ d) 0x3#4
  | .cSub d a => mkC (0#1 ++ a ++ d) 0x4#4
  | .cAnd d a => mkC (0#1 ++ a ++ d) 0x5#4
  | .cSlli d n => mkC (n ++ d) 0x6#4
  | .cLdd d i => mkC (i ++ d) 0x7#4
  | .cStd b i => mkC (i ++ b) 0x8#4
  | .cLdw d a u => mkC (u ++ a ++ d) 0x9#4
  | .cStw a b u => mkC (u ++ a ++ b) 0xA#4
  | .cBeqz a i => mkC (i ++ a) 0xB#4
  | .cBnez a i => mkC (i ++ a) 0xC#4
  | .cJ o => mkC (o) 0xD#4
  | .cJr a => mkC (0#6 ++ a) 0xE#4
  | .cSafe n => mkC (0#3 ++ n) 0xF#4
  | _ => 0#16

/-- The form an instruction has: a 32-bit word, a compact halfword, or no word (a unit's operation). -/
inductive Form where
  /-- A 32-bit instruction. -/
  | word
  /-- A 16-bit compact instruction. -/
  | compact
  /-- An operation or an event of a unit: no instruction word. -/
  | unit
  deriving DecidableEq, Repr

/-- The form of each constructor. -/
def Instr.form : Instr → Form
  | .add _ _ _ | .sub _ _ _ | .and _ _ _ | .or _ _ _ | .xor _ _ _ | .andn _ _ _
  | .orn _ _ _ | .xnor _ _ _ | .sll _ _ _ | .srl _ _ _ | .sra _ _ _ | .rol _ _ _
  | .ror _ _ _ | .slt _ _ _ | .sltz _ _ _ | .min _ _ _ | .max _ _ _ | .minz _ _ _
  | .maxz _ _ _ | .addSat _ _ _ | .subSat _ _ _ | .addzSat _ _ _ | .subzSat _ _ _ | .clz _ _
  | .ctz _ _ | .cpop _ _ | .rev8 _ _ | .bfxS _ _ _ | .bfxZ _ _ _ | .bfi _ _ _
  | .sel _ _ _ _ | .addi _ _ _ | .andi _ _ _ | .ori _ _ _ | .xori _ _ _ | .slti _ _ _
  | .shiSll _ _ _ | .shiSrl _ _ _ | .shiSra _ _ _ | .shiRor _ _ _ | .mul _ _ _ | .mulh _ _ _
  | .mulhz _ _ _ | .mulhsz _ _ _ | .div _ _ _ | .divz _ _ _ | .rem _ _ _ | .remz _ _ _
  | .lui _ _ | .addpc _ _ | .jal _ _ | .jalr _ _ _ | .beq _ _ _ _ | .bne _ _ _ _
  | .blt _ _ _ _ | .bge _ _ _ _ | .bltz _ _ _ _ | .bgez _ _ _ _ | .fadd _ _ _ _ | .fsub _ _ _ _
  | .fmul _ _ _ _ | .fdiv _ _ _ _ | .fsqrt _ _ _ | .fmin _ _ _ | .fmax _ _ _ | .fcpsgn _ _ _
  | .fcpsgnn _ _ _ | .fcpsgnx _ _ _ | .feq _ _ _ | .flt _ _ _ | .fle _ _ _ | .fclass _ _
  | .fcvtF32Ty _ _ _ _ | .fcvtTyF32 _ _ _ _ | .fmvXF _ _ | .fmvFX _ _ | .fcvtF32Nfmt _ _ _ _ _ | .fcvtNfmtF32 _ _ _
  | .ffma _ _ _ _ _ | .ffms _ _ _ _ _ | .fnma _ _ _ _ _ | .fnms _ _ _ _ _ | .csrr _ _ | .csrw _ _ _
  | .csrs _ _ _ | .csrc _ _ _ | .safe _ | .yield | .done | .svc _
  | .trap _ | .ld _ _ _ _ | .st _ _ _ _ _ | .fldW _ _ _ | .fstW _ _ _ | .lds _ _ _ _
  | .sts _ _ _ _ | .amoSwap _ _ _ _ _ | .amoAdd _ _ _ _ _ | .amoAnd _ _ _ _ _ | .amoOr _ _ _ _ _ | .amoXor _ _ _ _ _
  | .amoMin _ _ _ _ _ | .amoMax _ _ _ _ _ | .amoMinz _ _ _ _ _ | .amoMaxz _ _ _ _ _ | .amoFadd _ _ _ _ | .amoFmin _ _ _ _
  | .amoFmax _ _ _ _ | .amocas _ _ _ _ _ | .fence _ | .tadd _ _ _ | .tread _ _ _ | .waitge _ _ _
  | .msend _ _ _ | .msendp _ _ _ _ | .tarm _ _ _ | .tarmRep _ _ _ | .tbind _ _ _ | .tunbind _
  | .tdis _ | .ten _ | .tdec _ | .tstat _ _ | .tfcnt _ _ | .tclrf _
  | .hbind _ _ | .bar _ _ _ | .bara _ _ _ _ | .barw _ _ _ | .elect _ _ _ _ | .spawn _ _ _ _
  | .dqcnt _ | .vclaim _ _ | .vclaimTry _ _ | .vrel | .vwaitm _ | .vld _ _ _
  | .vlds _ _ _ _ | .vldg _ _ _ _ | .vldt _ _ _ _ _ | .vst _ _ _ | .vsts _ _ _ _ | .vstg _ _ _ _
  | .vstt _ _ _ _ _ | .vadd _ _ _ _ _ | .vsub _ _ _ _ _ | .vmul _ _ _ _ _ | .vmulh _ _ _ _ _ | .vmulhz _ _ _ _ _
  | .vand _ _ _ _ _ | .vor _ _ _ _ _ | .vxor _ _ _ _ _ | .vandn _ _ _ _ _ | .vsll _ _ _ _ _ | .vsrl _ _ _ _ _
  | .vsra _ _ _ _ _ | .vmin _ _ _ _ _ | .vmax _ _ _ _ _ | .vminz _ _ _ _ _ | .vmaxz _ _ _ _ _ | .vaddSat _ _ _ _ _
  | .vaddzSat _ _ _ _ _ | .vsubSat _ _ _ _ _ | .vsubzSat _ _ _ _ _ | .vmac _ _ _ _ _ | .vdot _ _ _ _ _ | .vdotz _ _ _ _ _
  | .vsel _ _ _ _ _ | .vfadd _ _ _ _ _ | .vfsub _ _ _ _ _ | .vfmul _ _ _ _ _ | .vfma _ _ _ _ _ | .vfnma _ _ _ _ _
  | .vfmin _ _ _ _ _ | .vfmax _ _ _ _ _ | .vfcpsgn _ _ _ _ _ | .vcmpeq _ _ _ _ | .vcmpne _ _ _ _ | .vcmplt _ _ _ _
  | .vcmple _ _ _ _ | .vcmpltz _ _ _ _ | .vcmplez _ _ _ _ | .vfcmpeq _ _ _ _ | .vfcmplt _ _ _ _ | .vfcmple _ _ _ _
  | .vfcmpun _ _ _ _ | .pand _ _ _ | .por _ _ _ | .pxor _ _ _ | .pandn _ _ _ | .pnot _ _
  | .pwhile _ _ | .pcnt _ _ | .vperm _ _ _ _ | .vslideUp _ _ _ _ | .vslideDn _ _ _ _ | .vbcast _ _ _
  | .vbcastE _ _ _ _ | .vins _ _ _ | .vext _ _ _ | .vredadd _ _ _ | .vredmin _ _ _ | .vredmax _ _ _
  | .vredminz _ _ _ | .vredmaxz _ _ _ | .vredand _ _ _ | .vredor _ _ _ | .vredxor _ _ _ | .vfredadd _ _ _
  | .vfredmin _ _ _ | .vfredmax _ _ _ | .vcvtF32Bf16 _ _ _ _ _ | .vcvtF32F16 _ _ _ _ _ | .vcvtF32E4m3 _ _ _ _ _ | .vcvtF32E5m2 _ _ _ _ _
  | .vcvtF32E2m1 _ _ _ _ _ | .vcvtBf16F32 _ _ | .vcvtF16F32 _ _ | .vcvtE4m3F32 _ _ | .vcvtE5m2F32 _ _ | .vcvtE2m1F32 _ _
  | .vcvtS32F32 _ _ _ | .vcvtZ32F32 _ _ _ | .vcvtF32S32 _ _ _ | .vcvtF32Z32 _ _ _ | .vcvtS32S16x2 _ _ _ | .vcvtZ32Z16x2 _ _ _
  | .vcvtS32S8x4 _ _ _ | .vcvtZ32Z8x4 _ _ _ | .vcvtS16x2S32 _ _ | .vcvtZ16x2Z32 _ _ | .vcvtS8x4S32 _ _ | .vcvtZ8x4Z32 _ _
  | .vexp2 _ _ _ | .vlog2 _ _ _ | .vrcp _ _ _ | .vrsqrt _ _ _ | .vtanh _ _ _ | .vsigm _ _ _
  | .vsin _ _ _ | .vcos _ _ _ | .mma _ _ _ _ _ _ | .mmab _ _ _ _ _ _ | .zclr _ _ | .zld _ _ _
  | .zst _ _ _ _ _ _ | .mwait _ | .wldPlain _ _ _ | .wldXpb4 _ _ _ _ | .wldXpb5 _ _ _ _ | .qpush _ _ _ _
  | .qtry _ _ _ _ | .rset _ _ _ | .rwaitf _ _ | .rwaite _ _ | .radvp _ _ | .radvc _ _
  | .rstat _ _ | .halo _ _ | .xreg _ _ _ | .xroute _ _ _ _ | .xgate _ _ _ _ | .xgrad _ _ _
  | .xjoin _ _ _ | .xstat _ _ _ | .xpol _ _ _ _ | .xdrop _ _ | .vwdef _ _ _ | .vwdrop _ _
  | .vwrd _ _ _ _ | .vwtag _ _ _ | .vwpub _ _ | .vwpol _ _ _ _ | .vwsync _ _ | .stgdef _ _
  | .stggo _ _ | .stgstop _ | .stgpost _ _ _ _ | .stgstash _ _ | .stgbub _ _ | .launch _ _ _
  | .cqpost _ _ _ | .cqwait _ _ _ => .word
  | .cAddi _ _ | .cLi _ _ | .cMv _ _ | .cAdd _ _ | .cSub _ _ | .cAnd _ _
  | .cSlli _ _ | .cLdd _ _ | .cStd _ _ | .cLdw _ _ _ | .cStw _ _ _ | .cBeqz _ _
  | .cBnez _ _ | .cJ _ | .cJr _ | .cSafe _ => .compact
  | .messageArrival | .heldDecrement | .taskStart | .creationHoldRelease | .taskPromotion | .evictedTaskReady
  | .stealRequest | .stealBackoff | .stealHandover | .remoteAccess | .remoteReply | .combiningDrainTimeout
  | .pageWalkComplete | .memoryAgentRequest | .writeReport | .waitTimeout | .claimGrant | .vmemPerformed
  | .sfuResult | .matrixSelect | .operandsConsumed | .matrixComplete | .copyTurn | .copyRequestComplete
  | .remoteWritePacket | .writeAcknowledgement | .blockRegeneration | .regenerationComplete | .tokenDecision | .heldTokenRedecision
  | .windowEnd | .versionChange | .partialArrival | .dcqReservation | .doorbell | .hostQueueFetch
  | .dcqNop | .dcqLaunch | .dcqTiles | .dcqCollectiveStep | .dcqWait | .dcqBranch
  | .dcqSignal | .dcqFence | .dcqReservedCommand | .commandTlcAdd | .trailEntryStart | .trailEntryComplete
  | .trailPostArrival | .slotReturn | .barrierArrival | .barrierReply | .completionMulticast | .barrierDoneFlit
  | .flitReceive | .ackReceive | .nakReceive | .ackTimer | .nakResendTimeout | .replayTimeout
  | .laneFailure | .retrainingEnd | .trainingRetry | .retrain | .hold | .fabricHopFailure
  | .uncorrectableError | .apertureAccess | .create | .halt | .save | .restore
  | .resume | .destroy | .realmCommandInvalid | .haltComplete | .saveComplete | .restoreComplete
  | .haltLimit | .saveLimit | .restoreLimit | .invctlStart | .invalidationEnd | .registerWrite
  | .ltolWrite | .idlePowerEntry | .wakeEvent | .hostLinkDown | .hostLinkRestored | .hostReadTimeout
  | .mgmtRequest | .firmwareUpdate | .getMeasurements | .moduleReset | .wdogStallLimit | .wdogT1Expiry
  | .wdogKillsComplete | .wdogT2Expiry | .trapRecordDispatch | .svcDispatch | .flushingReadComplete | .correctedError => .unit

/-- The halfwords of an instruction, the first at the lowest offset (R180); none for a unit's operation. -/
def encode (i : Instr) : List Half :=
  match i.form with
  | .word => [(encodeWord i).extractLsb' 0 16, (encodeWord i).extractLsb' 16 16]
  | .compact => [encodeCompact i]
  | .unit => []

/-- The bytes of an instruction word in LM, from its length in bits and its value, with zeros above it (R180). -/
def tableHalves (nbits w : Nat) : List Half :=
  [BitVec.ofNat 16 (w % 2 ^ nbits), BitVec.ofNat 16 (w % 2 ^ nbits / 65536), 0#16, 0#16]

/-- The instruction the decoder reads from a word of the opcode table. -/
noncomputable def decodeTableWord (nbits w : Nat) : Option Instr :=
  match decode (tableHalves nbits w) with
  | .ok (i, _) => some i
  | .error _ => none

end Sys2Proof
end

