-- ==== Sys2Proof/Machine/Fetch.lean ====
section
/-! DEFINITION. Taking a turn and fetching an instruction (R37, R55, R180, R361, R370): which agent moves next, the bytes at
the program counter, and the checks that come before the instruction's own. -/

namespace Sys2Proof.Machine

/-- The safe points of R47: the waiting instructions, DONE, and SAFE n with n below the handler's NLM. -/
def isSafePoint (entry : Word) : Instr → Bool
  | .waitge .. | .rwaitf .. | .rwaite .. | .bar .. | .barw .. | .mwait .. | .vclaim .. | .vwsync .. | .xjoin .. | .yield
  | .done => true
  | .safe n | .cSafe n => n.toNat < bitsOf entry.toNat 47 40
  | _ => false

/-- Instructions that read and write registers and the program counter alone: the integer and floating-point forms and the jumps. -/
def registersOnly : Instr → Bool
  | .add .. | .sub .. | .and .. | .or .. | .xor .. | .andn .. | .orn .. | .xnor .. | .sll .. | .srl .. | .sra .. | .rol .. | .ror ..
  | .slt .. | .sltz .. | .min .. | .max .. | .minz .. | .maxz .. | .addSat .. | .subSat .. | .addzSat .. | .subzSat .. | .clz .. | .ctz ..
  | .cpop .. | .rev8 .. | .bfxS .. | .bfxZ .. | .bfi .. | .sel .. | .addi .. | .andi .. | .ori .. | .xori .. | .slti .. | .shiSll ..
  | .shiSrl .. | .shiSra .. | .shiRor .. | .mul .. | .mulh .. | .mulhz .. | .mulhsz .. | .div .. | .divz .. | .rem .. | .remz ..
  | .lui .. | .addpc .. | .jal .. | .jalr .. | .beq .. | .bne .. | .blt .. | .bge .. | .bltz .. | .bgez .. | .fadd .. | .fsub .. | .fmul ..
  | .fdiv .. | .fsqrt .. | .fmin .. | .fmax .. | .fcpsgn .. | .fcpsgnn .. | .fcpsgnx .. | .feq .. | .flt .. | .fle .. | .fclass ..
  | .fmvXF .. | .fmvFX .. | .ffma .. | .ffms .. | .fnma .. | .fnms .. => true
  | .cJ .. | .cJr .. | .cBeqz .. | .cBnez .. | .cMv .. | .cAdd .. | .cAddi .. | .cLi .. => true
  | _ => false

/-- Where a jump or a taken branch goes (R189, R229, R230); none for other instructions. -/
def State.jumpTarget (s : State) : Instr → Option Word
  | .jal _ i => some (s.pc + offJ i)
  | .jalr _ a i => some ((s.rx a + immI i) &&& ~~~1#64)
  | .cJ o => some (s.pc + ((o.signExtend 64) <<< 1))
  | .cJr a => some (s.rx a &&& ~~~1#64)
  | .beq a b o p => if s.rx a == s.rx b then some (s.pc + offB o p) else none
  | .bne a b o p => if s.rx a != s.rx b then some (s.pc + offB o p) else none
  | .blt a b o p => if sval (s.rx a) < sval (s.rx b) then some (s.pc + offB o p) else none
  | .bge a b o p => if sval (s.rx b) ≤ sval (s.rx a) then some (s.pc + offB o p) else none
  | .bltz a b o p => if zval (s.rx a) < zval (s.rx b) then some (s.pc + offB o p) else none
  | .bgez a b o p => if zval (s.rx b) ≤ zval (s.rx a) then some (s.pc + offB o p) else none
  | .cBeqz a i => if s.rx a == 0#64 then some (s.pc + ((i.signExtend 64) <<< 1)) else none
  | .cBnez a i => if s.rx a != 0#64 then some (s.pc + ((i.signExtend 64) <<< 1)) else none
  | _ => none
/-- A jump or taken branch beyond LM: a target check, which comes before the safe-point bound (R361). -/
def badTarget (s : State) (i : Instr) : Bool := (s.jumpTarget i).any (0x30000 ≤ ·.toNat)

/-- DETAIL of RESENC: the major, or 0x40 + cm (R365). -/
def encDetail : DecodeError → Nat
  | .reservedMajor maj | .reservedForm maj => maj.toNat
  | .reservedCompact cm => 0x40 + cm.toNat
  | .shortInput => 0

namespace State

/-- The halfwords at an LM offset of a core: as many as the longest instruction has (R180, log 33). -/
def halvesAt (s : State) (rid core off : Nat) : List Half :=
  [BitVec.ofNat 16 (s.rdLmNum rid core off 2), BitVec.ofNat 16 (s.rdLmNum rid core (off + 2) 2)]

/-- What the issuing slot does: an instruction to execute, or the state after a check that failed or after nothing. -/
inductive Issue where
  /-- Execute this instruction in this state. -/
  | run (i : Instr) (s : State)
  /-- The state is already the next one. -/
  | stop (s : State)

/-- Whether the slot of the turn may issue: a task is there, its realm runs (R349), its core is not fenced and the task is not being
killed (R390). -/
def mayIssue (s : State) : Bool :=
  s.me.busy && (s.myRealm.state == 1 || s.myRealm.state == 2) && !(s.coreSt s.ck).fenced
    && !(s.dieSt s.dk).kills.contains (s.cur.core, s.me.frame)

/-- Whether the slot of the turn issues now: the rotation has come to it, or it has issued its instruction already and waits (R37,
log 120). -/
def inTurn (s : State) : Bool := pending s.me.wait || s.rotation s.cur.rid s.cur.core == some s.cur.slot
/-- The slot of the turn has issued last. -/
def noteIssue (s : State) : State :=
  if pending s.me.wait then s else s.modCore s.ck fun c => { c with issued := s.cur.slot }

/-- A weak load's base register, offset, size and destination in x (R246). -/
def weakLoadOf : Instr → Option (BitVec 5 × Word × Nat × Option (BitVec 5))
  | .ld d a i sz => some (a, immM i, codeSize sz.toNat, some d)
  | .fldW _ a i => some (a, immM i, 4, none)
  | .cLdd d i => some (2#5, i.zeroExtend 64 <<< 3, 8, some d)
  | .cLdw d a u => some (creg a, u.zeroExtend 64 <<< 2, 4, some (creg d))
  | _ => none
/-- A weak store's base register, offset, size and data (R246). -/
def weakStoreOf (s : State) : Instr → Option (BitVec 5 × Word × Nat × Nat)
  | .st a b i sz j => some (a, immS i j, codeSize sz.toNat, (s.rx b).toNat)
  | .fstW d a i => some (a, immM i, 4, (s.rf d).toNat)
  | .cStd b i => some (2#5, i.zeroExtend 64 <<< 3, 8, (s.rx b).toNat)
  | .cStw a b u => some (creg a, u.zeroExtend 64 <<< 2, 4, (s.rx (creg b)).toNat)
  | _ => none
/-- The offset in the issuing core's own LM of a weak access of n bytes that is performed as it is issued. -/
def ownOffset (s : State) (va n : Nat) : Option Nat :=
  let o := va % 2 ^ 18
  if va / 2 ^ 18 = lmBase s.cur.core / 2 ^ 18 ∧ va % n = 0 ∧ o + n ≤ 0x30000 ∧ s.myFrame.vops.isEmpty then some o else none
/-- What a weak load may reuse after an instruction: the value of a weak access to own LM, and across instructions that touch registers
alone still that of the access before them (R75, R81, R83, log 131). -/
def keptAfter (s : State) (i : Instr) : Option (Nat × Nat × Nat) :=
  match weakLoadOf i, s.weakStoreOf i with
  | some (a, off, n, _), _ => (s.ownOffset (s.rx a + off).toNat n).map fun o =>
      (o, n, match s.me.wait with
        | .ahead v => v
        | _ => s.rdLmNum s.cur.rid s.cur.core o n)
  | none, some (a, off, n, v) => (s.ownOffset (s.rx a + off).toNat n).map fun o => (o, n, v % 2 ^ (8 * n))
  | none, none => if registersOnly i then s.me.kept else none
/-- The task keeps it. -/
def keepValue (s : State) (i : Instr) : State :=
  if s.me.kept = s.keptAfter i then s else s.modSlot s.sk fun x => { x with kept := s.keptAfter i }

/-- Fetch, the safe-point bound and the encoding, in the order of R361 (R180, R369, R370, log 104). -/
noncomputable def fetch (s : State) : Issue :=
  let p := s.pc.toNat
  if 0x30000 ≤ p then .stop (s.trap 4 { code := 5, detail := 0, addr := p })
  else
    let hs := s.halvesAt s.cur.rid s.cur.core p
    let wide := (hs.headD 0#16).getLsbD 0
    let len := if wide then 4 else 2
    if wide && 0x30000 ≤ p + 2 then .stop (s.trap 4 { code := 5, detail := 3, addr := p })
    else
      let safe := match decode hs with
        | .ok (i, _) => isSafePoint s.me.entry i || badTarget s i
        | .error _ => false
      if 4095 ≤ s.me.safecnt && !safe then .stop (s.trap len { code := 4, addr := 4095 })
      else match decode hs with
        | .ok (i, _) => .run i (s.keepValue i)
        | .error e => .stop (s.trapEnc len (encDetail e))

/-- Two weak loads follow each other, and the bank of the second, in the issuing core's own LM, serves it while the first still waits
for its own: weak accesses are performed in no promised order (R75, R81, R83, log 131). -/
noncomputable def loadAhead (s : State) : State :=
  let p := s.pc.toNat
  let at_ (o : Nat) : Option (Instr × Nat) := match decode (s.halvesAt s.cur.rid s.cur.core o) with
    | .ok (i, _) => some (i, if ((s.halvesAt s.cur.rid s.cur.core o).headD 0#16).getLsbD 0 then 4 else 2)
    | .error _ => none
  match at_ p with
  | none => s
  | some (i, len) => match weakLoadOf i, (at_ (p + len)).bind fun j => weakLoadOf j.1 with
    | some (_, _, _, d), some (a, off, n, _) =>
      let va := (s.rx a + off).toNat
      let o := va % 2 ^ 18
      if d == some a || va / 2 ^ 18 != lmBase s.cur.core / 2 ^ 18 || va % n != 0 || 0x30000 < o + n || !s.myFrame.vops.isEmpty
          || s.poisoned (lmAddr s.cur.rid s.cur.core o) n then s
      else s.waitFor (.early (s.rdLmNum s.cur.rid s.cur.core o n))
    | _, _ => s

/-- A weak load of own LM is satisfied from the value of an earlier access of its task to the same bytes, since which the task has neither
written nor acquired anything (R75, R81, R83, log 131). -/
noncomputable def loadReused (s : State) : State :=
  match decode (s.halvesAt s.cur.rid s.cur.core s.pc.toNat), s.me.kept with
  | .ok (i, _), some (o, n, v) => match weakLoadOf i with
    | some (a, off, m, _) => if m = n ∧ s.ownOffset (s.rx a + off).toNat n = some o then s.waitFor (.ahead v) else s
    | none => s
  | _, _ => s

/-- What the slot of the turn does: a trap that has been detected goes on, else it fetches; where `sub` is 1, a weak load's request
overtakes the one before it, and where it is 2, a weak load reuses an earlier value (R37, R75, R361). -/
noncomputable def issue (s : State) : Issue :=
  if !s.mayIssue || !s.inTurn then .stop s
  else match s.me.wait with
    | .dying len code detail addr info cyc => .stop (s.trapAt len { code := code, detail := detail, addr := addr, info := info } cyc)
    | w =>
      if s.cur.sub = 1 ∧ w = .none then .stop s.noteIssue.loadAhead
      else if s.cur.sub = 2 ∧ w = .none then .stop s.loadReused
      else s.noteIssue.fetch

/-- Time passes with each step: at least one cycle, how many more is free (R3, log 2); the scale-up ports send meanwhile. -/
def tick (s : State) : State :=
  let n := 1 + Config.gap s.fresh
  ({ s with fresh := s.fresh + 1 }.passTime n).linkTime n

/-- The slot whose turn comes when the schedule names none: the next busy one after the given slot that waits, or to which the rotation
has come (R37). -/
def nextSlot (s : State) (rid core slot : Nat) : Nat :=
  let may (i : Nat) : Bool :=
    (s.slotSt (unitKey rid core i)).busy && (pending (s.slotSt (unitKey rid core i)).wait || s.rotation rid core == some i)
  (((List.range 8).map fun i => (slot + 1 + i) % 8).find? may).getD slot

/-- The turn that is taken when the schedule names none: the rotation of the current core goes on (R37). -/
def defaultTurn (s : State) : Turn :=
  { rid := s.cur.rid, core := s.cur.core, slot := s.nextSlot s.cur.rid s.cur.core s.cur.slot }

/-- Take the next turn of the schedule (log 1). -/
def takeTurn (s : State) : State :=
  match s.sched with
  | t :: rest => { s.tick with sched := rest, cur := t }
  | [] => { s.tick with cur := s.defaultTurn }

end State
end Sys2Proof.Machine

namespace Sys2Proof.Machine

/-- Realm 0 as a CREATE of one die leaves it, with a task running in slot 0 and frame 0 of core 0 at LM offset 0, and a
word of the opcode table stored there: what launching a program amounts to (log 14). -/
def State.placeWord (s : State) (nbits w : Nat) : State :=
  let bs := toBytes 8 (w % 2 ^ nbits)
  let t : State := { s with cur := { rid := 0, core := 0, slot := 7 }, sched := [{ rid := 0, core := 0, slot := 0 }] }
  let t := t.modRealm 0 fun r => { r with state := 1, n := 1, dmap := [0] }
  let t := t.modSlot 0 fun x => { x with busy := true, frame := 0, pc := 0#64, wait := .none }
  let t := (t.modFrame 0 fun f => { f with used := true }).modCore 0 fun c => { c with issued := 7 }
  t.wrLm 0 0 0 bs

end Sys2Proof.Machine
end

