-- ==== Sys2Proof/Machine/Step.lean ====
section
/-! DEFINITION. One step of the machine: the next turn of the schedule is taken; it is a unit's event, or the issue of one
instruction by a thread slot. -/

namespace Sys2Proof.Machine

/-- One step. -/
noncomputable def step (s : State) : Host.Outcome State Fault Refusal :=
  let t := s.takeTurn
  match t.cur.ev with
  | some e => exec e t
  | none => match t.issue with
    | .run i u => exec i u
    | .stop u => .next u

/-- The state with an instruction word stored where the next step fetches: slot 0 of core 0 of realm 0, as CREATE and a
launch leave it (log 14), its program counter at LM offset 0. The word's halfwords stand there, zeros above them. -/
def State.withFetchWord (s : State) (nbits w : Nat) : State :=
  s.placeWord nbits w

end Sys2Proof.Machine
end

