-- ==== Sys2Proof/Safety.lean ====
section
/-! DEFINITION. What counts as a safe run, and the vocabulary of the statements: what it means that an instruction has
completed, with one result and nothing else changed. -/

namespace Sys2Proof
open Machine

/-- A step that goes on: the machine has no other outcome (every fault of the manual is a trap or a report, R361 to R387). -/
def Goes (s : State) : Prop := ∃ t, Machine.step s = .next t

/-- The invariant of memory: its canonical form, so that equal contents are equal data. -/
def MemInv (s : State) : Prop := Memory.wf s.mem = true

/-- In t, against s, the issuing slot stands at `pc`, has SAFECNT `sc`, has the flags `fl` in FFLAGS beside its own and waits
for nothing; every other slot is as before (R48, R112). What is still in flight of the flags is what was, with `fl` where the instruction
raises some; or nothing, where a safe point or a read of FFLAGS has waited for it (R222, R237). -/
def SlotMoves (s t : State) (pc : Word) (sc : Nat) (fl : BitVec 5) : Prop :=
  (∀ k, t.slotSt k = if k = s.sk then
    { s.me with pc := pc, safecnt := sc, wait := .none, fflags := s.me.fflags ||| fl, late := (t.slotSt s.sk).late } else s.slotSt k)
  ∧ ((t.slotSt s.sk).late = [] ∨ ∃ lat, (t.slotSt s.sk).late = (s.me.addFlags s.clock lat fl).late)

/-- INSTRET of the issuing core has risen by 1; every other part of it, and every other core, is as before (R193). -/
def CoreCounts (s t : State) : Prop :=
  ∀ k, t.coreSt k = if k = s.ck then { s.coreSt s.ck with instret := (s.coreSt s.ck).instret + 1 } else s.coreSt k

/-- Only x[d] of the issuing slot has changed, to v; a result for x0 is discarded (R192). -/
def XIs (s t : State) (d : BitVec 5) (v : Word) : Prop :=
  ∀ k, t.xregs.get 0#64 k = if d ≠ 0#5 ∧ k = s.sk * 32 + d.toNat then v else s.xregs.get 0#64 k

/-- Only f[d] of the issuing slot has changed, to v (R191). -/
def FIs (s t : State) (d : BitVec 5) (v : Word32) : Prop :=
  ∀ k, t.fregs.get 0#32 k = if k = s.sk * 32 + d.toNat then v else s.fregs.get 0#32 k

/-- Only p[d] of the issuing slot has changed, to v (R265). -/
def PIs (s t : State) (d : BitVec 3) (v : Word) : Prop :=
  ∀ k, t.pregs.get 0#64 k = if d ≠ 0#3 ∧ k = s.sk * 8 + d.toNat then v else s.pregs.get 0#64 k

/-- The instruction has completed at `pc` with v in x[d] and the flags `fl` in FFLAGS, and NOTHING ELSE has changed: no other
register of any kind, no byte of memory, no other slot, no control state, no unit. -/
def WroteX (s t : State) (d : BitVec 5) (v : Word) (pc : Word) (fl : BitVec 5) : Prop :=
  XIs s t d v ∧ SlotMoves s t pc (s.me.safecnt + 1) fl ∧ CoreCounts s t
    ∧ t = { s with xregs := t.xregs, slots := t.slots, cores := t.cores }

/-- The same with v in f[d]. -/
def WroteF (s t : State) (d : BitVec 5) (v : Word32) (pc : Word) (fl : BitVec 5) : Prop :=
  FIs s t d v ∧ SlotMoves s t pc (s.me.safecnt + 1) fl ∧ CoreCounts s t
    ∧ t = { s with fregs := t.fregs, slots := t.slots, cores := t.cores }

/-- The same with v in p[d]. -/
def WroteP (s t : State) (d : BitVec 3) (v : Word) (pc : Word) : Prop :=
  PIs s t d v ∧ SlotMoves s t pc (s.me.safecnt + 1) 0#5 ∧ CoreCounts s t
    ∧ t = { s with pregs := t.pregs, slots := t.slots, cores := t.cores }

/-- The instruction has completed at `pc` and no register, flag, byte of memory or unit has changed. -/
def Moved (s t : State) (pc : Word) : Prop :=
  SlotMoves s t pc (s.me.safecnt + 1) 0#5 ∧ CoreCounts s t ∧ t = { s with slots := t.slots, cores := t.cores }

/-! ### FP32 by its bits (R99, R103, R107, R108) -/

/-- A NaN: exponent all ones, fraction not zero. -/
def isNaN32 (w : Word32) : Bool := w.extractLsb' 23 8 == 0xFF#8 && w.extractLsb' 0 23 != 0#23
/-- A signalling NaN: the fraction's most significant bit is 0. -/
def isSNaN32 (w : Word32) : Bool := isNaN32 w && !w.getLsbD 22
/-- What orders the numbers: the magnitude bits with their sign; both zeros are 0. -/
def order32 (w : Word32) : Int := if w.getLsbD 31 then -((w.extractLsb' 0 31).toNat : Int) else (w.extractLsb' 0 31).toNat
/-- The rounding mode of a code: that of FRM for 7 (R107, R108). -/
def modeOf (s : State) (r : BitVec 3) : Rnd := Rnd.ofCode (if r = 7#3 then s.me.frm.toNat else r.toNat)

/-! ### A task with nothing on its way, and what a trap leaves -/

/-- Nothing of the issuing core's is on its way: no store is buffered, queued or posted, no vector memory instruction or SFU
result is outstanding. A release then has nothing to wait for (R77). -/
abbrev Quiet (s : State) : Prop :=
  s.farQ = [] ∧ s.agentQ = [] ∧ s.rnet = [] ∧ (s.coreSt s.ck).cbuf = [] ∧ s.myFrame.vops = [] ∧ (s.octetSt s.octk).sfu = []
    ∧ ∀ e ∈ (s.coreSt s.ck).outq, e.frame = s.me.frame → e.store = false

/-- No acknowledgement of a store that core `core` has posted is on its way back: an acquire there has none to take (R82, log 132). -/
abbrev NoAck (s : State) (rid core : Nat) : Prop :=
  ∀ r ∈ s.replies, r.rid = rid → r.core = core → ∀ e ∈ (s.coreSt (coreKey rid core)).outq, e.store = true → e.id ≠ r.id

/-- No ready task waits on the issuing core, and the realm is not halting: a safe point evicts nobody (R49, R349). -/
abbrev Alone (s : State) : Prop :=
  (s.coreSt s.ck).urgent = [] ∧ (s.coreSt s.ck).normal = [] ∧ (s.coreSt s.ck).backgr = [] ∧ (s.coreSt s.ck).deque = []
    ∧ (s.coreSt s.ck).spilled = 0 ∧ s.myRealm.state ≠ 2
/-- Nor does a lane claim wait in its octet: a safe point halves no claim (R268). -/
abbrev Calm (s : State) : Prop := Alone s ∧ (s.octetSt s.octk).claims = []

/-- The trap handler core exists, and the task is none of its trap handlers: a trap here is no double fault (R367). -/
abbrev SingleFault (s : State) : Prop :=
  s.coreExists s.cur.rid s.myRealm.trapc = true
    ∧ ¬ (s.cur.core = s.myRealm.trapc ∧ (s.me.hix = 0xEF ∨ s.me.hix = 0xEE))

/-- The fault record of a trap, field by field (R363, R364): a class-1 direct message with ORD 1 for system handler 0xF0 of the
trap handler core. -/
def trapRecord (s : State) (len code detail addr info : Nat) : Msg :=
  { rid := s.cur.rid, sdev := s.fabid, score := s.cur.core, ddev := 0xFFF,
    h0 := BitVec.ofNat 64 (1 * 2 ^ 49 + 2 ^ 48 + 0xF0 * 2 ^ 32 + 0xFFF * 2 ^ 20 + s.myRealm.trapc),
    h1 := BitVec.ofNat 64 (2 ^ 57 + s.cur.rid * 2 ^ 50 + s.fabid * 2 ^ 38 + s.cur.core * 2 ^ 18),
    a0 := BitVec.ofNat 64 (s.me.hix * 2 ^ 43 + s.me.frame * 2 ^ 39 + s.cur.slot * 2 ^ 36 + s.pc.toNat % 2 ^ 18 * 2 ^ 18
      + (if len = 2 then 2 ^ 17 else 0) + detail % 256 * 2 ^ 8 + code),
    a1 := BitVec.ofNat 64 addr,
    a2 := BitVec.ofNat 64 (info % 2 ^ 32 * 2 ^ 32 + s.rdLmNum s.cur.rid s.cur.core s.pc.toNat len),
    a3 := BitVec.ofNat 64 ((s.coreSt s.ck).fseq % 2 ^ 32 * 2 ^ 32 + s.cycle s.dk % 2 ^ 32) }

/-- The issuing slot and its frame are free, and the registers of the task are lost (R29, R242, R362); those of every other task
are as before. -/
def TaskGone (s t : State) : Prop :=
  (∀ k, t.slotSt k = if k = s.sk then {} else s.slotSt k)
    ∧ (∀ k, t.frameSt k = if k = s.fk then {} else s.frameSt k)
    ∧ (∀ k, t.xregs.get 0#64 k = if k / 32 = s.sk then 0#64 else s.xregs.get 0#64 k)
    ∧ (∀ k, t.fregs.get 0#32 k = if k / 32 = s.sk then 0#32 else s.fregs.get 0#32 k)
    ∧ (∀ k, t.pregs.get 0#64 k = if k / 8 = s.sk then 0#64 else s.pregs.get 0#64 k)
    ∧ (∀ k, t.vregs.get 0#32 k = if k / 2048 = s.fk then 0#32 else s.vregs.get 0#32 k)

/-- A trap has been taken: the record is sent, the task is gone, the core has counted the record, and no byte of memory has
changed (R361, R362). -/
def TrapTaken (s t : State) (len code detail addr info : Nat) : Prop :=
  t.net = s.net ++ [trapRecord s len code detail addr info]
    ∧ TaskGone s t
    ∧ (∀ k, t.coreSt k = if k = s.ck then { s.coreSt s.ck with fseq := (s.coreSt s.ck).fseq + 1 } else s.coreSt k)
    ∧ t.mem = s.mem ∧ t.poison = s.poison ∧ t.realms = s.realms ∧ t.counters = s.counters ∧ t.cdescs = s.cdescs

/-! ### Accesses to the issuing core's own LM (R19, R53) -/

/-- `va` is the LM-window address of n naturally aligned bytes at offset `off` of the LM of core `core` of the realm; the slot waits for
nothing, with no vector memory instruction outstanding (R52, R53). -/
abbrev LmOf (s : State) (va : Word) (core n off : Nat) : Prop :=
  va = BitVec.ofNat 64 (0xFE * 2 ^ 48 + core * 2 ^ 18 + off) ∧ off % n = 0 ∧ off + n ≤ 0x30000
    ∧ s.coreExists s.cur.rid core = true ∧ s.me.wait = .none ∧ s.myFrame.vops = []
/-- The same in the issuing core's own LM. -/
abbrev OwnLm (s : State) (va : Word) (n off : Nat) : Prop := LmOf s va s.cur.core n off

/-- Address in the state's table of bytes of offset `off` of the issuing core's LM. -/
def ownLm (s : State) (off : Nat) : Nat := lmAddr s.cur.rid s.cur.core off

/-- None of the words that hold the n bytes from `a` on in the table of bytes is poisoned (R383). -/
abbrev UnpoisonedAt (s : State) (a n : Nat) : Prop := ∀ p ∈ s.poison, p.2 = true → ¬ (a / 8 ≤ p.1 ∧ p.1 ≤ (a + n - 1) / 8)
/-- None of the words that hold n bytes of the issuing core's LM is poisoned (R383). -/
abbrev Unpoisoned (s : State) (off n : Nat) : Prop := UnpoisonedAt s (ownLm s off) n

/-- The little-endian number that n bytes of the table of bytes hold from `a` on (R4). -/
def numberAt (s : State) (a : Nat) : Nat → Nat
  | 0 => 0
  | n + 1 => (s.mem.get memDefault a).toNat + 256 * numberAt s (a + 1) n
/-- The little-endian number that n bytes of the issuing core's LM hold (R4). -/
abbrev lmNumber (s : State) (off n : Nat) : Nat := numberAt s (ownLm s off) n

/-- Memory in t is memory in s, but for the n bytes from `a` on, which hold the low n bytes of v in little-endian order (R4). -/
def StoredAt (s t : State) (a n v : Nat) : Prop :=
  ∀ x, t.mem.get memDefault x = if a ≤ x ∧ x < a + n then BitVec.ofNat 8 (v / 256 ^ (x - a)) else s.mem.get memDefault x
/-- The same for n bytes from the issuing core's LM offset `off` on. -/
abbrev LmStored (s t : State) (off n v : Nat) : Prop := StoredAt s t (ownLm s off) n v

/-- A store has completed: the bytes at `a` of the table of bytes are written, the program counter has moved on, and nothing else has
changed but the marks and reports that follow a write (poison marks, R383; view blocks, R132; reports to waiters, R256). -/
def StoreAt (s t : State) (a n v : Nat) (pc : Word) : Prop :=
  StoredAt s t a n v ∧ SlotMoves s t pc (s.me.safecnt + 1) 0#5 ∧ CoreCounts s t
    ∧ t = { s with mem := t.mem, poison := t.poison, vblocks := t.vblocks, reports := t.reports, slots := t.slots,
                   cores := t.cores }
/-- The same in the issuing core's LM. -/
abbrev StoredLm (s t : State) (off n v : Nat) (pc : Word) : Prop := StoreAt s t (ownLm s off) n v pc

/-- The byte of offset `off` of core `core`'s LM that the newest of the issuing core's posted stores to it holds (R82). -/
def postedByte (s : State) (core off : Nat) : Option Byte :=
  (s.coreSt s.ck).outq.reverse.findSome? fun e =>
    if e.store = true ∧ e.addr ≤ core * 2 ^ 18 + off then e.bytes[core * 2 ^ 18 + off - e.addr]? else none

/-! ### Accesses to device memory of this device (R54, R66 to R70) -/

/-- `va` is a naturally aligned device-memory address of n bytes whose leaf the cluster's TLB holds with the permission and with A, and
for a write D, known set; its location is `l`, on this device. The slot waits for nothing. -/
abbrev DevMem (s : State) (va : Word) (n : Nat) (write : Bool) (l : Loc) : Prop :=
  va.toNat % n = 0 ∧ va.toNat < 2 ^ 56 ∧ va.toNat / 2 ^ 48 ≠ 0xFE ∧ s.me.wait = .none
    ∧ (∃ pdie tier off key mc, l = .dev pdie tier off key mc)
    ∧ ∃ e, s.tlbFind s.clk va.toNat = some e ∧ s.leafLoc s.cur.rid e va.toNat = l
      ∧ e.aset.contains (State.partOf e va.toNat) = true ∧ e.leaf.getLsbD (if write then 3 else 2) = true
      ∧ (write = true → e.dset.contains (State.partOf e va.toNat) = true)
/-- The same for an access that reads and writes. -/
abbrev DevBoth (s : State) (va : Word) (n : Nat) (l : Loc) : Prop := DevMem s va n false l ∧ DevMem s va n true l

/-- None of the words that hold n bytes of the location is poisoned (R383). -/
abbrev Clean (s : State) (l : Loc) (n : Nat) : Prop := s.poisoned (locAddr s.cur.rid l) n = false
/-- The byte k of a location, as an access under the location's key reads it (R67, R360). -/
def devByte (s : State) (l : Loc) (k : Nat) : Byte := s.rdByte (locAddr s.cur.rid l + k) (locKey l)
/-- The little-endian number that n bytes of a location hold from byte k on (R4). -/
def devNumber (s : State) (l : Loc) (k : Nat) : Nat → Nat
  | 0 => 0
  | n + 1 => (devByte s l k).toNat + 256 * devNumber s l (k + 1) n
/-- Device memory in t is device memory in s, as accesses under the location's key read it, but for n bytes at the location, which hold
the low n bytes of v in little-endian order (R4); every line but those of the written bytes holds the same bits. -/
def DevStored (s t : State) (l : Loc) (n v : Nat) : Prop :=
  (∀ a, t.rdByte a (locKey l) =
    if locAddr s.cur.rid l ≤ a ∧ a < locAddr s.cur.rid l + n then BitVec.ofNat 8 (v / 256 ^ (a - locAddr s.cur.rid l))
    else s.rdByte a (locKey l))
  ∧ ∀ a, (a / 64 < locAddr s.cur.rid l / 64 ∨ (locAddr s.cur.rid l + n - 1) / 64 < a / 64) →
      t.mem.get memDefault a = s.mem.get memDefault a

/-- The byte i bytes beyond a location that the issuing core's combining buffer holds, if it holds it (R71). -/
def ownByte (s : State) (l : Loc) (i : Nat) : Option Byte :=
  ((s.bufBytes s.cur.rid s.cur.core l).find? (fun p => p.1 == l.inLine + i)).map (·.2)
/-- The bytes that a weak read of a location finds: each from the core's combining buffer where that holds it, else from the home, or
from the line that the cluster cache holds (R70, R71, R82). -/
def WeakByte (s : State) (l : Loc) (i : Nat) (b : Byte) : Prop :=
  match ownByte s l i with
  | some x => b = x
  | none => b = devByte s l i ∨ ∃ c ∈ (s.clusterSt s.clk).cache,
      c.addr = locAddr s.cur.rid l / 64 * 64 ∧ b = (c.data[locAddr s.cur.rid l % 64 + i]?).getD 0#8
/-- The same for the little-endian number of n bytes from byte k on (R4). -/
def WeakRead (s : State) (l : Loc) (k n v : Nat) : Prop := v < 256 ^ n ∧ ∀ i, i < n → WeakByte s l (k + i) (BitVec.ofNat 8 (v / 256 ^ i))
/-- No request of the issuing core to the line of a location is queued for its home. -/
abbrev NotQueued (s : State) (l : Loc) : Prop :=
  ∀ r ∈ s.agentQ, r.rid = s.cur.rid → r.core = s.cur.core → r.loc.line.same l.line = false
/-- Of the cluster caches, the own one may have taken the line of a location from its home, and may have dropped any line (R70). -/
def CacheFilled (s t : State) (l : Loc) : Prop :=
  ∀ k, ∃ cs, t.clusterSt k = { s.clusterSt k with cache := cs } ∧ ∀ c ∈ cs, c ∈ (s.clusterSt k).cache
    ∨ k = s.clk ∧ c.addr = locAddr s.cur.rid l / 64 * 64
      ∧ ∀ i, i < 64 → c.data[i]? = some (s.rdByte (locAddr s.cur.rid l / 64 * 64 + i) (locKey l))

/-- An instruction of four bytes that stores has completed: no register and no frame has changed, and of the machine only what follows a
write (poison marks, R383; view blocks, R132; reports to waiters, R256; the cluster's cached line, R70; the memory counters, R73). -/
def StoreDone (s t : State) : Prop :=
  SlotMoves s t (s.pc + 4#64) (s.me.safecnt + 1) 0#5 ∧ CoreCounts s t ∧ (∀ k, t.frameSt k = s.frameSt k)
    ∧ t = { s with mem := t.mem, poison := t.poison, vblocks := t.vblocks, reports := t.reports, slots := t.slots, cores := t.cores,
                   frames := t.frames, clusters := t.clusters, dies := t.dies }

/-- What the acquire part of an order leaves of the cluster caches: one of scope .die or wider empties the own cluster's (R70, R76). -/
def Acquired (s t : State) (o : BitVec 5) : Prop :=
  ∀ k, t.clusterSt k =
    if k = s.clk ∧ o.getLsbD 3 = true ∧ 3 ≤ (o.extractLsb' 0 3).toNat then { s.clusterSt s.clk with cache := [] } else s.clusterSt k

/-! ### Vector results (R265 to R268) -/

/-- The task holds a lane claim of one of the widths of R266, and no special-function result of its octet is outstanding. -/
abbrev HasClaim (s : State) : Prop :=
  (s.vlen = 8 ∨ s.vlen = 16 ∨ s.vlen = 32 ∨ s.vlen = 64) ∧ (s.octetSt s.octk).sfu = []

/-- Element j is active under p[p]: below VLEN, with bit j of the predicate 1; p0 is all ones (R265). -/
def Active (s : State) (p : BitVec 3) (j : Nat) : Bool := j < s.vlen && (p == 0#3 || (s.pregs.get 0#64 (s.sk * 8 + p.toNat)).getLsbD j)

/-- Of the vector registers, exactly the elements of v[d] of the task's claim that f gives have changed, to what it gives. -/
def VIs (s t : State) (d : BitVec 5) (f : Nat → Option Word32) : Prop :=
  ∀ k, t.vregs.get 0#32 k =
    if k / 64 = s.fk * 32 + d.toNat then (f (k % 64)).getD (s.vregs.get 0#32 k) else s.vregs.get 0#32 k

/-- The instruction has completed, with the elements of v[d] that f gives and the flags `fl`, and nothing else has changed. -/
def WroteV (s t : State) (d : BitVec 5) (f : Nat → Option Word32) (fl : BitVec 5) : Prop :=
  VIs s t d f ∧ SlotMoves s t (s.pc + 4#64) (s.me.safecnt + 1) fl ∧ CoreCounts s t
    ∧ t = { s with vregs := t.vregs, slots := t.slots, cores := t.cores }

/-- Sub-element i of width n of a lane element (R101). -/
def sub (n i : Nat) (w : Word32) : Nat := w.toNat / 2 ^ (n * i) % 2 ^ n
/-- The same as two's complement. -/
def subS (n i : Nat) (w : Word32) : Int := if 2 ^ (n - 1) ≤ sub n i w then (sub n i w : Int) - 2 ^ n else sub n i w
/-- The flags of a list of results, ORed. -/
def orAll (l : List (BitVec 5)) : BitVec 5 := l.foldr (· ||| ·) 0#5

/-- Two instructions of four bytes have completed in the issuing slot, and its vector memory counter is as before. -/
def TwoDone (s t : State) : Prop :=
  (∀ k, t.slotSt k = if k = s.sk then
      { s.me with pc := s.pc + 8#64, safecnt := s.me.safecnt + 2, wait := .none } else s.slotSt k)
    ∧ (∀ k, t.coreSt k = if k = s.ck then { s.coreSt s.ck with instret := (s.coreSt s.ck).instret + 2 } else s.coreSt k)
    ∧ ∀ k, t.frameSt k = s.frameSt k

/-! ### What an event or a unit leaves alone -/

/-- No register of any task and no byte of memory has changed. -/
def SameData (s t : State) : Prop :=
  t.xregs = s.xregs ∧ t.fregs = s.fregs ∧ t.pregs = s.pregs ∧ t.vregs = s.vregs ∧ t.mem = s.mem

/-- The slot waits: the program counter stays, nothing of the instruction's effect has happened, and the task stands in its
slot with `w` to wait for. -/
def Waits (s t : State) (w : Wait) : Prop := t.me.pc = s.pc ∧ t.me.wait = w ∧ t = { s with slots := t.slots }

/-- The event port of a core takes events at once: nothing waits there and no held decrement is owed (R33, R39). -/
abbrev PortIdle (s : State) (k : Nat) : Prop := (s.coreSt k).evq = [] ∧ (s.coreSt k).owing = none

/-- A core exists, is not fenced, and takes a new task into its ready queues at once (R38, R39, R390). -/
abbrev Receives (s : State) (rid core : Nat) : Prop :=
  let k := coreKey rid core
  s.acts rid = true ∧ s.coreExists rid core = true ∧ (s.coreSt k).fenced = false ∧ PortIdle s k
    ∧ (s.coreSt k).hold = [] ∧ s.freshCount k < 64

/-- The ready queue of class cls of core k has the task `r` at its end, ready since now; the other classes' are as before. -/
def Queued (s t : State) (k cls : Nat) (r : TaskRec) : Prop :=
  t.readyQ k cls = s.readyQ k cls ++ [.fresh { r with since := s.clock }]
    ∧ ∀ c, c = 1 ∨ c = 2 ∨ c = 3 → c ≠ cls → t.readyQ k c = s.readyQ k c

/-- What an event or instruction of s comes to in t waits for no line of another device, and none has come that it needed (R66, log 135). -/
abbrev NoLines (s t : State) : Prop := t.unitLines = [] ∧ t.awaits s.asker = false

/-- The action of the completion descriptor `d` of core `core` can happen at once: a timeline word that it adds to lies at offset `off` of
core `c`'s LM, and a ring that it advances is advanced at an idle port and does not go below 0 (R296, R381). -/
def DescCan (s : State) (core : Nat) (d : Word) (c off : Nat) : Prop :=
  let n := d.toNat
  let k := coreKey s.cur.rid core
  (n / 2 ^ 62 = 1 → 8 * (n % 2 ^ 53) = 0xFE * 2 ^ 48 + c * 2 ^ 18 + off ∧ off % 8 = 0 ∧ off + 8 ≤ 0x30000 ∧ c < 2 ^ 20
    ∧ s.coreExists s.cur.rid c = true ∧ (s.coreSt k).engFault = [] ∧ UnpoisonedAt s (lmAddr s.cur.rid c off) 8)
  ∧ (n / 2 ^ 62 = 3 → PortIdle s k ∧ 0 < (if n.testBit 4 then (s.ring (k * 16 + n % 16)).fill else (s.ring (k * 16 + n % 16)).free))
/-- What the action of a completion descriptor has done (R93, R296): nothing, the add to the timeline, the decrement's message on its way, or
the advance of the ring. -/
def DescActs (s t : State) (core : Nat) (d : Word) (c off : Nat) : Prop :=
  let n := d.toNat
  let a := lmAddr s.cur.rid c off
  let h := coreKey s.cur.rid core * 16 + n % 16
  (if n / 2 ^ 62 = 1 then StoredAt s t a 8 (numberAt s a 8 + n / 2 ^ 53 % 64) else t.mem = s.mem)
  ∧ t.net = s.net ++ (if n / 2 ^ 62 = 2 then [
      { rid := s.cur.rid, sdev := s.fabid, score := core, scope := n / 2 ^ 59 % 8,
        ddev := if n / 2 ^ 20 % 2 ^ 12 = s.fabid then 0xFFF else n / 2 ^ 20 % 2 ^ 12,
        h0 := BitVec.ofNat 64 (2 * 2 ^ 49 + n / 2 ^ 32 % 2 ^ 8 * 2 ^ 40 + n / 2 ^ 20 % 2 ^ 12 * 2 ^ 20 + n % 2 ^ 20),
        h1 := BitVec.ofNat 64 (s.cur.rid * 2 ^ 50 + s.fabid * 2 ^ 38 + core * 2 ^ 18) } ] else [])
  ∧ ∀ i, t.ring i = if n / 2 ^ 62 = 3 ∧ i = h then State.ringAdvance (s.ring h) (n.testBit 4) 1 else s.ring i

/-- Counter `j` of the machine is c in t, and every other counter is as before. -/
def CounterIs (s t : State) (j : Nat) (c : Counter) : Prop := ∀ i, t.counter i = if i = j then c else s.counter i

end Sys2Proof
end

