-- ==== Sys2Proof/Certificates/Slice0/Obligations.lean ====
section
/-! DEFINITION. The statements about the machine, each a proposition to be proved. They follow the numbered rules of the
spec; each docstring names the rules. -/

open Sys2Proof Sys2Proof.Machine

/-! ### Scalar integer instructions (11_isa_scalar.md) -/

/-- R223: every ALU-R operation but the bit-field forms writes to x[d] the value its row gives, moves the program counter on by 4,
counts in SAFECNT and INSTRET, and changes nothing else; a result for x0 is discarded (R192). clz, ctz, cpop and rev8 are given
by the bits of their result.

R224: the bit-field forms take position and length from x[b], read every operand first, and write the value of the rule's
formulas; nothing else changes. -/
def Obligations.AluRegisterResults : Prop :=
  (∀ (s : State) (d a b c : BitVec 5),
    (∀ p ∈ [ (Instr.add d a b, s.rx a + s.rx b),
             (.sub d a b, s.rx a - s.rx b),
             (.and d a b, s.rx a &&& s.rx b),
             (.or d a b, s.rx a ||| s.rx b),
             (.xor d a b, s.rx a ^^^ s.rx b),
             (.andn d a b, s.rx a &&& ~~~(s.rx b)),
             (.orn d a b, s.rx a ||| ~~~(s.rx b)),
             (.xnor d a b, ~~~(s.rx a ^^^ s.rx b)),
             (.sll d a b, s.rx a <<< ((s.rx b).toNat % 64)),
             (.srl d a b, s.rx a >>> ((s.rx b).toNat % 64)),
             (.sra d a b, (s.rx a).sshiftRight ((s.rx b).toNat % 64)),
             (.rol d a b, (s.rx a).rotateLeft ((s.rx b).toNat % 64)),
             (.ror d a b, (s.rx a).rotateRight ((s.rx b).toNat % 64)),
             (.slt d a b, if (s.rx a).toInt < (s.rx b).toInt then 1#64 else 0#64),
             (.sltz d a b, if (s.rx a).toNat < (s.rx b).toNat then 1#64 else 0#64),
             (.min d a b, if (s.rx a).toInt ≤ (s.rx b).toInt then s.rx a else s.rx b),
             (.max d a b, if (s.rx b).toInt ≤ (s.rx a).toInt then s.rx a else s.rx b),
             (.minz d a b, if (s.rx a).toNat ≤ (s.rx b).toNat then s.rx a else s.rx b),
             (.maxz d a b, if (s.rx b).toNat ≤ (s.rx a).toNat then s.rx a else s.rx b),
             (.addSat d a b, BitVec.ofInt 64 (max (-2 ^ 63) (min ((s.rx a).toInt + (s.rx b).toInt) (2 ^ 63 - 1)))),
             (.subSat d a b, BitVec.ofInt 64 (max (-2 ^ 63) (min ((s.rx a).toInt - (s.rx b).toInt) (2 ^ 63 - 1)))),
             (.addzSat d a b, BitVec.ofNat 64 (min ((s.rx a).toNat + (s.rx b).toNat) (2 ^ 64 - 1))),
             (.subzSat d a b, BitVec.ofNat 64 ((s.rx a).toNat - (s.rx b).toNat)),
             (.sel d a b c, if s.rx c ≠ 0#64 then s.rx a else s.rx b) ],
      ∃ t, exec p.1 s = .next t ∧ WroteX s t d p.2 (s.pc + 4#64) 0#5)
    ∧ (∃ (n : Nat) (t : State), exec (.clz d a) s = .next t ∧ WroteX s t d (BitVec.ofNat 64 n) (s.pc + 4#64) 0#5
        ∧ n ≤ 64 ∧ (∀ i, 64 - n ≤ i → i < 64 → (s.rx a).getLsbD i = false) ∧ (n < 64 → (s.rx a).getLsbD (63 - n) = true))
    ∧ (∃ (n : Nat) (t : State), exec (.ctz d a) s = .next t ∧ WroteX s t d (BitVec.ofNat 64 n) (s.pc + 4#64) 0#5
        ∧ n ≤ 64 ∧ (∀ i, i < n → (s.rx a).getLsbD i = false) ∧ (n < 64 → (s.rx a).getLsbD n = true))
    ∧ (∃ t, exec (.cpop d a) s = .next t
        ∧ WroteX s t d (BitVec.ofNat 64 ((List.range 64).filter fun i => (s.rx a).getLsbD i).length) (s.pc + 4#64) 0#5)
    ∧ (∃ (v : Word) (t : State), exec (.rev8 d a) s = .next t ∧ WroteX s t d v (s.pc + 4#64) 0#5
        ∧ ∀ i, i < 8 → v.extractLsb' (8 * i) 8 = (s.rx a).extractLsb' (56 - 8 * i) 8))
  ∧ ∀ (s : State) (d a b : BitVec 5),
    let pos := ((s.rx b).extractLsb' 0 6).toNat
    let len := ((s.rx b).extractLsb' 8 6).toNat + 1
    let m : Word := BitVec.ofNat 64 ((2 ^ len - 1) * 2 ^ pos)
    ∀ p ∈ [ (Instr.bfxS d a b, ((((s.rx a).signExtend 128) >>> pos).truncate len).signExtend 64),
            (.bfxZ d a b, ((((s.rx a).zeroExtend 128) >>> pos).truncate len).zeroExtend 64),
            (.bfi d a b, (s.rx d &&& ~~~m) ||| ((s.rx a <<< pos) &&& m)) ],
      ∃ t, exec p.1 s = .next t ∧ WroteX s t d p.2 (s.pc + 4#64) 0#5

/-- R225, R226: the immediate and shift forms write x[d] as their rows give, with imm15 sign-extended and the shift amount
not extended; nothing else changes.

R228 and R189: upper immediates, the address of code, and the compact forms that compute; a compact form moves the program
counter on by 2. -/
def Obligations.ImmediateResults : Prop :=
  (∀ (s : State) (d a : BitVec 5) (i : BitVec 15) (n : BitVec 6),
    ∀ p ∈ [ (Instr.addi d a i, s.rx a + i.signExtend 64),
            (.andi d a i, s.rx a &&& i.signExtend 64),
            (.ori d a i, s.rx a ||| i.signExtend 64),
            (.xori d a i, s.rx a ^^^ i.signExtend 64),
            (.slti d a i, if (s.rx a).toInt < i.toInt then 1#64 else 0#64),
            (.shiSll d a n, s.rx a <<< n.toNat),
            (.shiSrl d a n, s.rx a >>> n.toNat),
            (.shiSra d a n, (s.rx a).sshiftRight n.toNat),
            (.shiRor d a n, (s.rx a).rotateRight n.toNat) ],
      ∃ t, exec p.1 s = .next t ∧ WroteX s t d p.2 (s.pc + 4#64) 0#5)
  ∧ ∀ (s : State) (d a : BitVec 5) (i : BitVec 20) (j n : BitVec 6),
    (∀ p ∈ [ (Instr.lui d i, (i.signExtend 64) <<< 12),
             (.addpc d i, (0x00FE000000000000#64 + BitVec.ofNat 64 (s.cur.core * 2 ^ 18)) + s.pc + ((i.signExtend 64) <<< 12)) ],
      ∃ t, exec p.1 s = .next t ∧ WroteX s t d p.2 (s.pc + 4#64) 0#5)
    ∧ ∀ p ∈ [ (Instr.cAddi d j, s.rx d + j.signExtend 64),
              (.cLi d j, j.signExtend 64),
              (.cMv d a, s.rx a),
              (.cAdd d a, s.rx d + s.rx a),
              (.cSub d a, s.rx d - s.rx a),
              (.cAnd d a, s.rx d &&& s.rx a),
              (.cSlli d n, s.rx d <<< n.toNat) ],
      ∃ t, exec p.1 s = .next t ∧ WroteX s t d p.2 (s.pc + 2#64) 0#5

/-- R227 with R118: products are exact in 128 bits before their half is taken; quotients go toward zero, remainders have the
dividend's sign; by zero the quotient is all ones and the remainder the dividend; −2^63 / −1 gives −2^63 with remainder 0; no
trap and no flag. -/
def Obligations.MulDivResults : Prop :=
  ∀ (s : State) (d a b : BitVec 5),
    let x := s.rx a
    let y := s.rx b
    let most := x = 0x8000000000000000#64 ∧ y = 0xFFFFFFFFFFFFFFFF#64
    ∀ p ∈ [ (Instr.mul d a b, x * y),
            (.mulh d a b, BitVec.ofInt 64 (x.toInt * y.toInt / 2 ^ 64)),
            (.mulhz d a b, BitVec.ofNat 64 (x.toNat * y.toNat / 2 ^ 64)),
            (.mulhsz d a b, BitVec.ofInt 64 (x.toInt * y.toNat / 2 ^ 64)),
            (.div d a b, if y = 0#64 then 0xFFFFFFFFFFFFFFFF#64 else if most then x
              else BitVec.ofInt 64 (x.toInt.tdiv y.toInt)),
            (.divz d a b, if y = 0#64 then 0xFFFFFFFFFFFFFFFF#64 else x / y),
            (.rem d a b, if y = 0#64 then x else if most then 0#64 else BitVec.ofInt 64 (x.toInt.tmod y.toInt)),
            (.remz d a b, if y = 0#64 then x else x % y) ],
      ∃ t, exec p.1 s = .next t ∧ WroteX s t d p.2 (s.pc + 4#64) 0#5

/-- R229, R230, R189: a jump within LM goes to its target and writes its link (a compact jump writes none); a branch goes to its
target when its condition holds, else on to the next instruction; nothing else changes. -/
def Obligations.JumpsAndBranches : Prop :=
  ∀ (s : State) (d a b : BitVec 5) (i : BitVec 20) (k : BitVec 15) (o : BitVec 10) (p : BitVec 5) (j : BitVec 6)
      (u : BitVec 11),
    (∀ q ∈ [ (Instr.jal d i, s.pc + 2#64 * i.signExtend 64), (.jalr d a k, (s.rx a + k.signExtend 64) &&& ~~~1#64) ],
      q.2.toNat < 0x30000 → ∃ t, exec q.1 s = .next t ∧ WroteX s t d (s.pc + 4#64) q.2 0#5)
    ∧ (∀ q ∈ [ (Instr.cJ u, s.pc + 2#64 * u.signExtend 64), (.cJr a, s.rx a &&& ~~~1#64) ],
      q.2.toNat < 0x30000 → ∃ t, exec q.1 s = .next t ∧ Moved s t q.2)
    ∧ (let target := s.pc + 2#64 * (o ++ p : BitVec 15).signExtend 64
        ∀ q ∈ [ (Instr.beq a b o p, decide (s.rx a = s.rx b)), (.bne a b o p, decide (s.rx a ≠ s.rx b)),
                (.blt a b o p, decide ((s.rx a).toInt < (s.rx b).toInt)), (.bge a b o p, decide ((s.rx a).toInt ≥ (s.rx b).toInt)),
                (.bltz a b o p, decide ((s.rx a).toNat < (s.rx b).toNat)),
                (.bgez a b o p, decide ((s.rx a).toNat ≥ (s.rx b).toNat)) ],
          (q.2 = true → target.toNat < 0x30000) → ∃ t, exec q.1 s = .next t ∧ Moved s t (if q.2 then target else s.pc + 4#64))
    ∧ (let target := s.pc + 2#64 * j.signExtend 64
        ∀ q ∈ [ (Instr.cBeqz a j, decide (s.rx a = 0#64)), (.cBnez a j, decide (s.rx a ≠ 0#64)) ],
          (q.2 = true → target.toNat < 0x30000) → ∃ t, exec q.1 s = .next t ∧ Moved s t (if q.2 then target else s.pc + 2#64))

/-! ### Scalar floating point (R99 to R117, R231 to R237) -/

/-- R232, R236, R237: an arithmetic form writes to f[d] the rounded result of its operation on f[a], f[b] (and f[c]) under the
mode that its rounding field or FRM names, and ORs the operation's flags into FFLAGS; nothing else changes. The operations are
those of Num.lean (R104 to R110).

R105, R232, R234: FMIN and FMAX put −0 below +0, return the other operand where exactly one is a NaN and the canonical NaN
where both are, and set NV for a signalling NaN alone; the sign forms and the moves move bits only and set no flag. -/
def Obligations.FloatResults : Prop :=
  (∀ (s : State) (d a b c : BitVec 5) (r : BitVec 3),
    let x := (s.rf a).toNat
    let y := (s.rf b).toNat
    let z := (s.rf c).toNat
    let m := modeOf s r
    ∀ p ∈ [ (Instr.fadd d a b r, fAdd .f32 m x y),
            (.fsub d a b r, fSub .f32 m x y),
            (.fmul d a b r, fMul .f32 m x y),
            (.fdiv d a b r, fDiv .f32 m x y),
            (.fsqrt d a r, fSqrt .f32 m x),
            (.ffma d a b c r, fFma .f32 m false false x y z),
            (.ffms d a b c r, fFma .f32 m false true x y z),
            (.fnma d a b c r, fFma .f32 m true false x y z),
            (.fnms d a b c r, fFma .f32 m true true x y z) ],
      ∃ t, exec p.1 s = .next t ∧ WroteF s t d (BitVec.ofNat 32 p.2.1) (s.pc + 4#64) p.2.2)
  ∧ ∀ (s : State) (d a b : BitVec 5),
    let x := s.rf a
    let y := s.rf b
    let fl : BitVec 5 := if isSNaN32 x || isSNaN32 y then 16#5 else 0#5
    let below (u v : Word32) : Bool := order32 u < order32 v || (order32 u == order32 v && u.getLsbD 31 && !v.getLsbD 31)
    let nans (v : Word32) : Word32 :=
      if isNaN32 x && isNaN32 y then 0x7FC00000#32 else if isNaN32 x then y else if isNaN32 y then x else v
    (∃ t, exec (.fmin d a b) s = .next t ∧ WroteF s t d (nans (if below y x then y else x)) (s.pc + 4#64) fl)
    ∧ (∃ t, exec (.fmax d a b) s = .next t ∧ WroteF s t d (nans (if below x y then y else x)) (s.pc + 4#64) fl)
    ∧ (∀ p ∈ [ (Instr.fcpsgn d a b, y.extractLsb' 31 1 ++ x.extractLsb' 0 31),
               (.fcpsgnn d a b, ~~~(y.extractLsb' 31 1) ++ x.extractLsb' 0 31),
               (.fcpsgnx d a b, (x.extractLsb' 31 1 ^^^ y.extractLsb' 31 1) ++ x.extractLsb' 0 31),
               (.fmvFX d a, (s.rx a).extractLsb' 0 32) ],
        ∃ t, exec p.1 s = .next t ∧ WroteF s t d p.2 (s.pc + 4#64) 0#5)
    ∧ ∃ t, exec (.fmvXF d a) s = .next t ∧ WroteX s t d (0#32 ++ x) (s.pc + 4#64) 0#5

/-- R233: a comparison writes 1 or 0; −0 equals +0; with a NaN it gives 0; FEQ sets NV for a signalling NaN only, FLT and FLE
for any NaN; FCLASS writes the one bit of its operand's class and sets no flag; nothing else changes. -/
def Obligations.FloatComparisons : Prop :=
  ∀ (s : State) (d a b : BitVec 5),
    let x := s.rf a
    let y := s.rf b
    let un := isNaN32 x || isNaN32 y
    let bit (c : Bool) : Word := if !un && c then 1#64 else 0#64
    (∃ t, exec (.feq d a b) s = .next t
      ∧ WroteX s t d (bit (order32 x == order32 y)) (s.pc + 4#64) (if isSNaN32 x || isSNaN32 y then 16#5 else 0#5))
    ∧ (∃ t, exec (.flt d a b) s = .next t ∧ WroteX s t d (bit (order32 x < order32 y)) (s.pc + 4#64) (if un then 16#5 else 0#5))
    ∧ (∃ t, exec (.fle d a b) s = .next t ∧ WroteX s t d (bit (order32 x ≤ order32 y)) (s.pc + 4#64) (if un then 16#5 else 0#5))
    ∧ ∃ t, exec (.fclass d a) s = .next t ∧
        let e := x.extractLsb' 23 8
        let m := x.extractLsb' 0 23
        let neg := x.getLsbD 31
        let class_ : Nat :=
          if isNaN32 x then (if isSNaN32 x then 8 else 9)
          else if e = 0xFF#8 then (if neg then 0 else 7)
          else if e ≠ 0#8 then (if neg then 1 else 6)
          else if m ≠ 0#23 then (if neg then 2 else 5)
          else if neg then 3 else 4
        WroteX s t d (BitVec.ofNat 64 (2 ^ class_)) (s.pc + 4#64) 0#5

/-- R234, R235: the conversions write the once rounded result of Num.lean (R113 to R116) with its flags: integers in the width
and signedness of their type, narrow elements with zeros above them; under code 4 the seed is SRSEED and the index x[d] before
the write (R109); nothing else changes. -/
def Obligations.FloatConversions : Prop :=
  ∀ (s : State) (d a : BitVec 5) (ty : BitVec 2) (r : BitVec 3) (sat : BitVec 1) (n : BitVec 3),
    let it : IntTy := ⟨ty = 0#2 || ty = 2#2, if ty = 0#2 || ty = 1#2 then 32 else 64⟩
    let int : Int := match ty with
      | 0#2 => ((s.rx a).extractLsb' 0 32).toInt
      | 1#2 => ((s.rx a).extractLsb' 0 32).toNat
      | 2#2 => (s.rx a).toInt
      | _ => (s.rx a).toNat
    let nf : Fmt := match n with
      | 0#3 => .bf16 | 1#3 => .f16 | 2#3 => .e4m3 | 3#3 => .e5m2 | _ => .e2m1
    let mode : Rnd := if r = 4#3 then .sr (srThreshold (s.coreSt s.ck).srseed ((s.rx d).extractLsb' 0 32)) else modeOf s r
    (∃ t, exec (.fcvtF32Ty d a ty r) s = .next t ∧
      WroteX s t d (BitVec.ofInt 64 (fToInt .f32 it (modeOf s r) (s.rf a).toNat).1) (s.pc + 4#64)
        (fToInt .f32 it (modeOf s r) (s.rf a).toNat).2)
    ∧ (∃ t, exec (.fcvtTyF32 d a ty r) s = .next t ∧
      WroteF s t d (BitVec.ofNat 32 (fOfInt .f32 (modeOf s r) int).1) (s.pc + 4#64) (fOfInt .f32 (modeOf s r) int).2)
    ∧ (∃ t, exec (.fcvtF32Nfmt d a r sat n) s = .next t ∧
      WroteX s t d (BitVec.ofNat 64 (fConv .f32 nf mode (sat = 1#1) (s.rf a).toNat).1) (s.pc + 4#64)
        (fConv .f32 nf mode (sat = 1#1) (s.rf a).toNat).2)
    ∧ ∃ t, exec (.fcvtNfmtF32 d a n) s = .next t ∧
      WroteF s t d (BitVec.ofNat 32 (fConv nf .f32 .rne false ((s.rx a).toNat % 2 ^ nf.width)).1) (s.pc + 4#64)
        (fConv nf .f32 .rne false ((s.rx a).toNat % 2 ^ nf.width)).2

/-! ### Control registers, safe points and the end of a task (R193, R238 to R243) -/

/-- R193, R239: csrr writes the register's value to x[d] and changes nothing else; CYCLE stands still between RESTORE and RESUME
(R352), and the reserved bits of WDOGCFG read as zero (R5, R388). -/
def Obligations.ControlRegisterReads : Prop :=
  ∀ (s : State) (d : BitVec 5),
    (∀ p ∈ [ (0x000#12, BitVec.ofNat 64 s.cur.core),
             (0x001#12, BitVec.ofNat 64 s.cur.rid),
             (0x002#12, BitVec.ofNat 64 (s.cur.slot + 256 * s.me.frame)),
             (0x003#12, BitVec.ofNat 64 (if (s.dieSt s.dk).frozen then (s.dieSt s.dk).carry
               else s.clock - (s.dieSt s.dk).base + (s.dieSt s.dk).carry)),
             (0x004#12, BitVec.ofNat 64 (s.coreSt s.ck).instret),
             (0x005#12, BitVec.ofNat 64 s.me.safecnt),
             (0x006#12, BitVec.ofNat 64 s.myFrame.width),
             (0x007#12, s.myFrame.mjob.zeroExtend 64),
             (0x010#12, s.me.frm.zeroExtend 64),
             (0x011#12, s.me.fflags.zeroExtend 64),
             (0x012#12, (s.coreSt s.ck).srseed.zeroExtend 64),
             (0x020#12, s.myRealm.wdogcfg &&& BitVec.ofNat 64 (2 ^ 53 - 1)),
             (0x080#12, (s.dieSt s.dk).rdLocal),
             (0x081#12, (s.dieSt s.dk).rdRemote),
             (0x082#12, (s.dieSt s.dk).rdServed),
             (0x083#12, (s.dieSt s.dk).wrServed),
             (0x0A0#12, if s.myRealm.tlbinving then 1#64 else 0#64) ],
      ∃ t, exec (.csrr d p.1) s = .next t ∧ WroteX s t d p.2 (s.pc + 4#64) 0#5)
    ∧ ∀ i : BitVec 4, ∃ t, exec (.csrr d (0x04#8 ++ i)) s = .next t
        ∧ WroteX s t d (s.cdescs.get 0#64 (s.ck * 16 + i.toNat)) (s.pc + 4#64) 0#5

/-- R239, R108, R111, R193: csrw, csrs and csrc write x[d] ← old and the register ← x[a], old | x[a], old & ~x[a], of which the
register stores its writable bits; no other register, no byte of memory and no other slot changes. TLBINV has its own statement.

R237: csrs and csrc of FFLAGS wait for every earlier floating-point instruction of the task, whose flags the old value then has; csrw
does not wait: the old value has the flags of those that have completed, and the flags of the others are ORed into the written value (that
they are so already in the value which a step shows is the model's choice, log 136).

R193, R244, R369: TLBINV is the trap handler core's. There a write with no bit outside [56:12] and [1:0] starts an
invalidation when none that a task started is in progress, and stalls the slot while one is; with such a bit it traps with
RESVAL of operand a; on any other core it traps with RESENC. That a write stalls before its value is looked at is the model's
choice (log 24). -/
def Obligations.ControlRegisterWrites : Prop :=
  (∀ (s : State) (d a : BitVec 5),
    (let w := (s.rx a).extractLsb' 0 5
      let rest := s.me.late.filter fun e => decide (s.clock < e.1)
      let held := ((s.me.late.head?.map fun e => e.2.2).getD s.me.fflags)
        ||| orAll ((s.me.late.filter fun e => decide (e.1 ≤ s.clock)).map fun e => e.2.1)
      let only (t : State) (old fl : BitVec 5) (late : List (Nat × BitVec 5 × BitVec 5)) : Prop :=
        XIs s t d (old.zeroExtend 64) ∧ CoreCounts s t
          ∧ (∀ j, t.slotSt j = if j = s.sk then
              { s.me with pc := s.pc + 4#64, safecnt := s.me.safecnt + 1, wait := .none, fflags := fl, late := late } else s.slotSt j)
          ∧ t = { s with xregs := t.xregs, slots := t.slots, cores := t.cores }
      (∃ t, exec (.csrw d a 0x011#12) s = .next t
        ∧ only t held (w ||| orAll (rest.map fun e => e.2.1)) (rest.map fun e => (e.1, e.2.1, w)))
      ∧ (∃ t, exec (.csrs d a 0x011#12) s = .next t ∧ only t s.me.fflags (s.me.fflags ||| w) [])
      ∧ ∃ t, exec (.csrc d a 0x011#12) s = .next t ∧ only t s.me.fflags (s.me.fflags &&& ~~~w) [])
    ∧ (∀ k ∈ [0x010#12, 0x012#12, 0x080#12, 0x081#12, 0x082#12, 0x083#12],
      let old := s.csrVal k
      ∀ p ∈ [ (Instr.csrw d a k, s.rx a), (.csrs d a k, old ||| s.rx a), (.csrc d a k, old &&& ~~~(s.rx a)) ],
        ∃ t, exec p.1 s = .next t ∧ XIs s t d old
          ∧ (∀ j, t.slotSt j = if j = s.sk then
              { s.me with
                pc := s.pc + 4#64, safecnt := s.me.safecnt + 1, wait := .none,
                frm := if k = 0x010#12 then p.2.extractLsb' 0 2 else s.me.frm } else s.slotSt j)
          ∧ (∀ j, t.coreSt j = if j = s.ck then
              { s.coreSt s.ck with
                instret := (s.coreSt s.ck).instret + 1,
                srseed := if k = 0x012#12 then p.2.extractLsb' 0 32 else (s.coreSt s.ck).srseed } else s.coreSt j)
          ∧ (∀ j, t.dieSt j = if j = s.dk then
              { s.dieSt s.dk with
                rdLocal := if k = 0x080#12 then p.2 else (s.dieSt s.dk).rdLocal,
                rdRemote := if k = 0x081#12 then p.2 else (s.dieSt s.dk).rdRemote,
                rdServed := if k = 0x082#12 then p.2 else (s.dieSt s.dk).rdServed,
                wrServed := if k = 0x083#12 then p.2 else (s.dieSt s.dk).wrServed } else s.dieSt j)
          ∧ t = { s with xregs := t.xregs, slots := t.slots, cores := t.cores, dies := t.dies })
    ∧ ∀ i : BitVec 4,
      let k : BitVec 12 := 0x04#8 ++ i
      let old := s.cdescs.get 0#64 (s.ck * 16 + i.toNat)
      ∀ p ∈ [ (Instr.csrw d a k, s.rx a), (.csrs d a k, old ||| s.rx a), (.csrc d a k, old &&& ~~~(s.rx a)) ],
        ∃ t, exec p.1 s = .next t ∧ XIs s t d old ∧ SlotMoves s t (s.pc + 4#64) (s.me.safecnt + 1) 0#5 ∧ CoreCounts s t
          ∧ (∀ j, t.cdescs.get 0#64 j = if j = s.ck * 16 + i.toNat then p.2 else s.cdescs.get 0#64 j)
          ∧ t = { s with xregs := t.xregs, slots := t.slots, cores := t.cores, cdescs := t.cdescs })
  ∧ ∀ (s : State) (d a : BitVec 5),
    let k := 0x0A0#12
    (s.cur.core = s.myRealm.trapc → s.myRealm.tlbinving = false → s.rx a &&& 0xFE00000000000FFC#64 = 0#64 →
      ∃ t, exec (.csrw d a k) s = .next t ∧ XIs s t d 0#64 ∧ SlotMoves s t (s.pc + 4#64) (s.me.safecnt + 1) 0#5
        ∧ CoreCounts s t
        ∧ (∀ j, t.realm j = if j = s.cur.rid then { s.myRealm with tlbinving := true, tlbinvAt := s.rx a } else s.realm j)
        ∧ t = { s with xregs := t.xregs, slots := t.slots, cores := t.cores, realms := t.realms })
    ∧ (s.cur.core = s.myRealm.trapc → s.myRealm.tlbinving = true →
      ∃ t, exec (.csrw d a k) s = .next t ∧ t.me.pc = s.pc ∧ t.me.wait = .stall ∧ t = { s with slots := t.slots })
    ∧ (Quiet s → SingleFault s → s.cur.core = s.myRealm.trapc → s.myRealm.tlbinving = false →
        s.rx a &&& 0xFE00000000000FFC#64 ≠ 0#64 →
      ∃ t, exec (.csrw d a k) s = .next t ∧ TrapTaken s t 4 0x02 0x14 (s.rx a).toNat 1)
    ∧ (Quiet s → SingleFault s → s.cur.core ≠ s.myRealm.trapc →
      ∃ t, exec (.csrw d a k) s = .next t ∧ TrapTaken s t 4 0x01 0x14 0 0)

/-- R47, R241: at `safe n` with no one to evict, the registers that live mask n of the handler leaves unmarked read as zero, the
marked ones keep their values, SAFECNT returns to zero and the task goes on; `yield` keeps every register; c.safe moves the
program counter on by 2. An n that is not below the handler's NLM traps with RESVAL of operand d (R244, R369); what its record says
for n, and for the compact form, is the model's choice (log 23). -/
def Obligations.SafePoints : Prop :=
  ∀ (s : State) (n : BitVec 8),
    let nlm := s.me.entry.toNat / 2 ^ 40 % 256
    let table := s.me.entry.toNat / 2 ^ 18 % 2 ^ 18
    let mask := s.rdLmNum s.cur.rid s.cur.core (table + 16 * n.toNat) 16
    let keeps (t : State) (pc : Word) (live : Nat → Bool) : Prop :=
      (∀ r : BitVec 5, r ≠ 0#5 → t.rx r = if live (r.toNat - 1) then s.rx r else 0#64)
        ∧ (∀ r : BitVec 5, t.rf r = if live (31 + r.toNat) then s.rf r else 0#32)
        ∧ (∀ r j : Nat, r < 32 → j < 64 → t.rv r j = if live (63 + r) then s.rv r j else 0#32)
        ∧ (∀ r : Nat, 0 < r → r < 8 → t.rp r = if live (95 + r) then s.rp r else 0#64)
        ∧ (∀ k, t.slotSt k = if k = s.sk then { s.me with pc := pc, safecnt := 0, wait := .none, late := [] } else s.slotSt k)
        ∧ CoreCounts s t ∧ t.mem = s.mem ∧ t.cur = s.cur
    (Quiet s → Calm s → n.toNat < nlm →
      (∃ t, exec (.safe n) s = .next t ∧ keeps t (s.pc + 4#64) mask.testBit)
        ∧ ∃ t, exec (.cSafe n) s = .next t ∧ keeps t (s.pc + 2#64) mask.testBit)
    ∧ (Quiet s → Calm s → ∃ t, exec .yield s = .next t ∧ keeps t (s.pc + 4#64) fun _ => true)
    ∧ (Quiet s → SingleFault s → nlm ≤ n.toNat →
      (∃ t, exec (.safe n) s = .next t ∧ TrapTaken s t 4 0x02 0x14 n.toNat 0)
        ∧ ∃ t, exec (.cSafe n) s = .next t ∧ TrapTaken s t 2 0x02 0x14 n.toNat 0)

/-- R242, R164, R165, R171: `done` ends the task: the slot, the frame and the claim are free, the registers are lost, the group
that waits for the task counts it, and no byte of memory changes when nothing of the task's is on its way. -/
def Obligations.DoneEndsTheTask : Prop :=
  ∀ (s : State), Quiet s →
    ∃ t, exec .done s = .next t ∧ TaskGone s t ∧ CoreCounts s t ∧ t.mem = s.mem ∧ t.net = s.net
      ∧ ∀ k, t.groups.get {} k =
        if s.me.grp.any (fun g => k = s.cur.rid * 2 ^ 32 + g) then
          { s.groups.get {} k with left := (s.groups.get {} k).left - 1 } else s.groups.get {} k

/-- R243, R368: `svc n` sends a class-1 direct message with ORD 1 to system handler 0xF1 of the trap handler core, with A0 = n, A1
= the core id and SLOT, A2 = its own offset and A3 = x10, and the task goes on. `trap n` raises the user trap with code n at its
own offset (R365).

R367, R412: a trap of a task of handler 0xEF or 0xEE on the trap handler core of an ACTIVE realm is a double fault: no record
is sent, the realm is HALTING, and RSTATE[15:8] will read 0xEF. -/
def Obligations.ServiceCallsAndUserTraps : Prop :=
  (∀ (s : State) (n : BitVec 8), Quiet s →
    ((s.coreSt s.ck).outq = [] →
      ∃ t, exec (.svc n) s = .next t ∧ SlotMoves s t (s.pc + 4#64) (s.me.safecnt + 1) 0#5 ∧ t.mem = s.mem ∧ t.xregs = s.xregs
        ∧ t.net = s.net ++ [
            { rid := s.cur.rid, sdev := s.fabid, score := s.cur.core, ddev := 0xFFF,
              h0 := BitVec.ofNat 64 (1 * 2 ^ 49 + 2 ^ 48 + 0xF1 * 2 ^ 32 + 0xFFF * 2 ^ 20 + s.myRealm.trapc),
              h1 := BitVec.ofNat 64 (2 ^ 57 + s.cur.rid * 2 ^ 50 + s.fabid * 2 ^ 38 + s.cur.core * 2 ^ 18),
              a0 := n.zeroExtend 64,
              a1 := BitVec.ofNat 64 (s.cur.core + (s.cur.slot + 256 * s.me.frame) * 2 ^ 20),
              a2 := s.pc, a3 := s.rx 10#5, out := some (s.coreSt s.ck).outNext } ])
    ∧ (SingleFault s → ∃ t, exec (.trap n) s = .next t ∧ TrapTaken s t 4 0x06 n.toNat 0 0))
  ∧ ∀ (s : State) (n : BitVec 8), Quiet s → s.myRealm.state = 1 → s.cur.core = s.myRealm.trapc → s.me.hix = 0xEF ∨ s.me.hix = 0xEE →
    ∃ t, exec (.trap n) s = .next t ∧ TaskGone s t ∧ t.net = s.net ∧ t.mem = s.mem
      ∧ (t.realm s.cur.rid).state = 2 ∧ (t.realm s.cur.rid).err = 0xEF ∧ (t.realm s.cur.rid).reason = 0xEF

/-- R189, R229, R230, R365: a jump or a taken branch to 0x3_0000 or above traps with PCFAULT, DETAIL 1 for a jump and 2 for a branch, the
target in ADDR; no link is written. -/
def Obligations.BadTargetsTrap : Prop :=
  ∀ (s : State) (d a b : BitVec 5) (i : BitVec 20) (k : BitVec 15) (o : BitVec 10) (p : BitVec 5) (u : BitVec 11) (j : BitVec 6),
    Quiet s → SingleFault s →
    let near := s.pc + 2#64 * (o ++ p : BitVec 15).signExtend 64
    let nearer := s.pc + 2#64 * j.signExtend 64
    ∀ q ∈ [ (Instr.jal d i, s.pc + 2#64 * i.signExtend 64, 4, 1, true),
            (.jalr d a k, (s.rx a + k.signExtend 64) &&& ~~~1#64, 4, 1, true),
            (.cJ u, s.pc + 2#64 * u.signExtend 64, 2, 1, true), (.cJr a, s.rx a &&& ~~~1#64, 2, 1, true),
            (.beq a b o p, near, 4, 2, decide (s.rx a = s.rx b)), (.bne a b o p, near, 4, 2, decide (s.rx a ≠ s.rx b)),
            (.blt a b o p, near, 4, 2, decide ((s.rx a).toInt < (s.rx b).toInt)),
            (.bge a b o p, near, 4, 2, decide ((s.rx a).toInt ≥ (s.rx b).toInt)),
            (.bltz a b o p, near, 4, 2, decide ((s.rx a).toNat < (s.rx b).toNat)),
            (.bgez a b o p, near, 4, 2, decide ((s.rx a).toNat ≥ (s.rx b).toNat)),
            (.cBeqz a j, nearer, 2, 2, decide (s.rx a = 0#64)), (.cBnez a j, nearer, 2, 2, decide (s.rx a ≠ 0#64)) ],
      q.2.2.2.2 = true → 0x30000 ≤ q.2.1.toNat → ∃ t, exec q.1 s = .next t ∧ TrapTaken s t q.2.2.1 0x05 q.2.2.2.1 q.2.1.toNat 0

/-! ### Loads, stores, atomics, fences (R187, R189, R246 to R256) -/

/-- R187, R246, R189, R53: a load from the issuing core's own LM, or that of a core of its cluster, writes the addressed little-endian
bytes to x[d], extended as its size code says, or to f[d] unchanged, and changes nothing else. The address is x[a] plus the sign-extended
displacement; the compact forms scale an unsigned one. From another core's LM it posts a request that holds an outbound entry, and the
slot waits for the value, which completes it (R247); bytes that the core's own posted stores all hold come from those, and where they
hold some, those ride with the request (R82).

R70, R71, R82: from device memory of this device each byte comes from the core's combining buffer where that holds it, else from the
home or from the cluster cache, which may take the line; where the buffer holds them all, nothing else changes; and a byte that a request
of the core's own brings to the home is seen.

R187, R246, R189, R53, R71: a store to LM of the cluster writes the low bytes of its source register there, in little-endian order, every
other byte of memory keeps its value, and no register changes. To another core's LM it is posted, with an outbound entry that holds its
bytes, and waits where no entry is free (R247); to device memory it enters the combining buffer: merged into the entry of its line,
which leaves for its home when it is full, or as the newest entry, before which the oldest of eight leaves. -/
def Obligations.LoadsAndStores : Prop :=
  (∀ (s : State) (d a : BitVec 5) (i : BitVec 12) (d3 a3 : BitVec 3) (u5 : BitVec 5) (u6 : BitVec 6) (l : Loc) (core off : Nat),
    let ext (signed : Bool) (n v : Nat) : Word :=
      if signed then BitVec.ofInt 64 (if 2 ^ (8 * n - 1) ≤ v then (v : Int) - 2 ^ (8 * n) else v) else BitVec.ofNat 64 v
    let inX (r : BitVec 5) (signed : Bool) (n : Nat) (t : State) (v : Nat) : Prop := XIs s t r (ext signed n v) ∧ t.fregs = s.fregs
    let loads (P : Instr → Word → Nat → Word → (State → Nat → Prop) → Prop) : Prop :=
      (∀ q ∈ [(0#3, 1, false), (1#3, 2, false), (2#3, 4, false), (3#3, 8, false), (4#3, 1, true), (5#3, 2, true), (6#3, 4, true)],
        P (.ld d a i q.1) (s.rx a + i.signExtend 64) q.2.1 4#64 (inX d q.2.2 q.2.1))
      ∧ P (.fldW d a i) (s.rx a + i.signExtend 64) 4 4#64 (fun t v => FIs s t d (BitVec.ofNat 32 v) ∧ t.xregs = s.xregs)
      ∧ P (.cLdd d u6) (s.rx 2#5 + BitVec.ofNat 64 (8 * u6.toNat)) 8 2#64 (inX d false 8)
      ∧ P (.cLdw d3 a3 u5) (s.rx (1#2 ++ a3) + BitVec.ofNat 64 (4 * u5.toNat)) 4 2#64 (inX (1#2 ++ d3) true 4)
    let goesOn (t : State) (len : Word) : Prop := SlotMoves s t (s.pc + len) (s.me.safecnt + 1) 0#5 ∧ CoreCounts s t
    let only (t : State) : Prop := t = { s with xregs := t.xregs, fregs := t.fregs, slots := t.slots, cores := t.cores }
    let there := lmAddr s.cur.rid core off
    loads (fun ins va n len got => LmOf s va core n off → sameCluster s.cur.core core = true → UnpoisonedAt s there n →
      ∃ t, exec ins s = .next t ∧ got t (numberAt s there n) ∧ goesOn t len ∧ only t)
    ∧ loads (fun ins va n len got => LmOf s va core n off → sameCluster s.cur.core core = false →
      ((∀ k, k < n → (postedByte s core (off + k)).isSome = true) →
        ∃ t v, exec ins s = .next t ∧ got t v ∧ v < 256 ^ n
          ∧ (∀ k, k < n → postedByte s core (off + k) = some (BitVec.ofNat 8 (v / 256 ^ k))) ∧ goesOn t len ∧ only t)
      ∧ ((∃ k, k < n ∧ postedByte s core (off + k) = none) → (s.coreSt s.ck).outq.length < 16 →
          ((s.coreSt s.ck).outq.map (·.size)).sum ≤ 16384 →
        let id := (s.coreSt s.ck).outNext
        ∃ (t : State) (r : RemReq), exec ins s = .next t ∧ t.rnet = s.rnet ++ [r]
          ∧ r = { rid := s.cur.rid, src := s.cur.core, frame := s.me.frame, id := id, core := core, off := off, size := n, op := .load,
                  fwd := r.fwd }
          ∧ (∀ k, k < n → (r.fwd.find? fun p => p.1 == k).map (·.2) = postedByte s core (off + k))
          ∧ (∀ k, t.slotSt k = if k = s.sk then { s.me with wait := .load id, since := s.clock } else s.slotSt k)
          ∧ (∀ k, t.coreSt k = if k = s.ck then
              { s.coreSt s.ck with
                outq := (s.coreSt s.ck).outq ++ [{ id := id, frame := s.me.frame }], outNext := id + 1 } else s.coreSt k)
          ∧ t = { s with slots := t.slots, cores := t.cores, rnet := t.rnet }))
    ∧ loads (fun ins _ n len got => ∀ id v, s.me.wait = .loaded id v → v < 256 ^ n →
      ∃ t, exec ins s = .next t ∧ got t v ∧ goesOn t len ∧ only t)
    ∧ loads (fun ins va n len got => DevMem s va n false l → s.myFrame.vops = [] → NotQueued s l → l.inLine + n ≤ 64 →
      (Clean s l n → ∃ t v, exec ins s = .next t ∧ got t v ∧ WeakRead s l 0 n v ∧ goesOn t len ∧ CacheFilled s t l
        ∧ t = { s with xregs := t.xregs, fregs := t.fregs, slots := t.slots, cores := t.cores, clusters := t.clusters, dies := t.dies })
      ∧ ((∀ k, k < n → (ownByte s l k).isSome = true) →
        ∃ t v, exec ins s = .next t ∧ got t v ∧ WeakRead s l 0 n v ∧ goesOn t len ∧ only t))
    ∧ loads (fun ins va n len got => ∀ r : AgentReq, DevMem s va n false l → s.myFrame.vops = [] → Clean s l n → l.inLine + n ≤ 64 →
      (∀ c ∈ (s.clusterSt s.clk).cache, c.data.length = 64) →
      s.agentQ = [r] → r.rid = s.cur.rid → r.core = s.cur.core → r.loc = l.line → r.marks = [] →
      (∀ p ∈ r.bytes, p.1 < 64 ∧ ∀ q ∈ r.bytes, p.1 = q.1 → p = q) →
      ∃ t v, exec ins s = .next t ∧ got t v ∧ t.agentQ = [] ∧ goesOn t len
        ∧ ∀ k, k < n → ownByte s l k = none → ∀ p ∈ r.bytes, p.1 = l.inLine + k → p.2 = BitVec.ofNat 8 (v / 256 ^ k)))
  ∧ ∀ (s : State) (a b : BitVec 5) (h : BitVec 7) (j : BitVec 5) (i : BitVec 12) (a3 b3 : BitVec 3) (u5 : BitVec 5)
      (u6 : BitVec 6) (l : Loc) (core off : Nat),
    let stores (P : Instr → Word → Nat → Nat → Word → Prop) : Prop :=
      (∀ q ∈ [(0#3, 1), (1#3, 2), (2#3, 4), (3#3, 8)],
        P (.st a b h q.1 j) (s.rx a + (h ++ j : BitVec 12).signExtend 64) q.2 (s.rx b).toNat 4#64)
      ∧ P (.fstW b a i) (s.rx a + i.signExtend 64) 4 (s.rf b).toNat 4#64
      ∧ P (.cStd b u6) (s.rx 2#5 + BitVec.ofNat 64 (8 * u6.toNat)) 8 (s.rx b).toNat 2#64
      ∧ P (.cStw a3 b3 u5) (s.rx (1#2 ++ a3) + BitVec.ofNat 64 (4 * u5.toNat)) 4 (s.rx (1#2 ++ b3)).toNat 2#64
    let bytes (n v : Nat) : List Byte := (List.range n).map fun k => BitVec.ofNat 8 (v / 256 ^ k)
    stores (fun ins va n v len => LmOf s va core n off → sameCluster s.cur.core core = true →
      ∃ t, exec ins s = .next t ∧ StoreAt s t (lmAddr s.cur.rid core off) n v (s.pc + len))
    ∧ stores (fun ins va n v len => LmOf s va core n off → sameCluster s.cur.core core = false →
      let full := 16 ≤ (s.coreSt s.ck).outq.length ∨ 16384 < ((s.coreSt s.ck).outq.map (·.size)).sum
      let id := (s.coreSt s.ck).outNext
      (full → ∃ t, exec ins s = .next t ∧ Waits s t .stall)
      ∧ (¬ full → ∃ t, exec ins s = .next t ∧ SlotMoves s t (s.pc + len) (s.me.safecnt + 1) 0#5
        ∧ t.rnet = s.rnet ++ [{ rid := s.cur.rid, src := s.cur.core, frame := s.me.frame, id := id, core := core, off := off, size := n,
                                op := .store (bytes n v) }]
        ∧ (∀ k, t.coreSt k = if k = s.ck then
            { s.coreSt s.ck with
              instret := (s.coreSt s.ck).instret + 1, outNext := id + 1,
              outq := (s.coreSt s.ck).outq ++
                [{ id := id, frame := s.me.frame, store := true, addr := core * 2 ^ 18 + off, bytes := bytes n v }] } else s.coreSt k)
        ∧ t = { s with slots := t.slots, cores := t.cores, rnet := t.rnet }))
    ∧ stores (fun ins va n v len => DevMem s va n true l → s.myFrame.vops = [] →
      let buf := (s.coreSt s.ck).cbuf
      let new : List (Nat × Byte) := (List.range n).map fun k => (l.inLine + k, BitVec.ofNat 8 (v / 256 ^ k))
      let entry : CbEnt := { loc := l.line, va := va.toNat / 64 * 64, bytes := new, born := s.clock }
      let request (e : CbEnt) : AgentReq :=
        { rid := s.cur.rid, core := s.cur.core, loc := e.loc, va := e.va, bytes := e.bytes, marks := e.marks }
      let left (t : State) (buf' : List CbEnt) (out : List AgentReq) : Prop :=
        SlotMoves s t (s.pc + len) (s.me.safecnt + 1) 0#5 ∧ t.agentQ = s.agentQ ++ out
          ∧ (∀ k, t.coreSt k = if k = s.ck then
              { s.coreSt s.ck with instret := (s.coreSt s.ck).instret + 1, cbuf := buf' } else s.coreSt k)
          ∧ t = { s with slots := t.slots, cores := t.cores, agentQ := t.agentQ }
      ((∀ e ∈ buf, e.loc.same l.line = false) →
        (buf.length < 8 → ∃ t, exec ins s = .next t ∧ left t (buf ++ [entry]) [])
        ∧ ∀ e rest, buf = e :: rest → 8 ≤ buf.length → (∃ p t o m c, e.loc = .dev p t o m c) →
            ∃ t, exec ins s = .next t ∧ left t (rest ++ [entry]) [request e])
      ∧ ∀ before e after_, buf = before ++ e :: after_ → e.loc = l.line → (∀ x ∈ before ++ after_, x.loc.same l.line = false) →
        let merged : CbEnt :=
          { e with
            bytes := (e.bytes.filter fun p => !(decide (l.inLine ≤ p.1 ∧ p.1 < l.inLine + n))) ++ new
            marks := e.marks.filter fun w => !(decide (l.inLine ≤ 8 * w ∧ 8 * w + 8 ≤ l.inLine + n)) }
        (merged.bytes.length < 64 → ∃ t, exec ins s = .next t ∧ left t (before ++ merged :: after_) [])
        ∧ (64 ≤ merged.bytes.length → ∃ t, exec ins s = .next t ∧ left t (before ++ after_) [request merged]))

/-- R249, R254, R255, R253: a relaxed strong load and a TREAD of a scope narrower than the die read the issuing core's own LM as a
load does; a relaxed strong store of a task to which no fence has lent a release writes it as a store does; a fence of a task with
nothing on its way only goes on, but for the cluster cache, which an acquire part of scope .die or wider empties (R70), and for the
release part that it lends to the task's later strong writes (R77; that the lending ends with the task alone is the model's choice,
log 114).

R76, R77, R249, R255: with every order and scope, and in device memory as in the own LM: a strong load reads at the owner and its
acquire part of scope .die or wider empties the cluster cache; a strong store writes at the owner, here of a task with nothing on its
way, so that its release part has nothing to wait for. TREAD does as the load does. That the cluster's cached line of a strong store goes
with it is the model's choice (log 110), and so is that an acquire takes the acknowledgements of the core's posted stores which their
owners have sent (log 132): after an acquire fence no such store answers a load of the core any more. -/
def Obligations.StrongAccessesAndFences : Prop :=
  (∀ (s : State) (d a b : BitVec 5) (off : Nat),
    (∀ q ∈ [(0#3, 1, false), (1#3, 2, false), (2#3, 4, false), (3#3, 8, false), (4#3, 1, true), (5#3, 2, true), (6#3, 4, true)],
      OwnLm s (s.rx a) q.2.1 off → Unpoisoned s off q.2.1 →
        let v := lmNumber s off q.2.1
        ∃ t, exec (.lds d a q.1 0#5) s = .next t
          ∧ WroteX s t d (if q.2.2 then BitVec.ofInt 64 (if 2 ^ (8 * q.2.1 - 1) ≤ v then (v : Int) - 2 ^ (8 * q.2.1) else v)
              else BitVec.ofNat 64 v) (s.pc + 4#64) 0#5)
    ∧ (∀ q ∈ [(0#2, 1), (1#2, 2), (2#2, 4), (3#2, 8)],
      OwnLm s (s.rx a) q.2 off → s.me.lent = 0 →
        ∃ t, exec (.sts a b q.1 0#5) s = .next t ∧ StoredLm s t off q.2 (s.rx b).toNat (s.pc + 4#64))
    ∧ (∀ sc : BitVec 3, sc.toNat < 3 → NoAck s s.cur.rid s.cur.core → OwnLm s (s.rx a) 8 off → Unpoisoned s off 8 →
        ∃ t, exec (.tread d a sc) s = .next t ∧ WroteX s t d (BitVec.ofNat 64 (lmNumber s off 8)) (s.pc + 4#64) 0#5)
    ∧ ∀ o : BitVec 5, Quiet s → (o.getLsbD 3 = true → NoAck s s.cur.rid s.cur.core) → o.extractLsb' 3 2 ≠ 0#2 → o.extractLsb' 0 3 ≠ 7#3 →
        ∃ t, exec (.fence o) s = .next t ∧ CoreCounts s t
          ∧ (∀ k, t.slotSt k = if k = s.sk then
              { s.me with
                pc := s.pc + 4#64, safecnt := s.me.safecnt + 1, wait := .none,
                lent := if o.getLsbD 4 then max s.me.lent ((o.extractLsb' 0 3).toNat + 1) else s.me.lent } else s.slotSt k)
          ∧ t.xregs = s.xregs ∧ t.mem = s.mem ∧ (∀ k, t.frameSt k = s.frameSt k) ∧ Acquired s t o)
  ∧ (∀ (s : State) (sc : BitVec 3), s.myFrame.vops = [] →
    ∃ t, exec (.fence (1#2 ++ sc)) s = .next t ∧ SlotMoves s t (s.pc + 4#64) (s.me.safecnt + 1) 0#5 ∧ t.xregs = s.xregs ∧ t.mem = s.mem
      ∧ Acquired s t (1#2 ++ sc)
      ∧ ∀ e ∈ (t.coreSt s.ck).outq, e ∈ (s.coreSt s.ck).outq ∧ (e.store = true →
          ∀ r ∈ s.replies, r.rid = s.cur.rid → r.core = s.cur.core → r.elem = none → r.id ≠ e.id))
  ∧ ∀ (s : State) (d a b : BitVec 5) (o : BitVec 5) (sc : BitVec 3) (off : Nat) (l : Loc),
    let read (i : Instr) (v : Word) (ord : BitVec 5) : Prop :=
      (ord.getLsbD 3 = true → NoAck s s.cur.rid s.cur.core) → ∃ t, exec i s = .next t ∧ XIs s t d v ∧ SlotMoves s t (s.pc + 4#64) (s.me.safecnt + 1) 0#5 ∧ CoreCounts s t ∧ Acquired s t ord
        ∧ t = { s with xregs := t.xregs, slots := t.slots, cores := t.cores, clusters := t.clusters, dies := t.dies }
    let ext (signed : Bool) (n v : Nat) : Word :=
      if signed then BitVec.ofInt 64 (if 2 ^ (8 * n - 1) ≤ v then (v : Int) - 2 ^ (8 * n) else v) else BitVec.ofNat 64 v
    (∀ q ∈ [(0#3, 1, false), (1#3, 2, false), (2#3, 4, false), (3#3, 8, false), (4#3, 1, true), (5#3, 2, true), (6#3, 4, true)],
      (OwnLm s (s.rx a) q.2.1 off → Unpoisoned s off q.2.1 →
        read (.lds d a q.1 o) (ext q.2.2 q.2.1 (lmNumber s off q.2.1)) o)
      ∧ (Quiet s → DevMem s (s.rx a) q.2.1 false l → Clean s l q.2.1 →
        read (.lds d a q.1 o) (ext q.2.2 q.2.1 (devNumber s l 0 q.2.1)) o))
    ∧ (OwnLm s (s.rx a) 8 off → Unpoisoned s off 8 → read (.tread d a sc) (BitVec.ofNat 64 (lmNumber s off 8)) (1#2 ++ sc))
    ∧ (Quiet s → DevMem s (s.rx a) 8 false l → Clean s l 8 → read (.tread d a sc) (BitVec.ofNat 64 (devNumber s l 0 8)) (1#2 ++ sc))
    ∧ ∀ q ∈ [(0#2, 1), (1#2, 2), (2#2, 4), (3#2, 8)], Quiet s →
      (OwnLm s (s.rx a) q.2 off →
        ∃ t, exec (.sts a b q.1 o) s = .next t ∧ LmStored s t off q.2 (s.rx b).toNat ∧ StoreDone s t)
      ∧ (DevMem s (s.rx a) q.2 true l →
        ∃ t, exec (.sts a b q.1 o) s = .next t ∧ DevStored s t l q.2 (s.rx b).toNat ∧ StoreDone s t
          ∧ ∀ c ∈ (t.clusterSt s.clk).cache, c.addr ≠ locAddr s.cur.rid l / 64 * 64)

/-- R250 to R252, R254: a relaxed atomic on the issuing core's own LM, of a task to which no fence has lent a release, writes the old
value to x[d], extended as its row says, and the row's new value to memory, as one step; AMOCAS stores x[c] only where the
doubleword equals x[b]; TADD adds and returns nothing. Every other byte and register keeps its value.

R76, R77, R251, R252, R255: the same with every order and scope, and in device memory, for a task with nothing on its way: an acquire
part of scope .die or wider empties the cluster cache afterwards (R70). That the cluster's cached line goes with the access is the
model's choice (log 110). -/
def Obligations.AtomicsOnOwnLm : Prop :=
  (∀ (s : State) (d a b c : BitVec 5) (z : BitVec 1) (off : Nat), s.me.lent = 0 →
    let n := if z = 1#1 then 8 else 4
    let w := 8 * n
    let old := lmNumber s off n
    let v := (s.rx b).toNat % 2 ^ w
    let num (u : Nat) : Int := if 2 ^ (w - 1) ≤ u then (u : Int) - 2 ^ w else u
    let up (signed : Bool) : Word := if signed then BitVec.ofInt 64 (num old) else BitVec.ofNat 64 old
    let old4 := lmNumber s off 4
    let old8 := lmNumber s off 8
    let done (t : State) (val : Word) (m new : Nat) : Prop :=
      XIs s t d val ∧ LmStored s t off m new ∧ SlotMoves s t (s.pc + 4#64) (s.me.safecnt + 1) 0#5 ∧ CoreCounts s t
        ∧ t = { s with xregs := t.xregs, mem := t.mem, poison := t.poison, vblocks := t.vblocks, reports := t.reports,
                       slots := t.slots, cores := t.cores }
    (OwnLm s (s.rx a) n off → Unpoisoned s off n →
      ∀ q ∈ [ (Instr.amoSwap d a b z 0#5, true, v),
              (.amoAdd d a b z 0#5, true, (old + v) % 2 ^ w),
              (.amoAnd d a b z 0#5, true, old &&& v),
              (.amoOr d a b z 0#5, true, old ||| v),
              (.amoXor d a b z 0#5, true, old ^^^ v),
              (.amoMin d a b z 0#5, true, if num old ≤ num v then old else v),
              (.amoMax d a b z 0#5, true, if num v ≤ num old then old else v),
              (.amoMinz d a b z 0#5, false, min old v),
              (.amoMaxz d a b z 0#5, false, max old v) ],
        ∃ t, exec q.1 s = .next t ∧ done t (up q.2.1) n q.2.2)
    ∧ (OwnLm s (s.rx a) 4 off → Unpoisoned s off 4 →
      ∀ q ∈ [ (Instr.amoFadd d a b 0#5, (fAdd .f32 .rne old4 ((s.rx b).toNat % 2 ^ 32)).1),
              (.amoFmin d a b 0#5, (fMinMax .f32 false old4 ((s.rx b).toNat % 2 ^ 32)).1),
              (.amoFmax d a b 0#5, (fMinMax .f32 true old4 ((s.rx b).toNat % 2 ^ 32)).1) ],
        ∃ t, exec q.1 s = .next t ∧ done t (BitVec.ofNat 64 old4) 4 q.2)
    ∧ (OwnLm s (s.rx a) 8 off → Unpoisoned s off 8 →
      (∃ t, exec (.amocas d a b c 0#5) s = .next t
        ∧ done t (BitVec.ofNat 64 old8) 8 (if old8 = (s.rx b).toNat then (s.rx c).toNat else old8))
      ∧ (Quiet s → ∃ t, exec (.tadd a b 0#3) s = .next t
        ∧ LmStored s t off 8 ((old8 + (s.rx b).toNat) % 2 ^ 64) ∧ SlotMoves s t (s.pc + 4#64) (s.me.safecnt + 1) 0#5
        ∧ t.xregs = s.xregs)))
  ∧ ∀ (s : State) (d a b c o : BitVec 5) (sc : BitVec 3) (z : BitVec 1) (off : Nat) (l : Loc) (far : Bool), Quiet s →
    (o.getLsbD 3 = true → NoAck s s.cur.rid s.cur.core) →
    let place (m : Nat) : Prop :=
      if far then DevBoth s (s.rx a) m l ∧ Clean s l m else OwnLm s (s.rx a) m off ∧ Unpoisoned s off m
    let held (m : Nat) : Nat := if far then devNumber s l 0 m else lmNumber s off m
    let n := if z = 1#1 then 8 else 4
    let w := 8 * n
    let old := held n
    let v := (s.rx b).toNat % 2 ^ w
    let num (u : Nat) : Int := if 2 ^ (w - 1) ≤ u then (u : Int) - 2 ^ w else u
    let up (signed : Bool) : Word := if signed then BitVec.ofInt 64 (num old) else BitVec.ofNat 64 old
    let line := locAddr s.cur.rid l / 64 * 64
    let stored (t : State) (m new : Nat) (clears : Bool) : Prop :=
      (if far then DevStored s t l m new else LmStored s t off m new)
        ∧ SlotMoves s t (s.pc + 4#64) (s.me.safecnt + 1) 0#5 ∧ CoreCounts s t ∧ (∀ k, t.frameSt k = s.frameSt k)
        ∧ (∀ k, t.clusterSt k = if k = s.clk then
            { s.clusterSt s.clk with
              cache := if clears then [] else if far then (s.clusterSt s.clk).cache.filter (·.addr != line)
                else (s.clusterSt s.clk).cache } else s.clusterSt k)
        ∧ t = { s with xregs := t.xregs, mem := t.mem, poison := t.poison, vblocks := t.vblocks, reports := t.reports,
                       slots := t.slots, cores := t.cores, frames := t.frames, clusters := t.clusters, dies := t.dies,
                       meeting := t.meeting }
    let clears := o.getLsbD 3 && decide (3 ≤ (o.extractLsb' 0 3).toNat)
    (place n →
      ∀ q ∈ [ (Instr.amoSwap d a b z o, true, v),
              (.amoAdd d a b z o, true, (old + v) % 2 ^ w),
              (.amoAnd d a b z o, true, old &&& v),
              (.amoOr d a b z o, true, old ||| v),
              (.amoXor d a b z o, true, old ^^^ v),
              (.amoMin d a b z o, true, if num old ≤ num v then old else v),
              (.amoMax d a b z o, true, if num v ≤ num old then old else v),
              (.amoMinz d a b z o, false, min old v),
              (.amoMaxz d a b z o, false, max old v) ],
        ∃ t, exec q.1 s = .next t ∧ XIs s t d (up q.2.1) ∧ stored t n q.2.2 clears)
    ∧ (place 4 →
      ∀ q ∈ [ (Instr.amoFadd d a b o, (fAdd .f32 .rne (held 4) ((s.rx b).toNat % 2 ^ 32)).1),
              (.amoFmin d a b o, (fMinMax .f32 false (held 4) ((s.rx b).toNat % 2 ^ 32)).1),
              (.amoFmax d a b o, (fMinMax .f32 true (held 4) ((s.rx b).toNat % 2 ^ 32)).1) ],
        ∃ t, exec q.1 s = .next t ∧ XIs s t d (BitVec.ofNat 64 (held 4)) ∧ stored t 4 q.2 clears)
    ∧ (place 8 →
      (∃ t, exec (.amocas d a b c o) s = .next t ∧ XIs s t d (BitVec.ofNat 64 (held 8))
        ∧ stored t 8 (if held 8 = (s.rx b).toNat then (s.rx c).toNat else held 8) clears)
      ∧ ∃ t, exec (.tadd a b sc) s = .next t ∧ t.xregs = s.xregs ∧ stored t 8 ((held 8 + (s.rx b).toNat) % 2 ^ 64) false)

/-- R254 to R256: WAITGE of a counter in the issuing core's own LM completes as a safe point when the value is not below x[b],
unsigned; while it is below, the slot waits for a write to the line and keeps its place. In device memory of this device it completes
in the same way, and at the scope `.die` or wider the acquire empties the cluster cache (R70, R76). -/
def Obligations.WaitForACounter : Prop :=
  (∀ (s : State) (a b : BitVec 5) (sc : BitVec 3) (off : Nat), Quiet s → Calm s → OwnLm s (s.rx a) 8 off →
    Unpoisoned s off 8 →
    ((s.rx b).toNat ≤ lmNumber s off 8 →
      ∃ t, exec (.waitge a b sc) s = .next t ∧ SlotMoves s t (s.pc + 4#64) 0 0#5 ∧ t.xregs = s.xregs ∧ t.mem = s.mem)
    ∧ (lmNumber s off 8 < (s.rx b).toNat →
      ∃ t, exec (.waitge a b sc) s = .next t ∧ t.me.pc = s.pc ∧ t.me.busy = s.me.busy
        ∧ t.me.wait = .watch (.lm s.cur.core off) (s.rx a).toNat (s.rx b).toNat false
        ∧ { rid := s.cur.rid, core := s.cur.core, frame := s.me.frame, line := ownLm s off / 64 } ∈ t.watches
        ∧ t.xregs = s.xregs ∧ t.mem = s.mem))
  ∧ ∀ (s : State) (a b : BitVec 5) (sc : BitVec 3) (l : Loc), Quiet s → Calm s → DevMem s (s.rx a) 8 false l → Clean s l 8 →
    (s.rx b).toNat ≤ devNumber s l 0 8 →
      ∃ t, exec (.waitge a b sc) s = .next t ∧ SlotMoves s t (s.pc + 4#64) 0 0#5 ∧ t.xregs = s.xregs ∧ t.mem = s.mem
        ∧ (3 ≤ sc.toNat → (t.clusterSt s.clk).cache = [])

/-- R361, R51 to R53, R69, R365, R378: the address checks of a load, a store or an atomic come in the order alignment, canonical form, LM
hole, core id, then translation and permission; each traps with its code, the size in DETAIL of MISALIGN, the major in DETAIL of NOCORE,
and the address in ADDR. Where the cluster's TLB holds no leaf, a page walk is asked for, or an outstanding one of the page joined, and the
slot waits (R72); the fault of the walk, XLINV or XLKEY, is the instruction's, with its DETAIL and INFO. A leaf without the permission
traps with XLPERM, DETAIL 1 for a write, and for what reads and writes the read comes first. -/
def Obligations.AddressChecksTrap : Prop :=
  (∀ (s : State) (d a b : BitVec 5) (z : BitVec 1), Quiet s → SingleFault s →
    let va := (s.rx a).toNat
    let hole := va / 2 ^ 48 = 0xFE ∧ (va / 2 ^ 38 % 2 ^ 10 ≠ 0 ∨ 0x30000 ≤ va % 2 ^ 18)
    let core := va / 2 ^ 18 % 2 ^ 20
    let n := if z = 1#1 then 8 else 4
    let walker := dieKey s.cur.rid (coreDie s.cur.core)
    ∀ q ∈ [ (Instr.ld d a 0#12 3#3, 8, 0x18, true, false), (.fldW d a 0#12, 4, 0x1A, true, false),
            (.st a b 0#7 3#3 0#5, 8, 0x19, false, true), (.fstW d a 0#12, 4, 0x1A, false, true),
            (.lds d a 3#3 0#5, 8, 0x1B, true, false), (.sts a b 3#2 0#5, 8, 0x1B, false, true),
            (.amoAdd d a b z 0#5, n, 0x1C, true, true), (.amocas d a b b 0#5, 8, 0x1D, true, true),
            (.tread d a 0#3, 8, 0x1F, true, false), (.tadd a b 0#3, 8, 0x1F, true, true) ],
      let reads := q.2.2.2.1
      let writes := q.2.2.2.2
      (s.me.wait = .none →
        (va % q.2.1 ≠ 0 → ∃ t, exec q.1 s = .next t ∧ TrapTaken s t 4 0x10 q.2.1 va 0)
        ∧ (va % q.2.1 = 0 →
          (2 ^ 56 ≤ va → ∃ t, exec q.1 s = .next t ∧ TrapTaken s t 4 0x11 0 va 0)
          ∧ (hole → ∃ t, exec q.1 s = .next t ∧ TrapTaken s t 4 0x12 0 va 0)
          ∧ (va / 2 ^ 48 = 0xFE → ¬ hole → s.coreExists s.cur.rid core = false →
              ∃ t, exec q.1 s = .next t ∧ TrapTaken s t 4 0x13 q.2.2.1 va 0)
          ∧ (va < 2 ^ 56 → va / 2 ^ 48 ≠ 0xFE →
              (s.tlbFind s.clk va = none →
                ∃ t, exec q.1 s = .next t ∧ t.me.pc = s.pc ∧ t.me.wait = .walk (va / 4096)
                  ∧ (∃ w ∈ (t.dieSt walker).walks ++ (t.dieSt walker).walkQ, w.page = va / 4096 ∧ clusterIx s.cur.core ∈ w.clusters)
                  ∧ SameData s t ∧ t.net = s.net)
              ∧ ∀ e : TlbEnt, s.tlbFind s.clk va = some e →
                (reads = true → e.leaf.getLsbD 2 = false → ∃ t, exec q.1 s = .next t ∧ TrapTaken s t 4 0x15 0 va 0)
                ∧ (writes = true → (reads = true → e.leaf.getLsbD 2 = true) → e.leaf.getLsbD 3 = false →
                    ∃ t, exec q.1 s = .next t ∧ TrapTaken s t 4 0x15 1 va 0))))
      ∧ ∀ code detail info : Nat, s.me.wait = .walkFault (va / 4096) code detail info → code = 0x14 ∨ code = 0x20 →
          ∃ t, exec q.1 s = .next t ∧ TrapTaken s t 4 code detail va info)
  ∧ ∀ (s : State) (va l : Nat) (table : Word),
    let n := (s.realm s.cur.rid).n
    let e := s.rdPte (s.tableAddr s.cur.rid table + 8 * (va / 2 ^ (12 + 9 * l) % 512))
    let key := (e.extractLsb' 24 8).toNat
    let r := s.realm s.cur.rid
    (e.getLsbD 0 = false → s.walkFrom s.cur.rid va (l + 1) table = .error { code := 0x14, detail := l + 1, addr := va })
    ∧ (pteLeafOk n (l + 1) e = true → e.getLsbD 1 = false → (e.extractLsb' 10 2).toNat ≠ 2 → key < r.kbase ∨ r.kbase + r.kcnt ≤ key →
        s.walkFrom s.cur.rid va (l + 1) table = .error { code := 0x20, detail := l + 1, addr := va, info := key })

/-! ### Vector instructions (13_isa_vector.md) -/

/-- R274, R117: with a claim, a VINT form gives every sub-element of width n of each active element of v[d] the value of its row,
modulo 2^n, and leaves inactive elements and every flag alone; sources are read first. vdot and vdotz work on whole elements,
and vsel writes every element. -/
def Obligations.VectorIntegerResults : Prop :=
  ∀ (s : State) (d a b : BitVec 5) (w : BitVec 2) (p : BitVec 3), HasClaim s → w ≠ 3#2 →
    let n := 32 / 2 ^ w.toNat
    let lo : Int := -2 ^ (n - 1)
    let hi : Int := 2 ^ (n - 1) - 1
    (∀ q ∈ [ (Instr.vadd d a b w p, fun (_ : Nat) (x y : Nat) (_ _ : Int) => (x + y : Int)),
             (.vsub d a b w p, fun _ x y _ _ => x - y),
             (.vmul d a b w p, fun _ x y _ _ => x * y),
             (.vmulh d a b w p, fun _ _ _ sx sy => sx * sy / 2 ^ n),
             (.vmulhz d a b w p, fun _ x y _ _ => x * y / 2 ^ n),
             (.vand d a b w p, fun _ x y _ _ => (x &&& y : Nat)),
             (.vor d a b w p, fun _ x y _ _ => (x ||| y : Nat)),
             (.vxor d a b w p, fun _ x y _ _ => (x ^^^ y : Nat)),
             (.vandn d a b w p, fun _ x y _ _ => (x &&& (2 ^ n - 1 - y) : Nat)),
             (.vsll d a b w p, fun _ x y _ _ => x * 2 ^ (y % n)),
             (.vsrl d a b w p, fun _ x y _ _ => x / 2 ^ (y % n)),
             (.vsra d a b w p, fun _ _ y sx _ => sx / 2 ^ (y % n)),
             (.vmin d a b w p, fun _ _ _ sx sy => min sx sy),
             (.vmax d a b w p, fun _ _ _ sx sy => max sx sy),
             (.vminz d a b w p, fun _ x y _ _ => min x y),
             (.vmaxz d a b w p, fun _ x y _ _ => max x y),
             (.vaddSat d a b w p, fun _ _ _ sx sy => max lo (min hi (sx + sy))),
             (.vaddzSat d a b w p, fun _ x y _ _ => min (2 ^ n - 1) (x + y)),
             (.vsubSat d a b w p, fun _ _ _ sx sy => max lo (min hi (sx - sy))),
             (.vsubzSat d a b w p, fun _ x y _ _ => (x - y : Nat)),
             (.vmac d a b w p, fun z x y _ _ => z + x * y) ],
      ∃ (v : Nat → Word32) (t : State), exec q.1 s = .next t ∧ WroteV s t d (fun j => if Active s p j then some (v j) else none) 0#5
        ∧ ∀ j i, j < s.vlen → i < 32 / n →
          (sub n i (v j) : Int) = q.2 (sub n i (s.rv d.toNat j)) (sub n i (s.rv a.toNat j)) (sub n i (s.rv b.toNat j))
            (subS n i (s.rv a.toNat j)) (subS n i (s.rv b.toNat j)) % 2 ^ n)
    ∧ (w ≠ 0#2 →
      (∃ t, exec (.vdot d a b w p) s = .next t ∧ WroteV s t d (fun j => if Active s p j then
          some (s.rv d.toNat j + BitVec.ofInt 32 ((List.range (32 / n)).map fun i =>
            subS n i (s.rv a.toNat j) * subS n i (s.rv b.toNat j)).sum) else none) 0#5)
      ∧ ∃ t, exec (.vdotz d a b w p) s = .next t ∧ WroteV s t d (fun j => if Active s p j then
          some (s.rv d.toNat j + BitVec.ofNat 32 ((List.range (32 / n)).map fun i =>
            sub n i (s.rv a.toNat j) * sub n i (s.rv b.toNat j)).sum) else none) 0#5)
    ∧ ∃ t, exec (.vsel d a b w p) s = .next t ∧ WroteV s t d (fun j => if j < s.vlen then
        some (if Active s p j then s.rv a.toNat j else s.rv b.toNat j) else none) 0#5

/-- R275: with a claim, a VFP form gives every sub-element of each active element of v[d] the result of its row, each rounded in
the element's own format under FRM, ORs the flags of the active sub-elements into FFLAGS, and changes nothing else. -/
def Obligations.VectorFloatResults : Prop :=
  ∀ (s : State) (d a b : BitVec 5) (ty : BitVec 2) (p : BitVec 3), HasClaim s → ty ≠ 3#2 →
    let f : Fmt := if ty = 0#2 then .f32 else if ty = 1#2 then .bf16 else .f16
    let n := f.width
    let m := Rnd.ofCode s.me.frm.toNat
    ∀ q ∈ [ (Instr.vfadd d a b ty p, fun (_ x y : Nat) => fAdd f m x y),
            (.vfsub d a b ty p, fun _ x y => fSub f m x y),
            (.vfmul d a b ty p, fun _ x y => fMul f m x y),
            (.vfma d a b ty p, fun z x y => fFma f m false false x y z),
            (.vfnma d a b ty p, fun z x y => fFma f m true false x y z),
            (.vfmin d a b ty p, fun _ x y => fMinMax f false x y),
            (.vfmax d a b ty p, fun _ x y => fMinMax f true x y),
            (.vfcpsgn d a b ty p, fun _ x y => ((if y.testBit (n - 1) then 2 ^ (n - 1) else 0) + x % 2 ^ (n - 1), 0#5)) ],
      let r (j i : Nat) := q.2 (sub n i (s.rv d.toNat j)) (sub n i (s.rv a.toNat j)) (sub n i (s.rv b.toNat j))
      ∃ (v : Nat → Word32) (t : State), exec q.1 s = .next t
        ∧ WroteV s t d (fun j => if Active s p j then some (v j) else none)
            (orAll (((List.range s.vlen).filter (Active s p)).map fun j => orAll ((List.range (32 / n)).map fun i => (r j i).2)))
        ∧ ∀ j i, j < s.vlen → i < 32 / n → sub n i (v j) = (r j i).1 % 2 ^ n

/-- R276, R233, R265: with a claim, a compare sets bit j of p[d] to its condition for active elements and to 0 for the others, with
the flags of the active ones; the predicate forms need no claim and work on the low L bits, L = 64 without one, zeros above;
PCNT counts the ones of the low L bits into x[d]; nothing else changes. -/
def Obligations.VectorPredicates : Prop :=
  ∀ (s : State) (d e g p : BitVec 3) (r a b : BitVec 5), d ≠ 0#3 →
    let len := if s.vlen = 0 then 64 else s.vlen
    let low : Word := BitVec.ofNat 64 (2 ^ len - 1)
    (HasClaim s →
      ∀ q ∈ [ (Instr.vcmpeq d a b p, fun (x y : Word32) => ((x == y), 0#5)),
              (.vcmpne d a b p, fun x y => ((x != y), 0#5)),
              (.vcmplt d a b p, fun x y => (decide (x.toInt < y.toInt), 0#5)),
              (.vcmple d a b p, fun x y => (decide (x.toInt ≤ y.toInt), 0#5)),
              (.vcmpltz d a b p, fun x y => (decide (x.toNat < y.toNat), 0#5)),
              (.vcmplez d a b p, fun x y => (decide (x.toNat ≤ y.toNat), 0#5)),
              (.vfcmpeq d a b p, fun x y => (!isNaN32 x && !isNaN32 y && order32 x == order32 y,
                if isSNaN32 x || isSNaN32 y then 16#5 else 0#5)),
              (.vfcmplt d a b p, fun x y => (!isNaN32 x && !isNaN32 y && decide (order32 x < order32 y),
                if isNaN32 x || isNaN32 y then 16#5 else 0#5)),
              (.vfcmple d a b p, fun x y => (!isNaN32 x && !isNaN32 y && decide (order32 x ≤ order32 y),
                if isNaN32 x || isNaN32 y then 16#5 else 0#5)),
              (.vfcmpun d a b p, fun x y => (isNaN32 x || isNaN32 y, if isSNaN32 x || isSNaN32 y then 16#5 else 0#5)) ],
        let c (j : Nat) := q.2 (s.rv a.toNat j) (s.rv b.toNat j)
        ∃ (v : Word) (t : State), exec q.1 s = .next t ∧ PIs s t d v ∧ CoreCounts s t
          ∧ SlotMoves s t (s.pc + 4#64) (s.me.safecnt + 1) (orAll (((List.range s.vlen).filter (Active s p)).map fun j => (c j).2))
          ∧ t = { s with pregs := t.pregs, slots := t.slots, cores := t.cores }
          ∧ ∀ j, j < 64 → v.getLsbD j = (Active s p j && (c j).1))
    ∧ (s.vlen ≤ 64 →
      (∀ q ∈ [ (Instr.pand d e g, s.rp e.toNat &&& s.rp g.toNat), (.por d e g, s.rp e.toNat ||| s.rp g.toNat),
               (.pxor d e g, s.rp e.toNat ^^^ s.rp g.toNat), (.pandn d e g, s.rp e.toNat &&& ~~~(s.rp g.toNat)),
               (.pnot d e, ~~~(s.rp e.toNat)), (.pwhile d a, BitVec.ofNat 64 (2 ^ min 64 (s.rx a).toNat - 1)) ],
        ∃ t, exec q.1 s = .next t ∧ WroteP s t d (q.2 &&& low) (s.pc + 4#64))
      ∧ ∃ t, exec (.pcnt r e) s = .next t ∧ WroteX s t r
          (BitVec.ofNat 64 ((List.range len).filter fun j => (s.rp e.toNat).getLsbD j).length) (s.pc + 4#64) 0#5)

/-- R278, R125: with a claim, an integer reduction folds the active elements of v[a] into x[d], sign-extended for the signed
forms and zero-extended for the others; a floating-point reduction is the fixed tree of R125 over all VLEN elements, inactive
ones replaced by the identity, into f[d] with the flags of every step; nothing else changes. -/
def Obligations.VectorReductions : Prop :=
  ∀ (s : State) (d a : BitVec 5) (p : BitVec 3), HasClaim s →
    let el (ident : Word32) : List Word32 := (List.range s.vlen).map fun j => if Active s p j then s.rv a.toNat j else ident
    let act : List Word32 := ((List.range s.vlen).filter (Active s p)).map (s.rv a.toNat ·)
    (∀ q ∈ [ (Instr.vredadd d a p, (act.foldl (· + ·) 0#32).signExtend 64),
             (.vredmin d a p, (act.foldl (fun x y => if x.toInt ≤ y.toInt then x else y) 0x7FFFFFFF#32).signExtend 64),
             (.vredmax d a p, (act.foldl (fun x y => if y.toInt ≤ x.toInt then x else y) 0x80000000#32).signExtend 64),
             (.vredminz d a p, (act.foldl (fun x y => if x.toNat ≤ y.toNat then x else y) 0xFFFFFFFF#32).zeroExtend 64),
             (.vredmaxz d a p, (act.foldl (fun x y => if y.toNat ≤ x.toNat then x else y) 0#32).zeroExtend 64),
             (.vredand d a p, (act.foldl (· &&& ·) 0xFFFFFFFF#32).zeroExtend 64),
             (.vredor d a p, (act.foldl (· ||| ·) 0#32).zeroExtend 64),
             (.vredxor d a p, (act.foldl (· ^^^ ·) 0#32).zeroExtend 64) ],
      ∃ t, exec q.1 s = .next t ∧ WroteX s t d q.2 (s.pc + 4#64) 0#5)
    ∧ ∀ q ∈ [ (Instr.vfredadd d a p, treeReduce (fAdd .f32 .rne) (Nat.log2 s.vlen) ((el 0#32).map (·.toNat))),
              (.vfredmin d a p, treeReduce (fMinMax .f32 false) (Nat.log2 s.vlen) ((el 0x7FC00000#32).map (·.toNat))),
              (.vfredmax d a p, treeReduce (fMinMax .f32 true) (Nat.log2 s.vlen) ((el 0x7FC00000#32).map (·.toNat))) ],
      ∃ t, exec q.1 s = .next t ∧ WroteF s t d (BitVec.ofNat 32 q.2.1) (s.pc + 4#64) q.2.2

/-- R279, R113 to R117: with a claim, a narrowing packs the conversions of the k registers from v[a] on into v[d], and a widening
unpacks the sub-elements of v[a] into the k registers from v[d] on, whatever the predicates; the conversions are those of
Num.lean, stochastic under code 4 with SRSEED and the index x[b] + k × j + i (R109); flags are ORed; nothing else changes. -/
def Obligations.VectorConversions : Prop :=
  ∀ (s : State) (d a b : BitVec 5) (st : BitVec 1) (r : BitVec 3), HasClaim s →
    let sat := st = 1#1
    let mode (pos : Nat) : Rnd := if r = 4#3 then
      .sr (srThreshold (s.coreSt s.ck).srseed ((s.rx b).extractLsb' 0 32 + BitVec.ofNat 32 pos)) else modeOf s r
    let int32 (v : Nat) : Int := if 2 ^ 31 ≤ v then (v : Int) - 2 ^ 32 else v
    (∀ q ∈ [ (Instr.vcvtF32Bf16 d a b st r, 2, fun (v pos : Nat) => fConv .f32 .bf16 (mode pos) sat v),
             (.vcvtF32F16 d a b st r, 2, fun v pos => fConv .f32 .f16 (mode pos) sat v),
             (.vcvtF32E4m3 d a b st r, 4, fun v pos => fConv .f32 .e4m3 (mode pos) sat v),
             (.vcvtF32E5m2 d a b st r, 4, fun v pos => fConv .f32 .e5m2 (mode pos) sat v),
             (.vcvtF32E2m1 d a b st r, 8, fun v pos => fConv .f32 .e2m1 (mode pos) sat v),
             (.vcvtS32F32 d a r, 1, fun v _ => fOfInt .f32 (modeOf s r) (int32 v)),
             (.vcvtZ32F32 d a r, 1, fun v _ => fOfInt .f32 (modeOf s r) v),
             (.vcvtF32S32 d a r, 1, fun v _ => (((fToInt .f32 ⟨true, 32⟩ (modeOf s r) v).1 % 2 ^ 32).toNat,
               (fToInt .f32 ⟨true, 32⟩ (modeOf s r) v).2)),
             (.vcvtF32Z32 d a r, 1, fun v _ => (((fToInt .f32 ⟨false, 32⟩ (modeOf s r) v).1 % 2 ^ 32).toNat,
               (fToInt .f32 ⟨false, 32⟩ (modeOf s r) v).2)),
             (.vcvtS32S16x2 d a st, 2, fun v _ => (((if sat then max (-2 ^ 15) (min (2 ^ 15 - 1) (int32 v)) else int32 v) % 2 ^ 16).toNat, 0#5)),
             (.vcvtZ32Z16x2 d a st, 2, fun v _ => (if sat then min (2 ^ 16 - 1) v else v, 0#5)),
             (.vcvtS32S8x4 d a st, 4, fun v _ => (((if sat then max (-2 ^ 7) (min (2 ^ 7 - 1) (int32 v)) else int32 v) % 2 ^ 8).toNat, 0#5)),
             (.vcvtZ32Z8x4 d a st, 4, fun v _ => (if sat then min (2 ^ 8 - 1) v else v, 0#5)) ],
      let k := q.2.1
      let c (j i : Nat) := q.2.2 (s.rv (a.toNat + i) j).toNat (k * j + i)
      a.toNat + k ≤ 32 →
      ∃ (v : Nat → Word32) (t : State), exec q.1 s = .next t
        ∧ WroteV s t d (fun j => if j < s.vlen then some (v j) else none)
            (orAll ((List.range s.vlen).map fun j => orAll ((List.range k).map fun i => (c j i).2)))
        ∧ ∀ j i, j < s.vlen → i < k → sub (32 / k) i (v j) = (c j i).1 % 2 ^ (32 / k))
    ∧ ∀ q ∈ [ (Instr.vcvtBf16F32 d a, 2, fun (v : Nat) => fConv .bf16 .f32 .rne false v),
              (.vcvtF16F32 d a, 2, fun v => fConv .f16 .f32 .rne false v),
              (.vcvtE4m3F32 d a, 4, fun v => fConv .e4m3 .f32 .rne false v),
              (.vcvtE5m2F32 d a, 4, fun v => fConv .e5m2 .f32 .rne false v),
              (.vcvtE2m1F32 d a, 8, fun v => fConv .e2m1 .f32 .rne false v),
              (.vcvtS16x2S32 d a, 2, fun v => (if 2 ^ 15 ≤ v then v + (2 ^ 32 - 2 ^ 16) else v, 0#5)),
              (.vcvtZ16x2Z32 d a, 2, fun v => (v, 0#5)),
              (.vcvtS8x4S32 d a, 4, fun v => (if 2 ^ 7 ≤ v then v + (2 ^ 32 - 2 ^ 8) else v, 0#5)),
              (.vcvtZ8x4Z32 d a, 4, fun v => (v, 0#5)) ],
      let k := q.2.1
      let c (j i : Nat) := q.2.2 (sub (32 / k) i (s.rv a.toNat j))
      d.toNat + k ≤ 32 →
      ∃ t, exec q.1 s = .next t
        ∧ (∀ x, t.vregs.get 0#32 x =
            let reg := x / 64
            if s.fk * 32 + d.toNat ≤ reg ∧ reg < s.fk * 32 + d.toNat + k ∧ x % 64 < s.vlen then
              BitVec.ofNat 32 (c (x % 64) (reg - (s.fk * 32 + d.toNat))).1 else s.vregs.get 0#32 x)
        ∧ SlotMoves s t (s.pc + 4#64) (s.me.safecnt + 1)
            (orAll ((List.range s.vlen).map fun j => orAll ((List.range k).map fun i => (c j i).2)))
        ∧ CoreCounts s t ∧ t = { s with vregs := t.vregs, slots := t.slots, cores := t.cores }

/-- R280, R281: a special function queues its request and goes on; the octet's result event then writes the active elements of
v[d] and nothing else. NaN, infinities and zeros give the values of R281, and the listed arguments their exact values. -/
def Obligations.SpecialFunctions : Prop :=
  ∀ (s : State) (d a : BitVec 5) (p : BitVec 3), HasClaim s →
    let nan := 0x7FC00000#32
    let pInf := 0x7F800000#32
    let nInf := 0xFF800000#32
    let one := 0x3F800000#32
    ∀ q ∈ [ (Instr.vexp2 d a p, [(pInf, pInf), (nInf, 0#32), (0#32, one), (0x80000000#32, one)]),
            (.vlog2 d a p, [(pInf, pInf), (nInf, nan), (0#32, nInf), (0x80000000#32, nInf), (one, 0#32), (0x40000000#32, one)]),
            (.vrcp d a p, [(pInf, 0#32), (nInf, 0x80000000#32), (0#32, pInf), (0x80000000#32, nInf), (one, one)]),
            (.vrsqrt d a p, [(pInf, 0#32), (nInf, nan), (0#32, pInf), (0x80000000#32, nInf), (0x40800000#32, 0x3F000000#32)]),
            (.vtanh d a p, [(pInf, one), (nInf, 0xBF800000#32), (0#32, 0#32), (0x80000000#32, 0x80000000#32)]),
            (.vsigm d a p, [(pInf, one), (nInf, 0#32), (0#32, 0x3F000000#32), (0x80000000#32, 0x3F000000#32)]),
            (.vsin d a p, [(pInf, nan), (nInf, nan), (0#32, 0#32), (0x80000000#32, 0x80000000#32)]),
            (.vcos d a p, [(pInf, nan), (nInf, nan), (0#32, one), (0x80000000#32, one)]) ],
      ∃ (v : Word32 → Word32) (t u : State), exec q.1 s = .next t ∧ exec .sfuResult t = .next u
        ∧ SlotMoves s t (s.pc + 4#64) (s.me.safecnt + 1) 0#5 ∧ CoreCounts s t ∧ t.vregs = s.vregs
        ∧ VIs s u d (fun j => if Active s p j then some (v (s.rv a.toNat j)) else none)
        ∧ u = { s with vregs := u.vregs, slots := t.slots, cores := t.cores, octets := u.octets }
        ∧ (∀ k, u.octetSt k = s.octetSt k)
        ∧ (∀ x, isNaN32 x = true → v x = nan) ∧ ∀ e ∈ q.2, v e.1 = e.2

/-- R266, R267, R269: with nothing of the task's on its way, VCLAIM that finds no claim ahead and F ≥ 8 releases an old claim and
is granted at once the largest power of two that is at most both its request and F; VCLAIM.try does the same with its own width
counted as free, and without the grant writes 0 and changes nothing; every element starts at zero, and the predicates stay.
VREL gives the width back. A VCLAIM that finds a claim ahead, or F < 8, releases an old claim, joins its octet's queue at the end and
waits there at a safe point; it keeps waiting until its claim is granted, and completes then with the width in x[d]. A waiting claim at the
head of the queue is granted by the CLAIM_GRANT event, with the same rule for its width, and its registers start at zero.

R282, R369: every form of VMEM, VINT, VFP, VPERM, VRED, VCVT and VSFN, and the compares of VPRED, trap with NOCLAIM of their
major, when the task holds no claim. -/
def Obligations.LaneClaims : Prop :=
  (∀ (s : State) (d a : BitVec 5), Quiet s → s.me.wait = .none →
    let w := (s.rx a).toNat
    let granted (free : Nat) (t : State) (sc : Nat) : Prop :=
      ∃ g : Nat, (g = 8 ∨ g = 16 ∨ g = 32 ∨ g = 64) ∧ g ≤ w ∧ g ≤ free ∧ (2 * g ≤ w → free < 2 * g)
        ∧ t.vlen = g ∧ XIs s t d (BitVec.ofNat 64 g) ∧ SlotMoves s t (s.pc + 4#64) sc 0#5 ∧ CoreCounts s t
        ∧ (∀ k, t.vregs.get 0#32 k = if k / 2048 = s.fk then 0#32 else s.vregs.get 0#32 k)
        ∧ (∀ k, k ≠ s.fk → t.frameSt k = s.frameSt k)
        ∧ t = { s with xregs := t.xregs, slots := t.slots, cores := t.cores, frames := t.frames, vregs := t.vregs,
                       dies := t.dies }
    (w = 8 ∨ w = 16 ∨ w = 32 ∨ w = 64 → (s.octetSt s.octk).claims = [] →
      (8 ≤ s.relClaim.freeWidth s.cur.rid s.cur.core →
        ∃ t, exec (.vclaim d a) s = .next t ∧ granted (s.relClaim.freeWidth s.cur.rid s.cur.core) t 0)
      ∧ (8 ≤ s.freeWidth s.cur.rid s.cur.core + s.vlen →
        ∃ t, exec (.vclaimTry d a) s = .next t
          ∧ granted (s.freeWidth s.cur.rid s.cur.core + s.vlen) t (s.me.safecnt + 1))
      ∧ (s.freeWidth s.cur.rid s.cur.core + s.vlen < 8 →
        ∃ t, exec (.vclaimTry d a) s = .next t ∧ WroteX s t d 0#64 (s.pc + 4#64) 0#5))
    ∧ (w = 8 ∨ w = 16 ∨ w = 32 ∨ w = 64 → Alone s →
        (s.octetSt s.octk).claims ≠ [] ∨ s.relClaim.freeWidth s.cur.rid s.cur.core < 8 →
        ∃ t, exec (.vclaim d a) s = .next t ∧ t.me.pc = s.pc ∧ t.me.wait = .claim w ∧ t.me.safecnt = 0 ∧ t.vlen = 0
          ∧ (t.octetSt s.octk).claims = (s.octetSt s.octk).claims ++ [{ core := s.cur.core, frame := s.me.frame, width := w }]
          ∧ (∀ k, t.vregs.get 0#32 k = if k / 2048 = s.fk then 0#32 else s.vregs.get 0#32 k)
          ∧ (∀ k, k ≠ s.sk → t.slotSt k = s.slotSt k) ∧ (∀ k, k ≠ s.fk → t.frameSt k = s.frameSt k)
          ∧ t = { s with slots := t.slots, cores := t.cores, frames := t.frames, vregs := t.vregs, octets := t.octets })
    ∧ (∃ t, exec .vrel s = .next t ∧ t.vlen = 0 ∧ SlotMoves s t (s.pc + 4#64) (s.me.safecnt + 1) 0#5 ∧ CoreCounts s t
        ∧ (∀ k, k ≠ s.fk → t.frameSt k = s.frameSt k)
        ∧ (∀ k, k / 2048 ≠ s.fk → t.vregs.get 0#32 k = s.vregs.get 0#32 k)
        ∧ t = { s with slots := t.slots, cores := t.cores, frames := t.frames, vregs := t.vregs })
    ∧ (∃ t, exec (.vwaitm 0#5) s = .next t ∧ Moved s t (s.pc + 4#64))
    ∧ ∀ (r : ClaimReq) (rest : List ClaimReq), (s.octetSt s.octk).claims = r :: rest →
        r.width = 8 ∨ r.width = 16 ∨ r.width = 32 ∨ r.width = 64 → 8 ≤ s.freeWidth s.cur.rid r.core →
        ∃ (t : State) (g : Nat), exec .claimGrant s = .next t ∧ (t.octetSt s.octk).claims = rest
          ∧ (g = 8 ∨ g = 16 ∨ g = 32 ∨ g = 64) ∧ g ≤ r.width ∧ g ≤ s.freeWidth s.cur.rid r.core
          ∧ (2 * g ≤ r.width → s.freeWidth s.cur.rid r.core < 2 * g)
          ∧ (t.frameSt (unitKey s.cur.rid r.core r.frame)).width = g ∧ t.waitOf s.cur.rid r.core r.frame = .granted g
          ∧ (∀ k, k / 2048 = unitKey s.cur.rid r.core r.frame → t.vregs.get 0#32 k = 0#32) ∧ t.xregs = s.xregs)
  ∧ (∀ (s : State) (d a : BitVec 5) (w g : Nat),
    (s.me.wait = .claim w → Alone s → ∃ t, exec (.vclaim d a) s = .next t ∧ Waits s t (.claim w))
    ∧ (s.me.wait = .granted g → ∃ t, exec (.vclaim d a) s = .next t ∧ XIs s t d (BitVec.ofNat 64 g)
        ∧ SlotMoves s t (s.pc + 4#64) 0 0#5 ∧ CoreCounts s t
        ∧ t = { s with xregs := t.xregs, slots := t.slots, cores := t.cores, dies := t.dies }))
  ∧ ∀ (s : State) (d a b : BitVec 5) (e p : BitVec 3) (w k : BitVec 2) (st : BitVec 1), Quiet s → SingleFault s → s.vlen = 0 →
    ∀ q ∈ [ (0x29, [ Instr.vld d a p, .vlds d a b p, .vldg d a b p, .vldt d a b k p, .vst d a p, .vsts d a b p, .vstg d a b p,
                     .vstt d a b k p ]),
            (0x2A, [ .vadd d a b w p, .vsub d a b w p, .vmul d a b w p, .vmulh d a b w p, .vmulhz d a b w p, .vand d a b w p,
                     .vor d a b w p, .vxor d a b w p, .vandn d a b w p, .vsll d a b w p, .vsrl d a b w p, .vsra d a b w p,
                     .vmin d a b w p, .vmax d a b w p, .vminz d a b w p, .vmaxz d a b w p, .vaddSat d a b w p,
                     .vaddzSat d a b w p, .vsubSat d a b w p, .vsubzSat d a b w p, .vmac d a b w p, .vdot d a b w p,
                     .vdotz d a b w p, .vsel d a b w p ]),
            (0x2B, [ .vfadd d a b w p, .vfsub d a b w p, .vfmul d a b w p, .vfma d a b w p, .vfnma d a b w p, .vfmin d a b w p,
                     .vfmax d a b w p, .vfcpsgn d a b w p ]),
            (0x2C, [ .vperm d a b p, .vslideUp d a b p, .vslideDn d a b p, .vbcast d a p, .vbcastE d a b p, .vins d a b,
                     .vext d a b ]),
            (0x2D, [ .vredadd d a p, .vredmin d a p, .vredmax d a p, .vredminz d a p, .vredmaxz d a p, .vredand d a p,
                     .vredor d a p, .vredxor d a p, .vfredadd d a p, .vfredmin d a p, .vfredmax d a p ]),
            (0x2E, [ .vcvtF32Bf16 d a b st p, .vcvtF32F16 d a b st p, .vcvtF32E4m3 d a b st p, .vcvtF32E5m2 d a b st p,
                     .vcvtF32E2m1 d a b st p, .vcvtBf16F32 d a, .vcvtF16F32 d a, .vcvtE4m3F32 d a, .vcvtE5m2F32 d a,
                     .vcvtE2m1F32 d a, .vcvtS32F32 d a p, .vcvtZ32F32 d a p, .vcvtF32S32 d a p, .vcvtF32Z32 d a p,
                     .vcvtS32S16x2 d a st, .vcvtZ32Z16x2 d a st, .vcvtS32S8x4 d a st, .vcvtZ32Z8x4 d a st, .vcvtS16x2S32 d a,
                     .vcvtZ16x2Z32 d a, .vcvtS8x4S32 d a, .vcvtZ8x4Z32 d a ]),
            (0x2F, [ .vexp2 d a p, .vlog2 d a p, .vrcp d a p, .vrsqrt d a p, .vtanh d a p, .vsigm d a p, .vsin d a p,
                     .vcos d a p ]),
            (0x30, [ .vcmpeq e a b p, .vcmpne e a b p, .vcmplt e a b p, .vcmple e a b p, .vcmpltz e a b p, .vcmplez e a b p,
                     .vfcmpeq e a b p, .vfcmplt e a b p, .vfcmple e a b p, .vfcmpun e a b p ]) ],
      ∀ i ∈ q.2, ∃ t, exec i s = .next t ∧ TrapTaken s t 4 0x03 q.1 0 0

/-- R277, R273: with a claim and nothing outstanding, a permute followed by `vwaitm 0` gives every active element of v[d] its value
from the registers at issue, and changes nothing else; vins writes one element; vext writes x[d]. -/
def Obligations.VectorPermutes : Prop :=
  ∀ (s : State) (d a b : BitVec 5) (p : BitVec 3), HasClaim s → Quiet s →
    (∀ q ∈ [ (Instr.vperm d a b p, fun j => s.rv a.toNat ((s.rv b.toNat j).toNat % s.vlen)),
             (.vslideUp d a b p, fun j => if (s.rx b).toNat ≤ j then s.rv a.toNat (j - (s.rx b).toNat) else 0#32),
             (.vslideDn d a b p, fun j => if j + (s.rx b).toNat < s.vlen then s.rv a.toNat (j + (s.rx b).toNat) else 0#32),
             (.vbcast d a p, fun _ => (s.rx a).extractLsb' 0 32),
             (.vbcastE d a b p, fun _ => s.rv a.toNat ((s.rx b).toNat % s.vlen)) ],
      ∃ t u, exec q.1 s = .next t ∧ exec (.vwaitm 0#5) t = .next u ∧ TwoDone s u
        ∧ VIs s u d (fun j => if Active s p j then some (q.2 j) else none)
        ∧ u = { s with vregs := u.vregs, slots := u.slots, cores := u.cores, frames := u.frames })
    ∧ (∃ t u, exec (.vins d a b) s = .next t ∧ exec (.vwaitm 0#5) t = .next u ∧ TwoDone s u
        ∧ VIs s u d (fun j => if j = (s.rx b).toNat % s.vlen then some ((s.rx a).extractLsb' 0 32) else none)
        ∧ u = { s with vregs := u.vregs, slots := u.slots, cores := u.cores, frames := u.frames })
    ∧ ∃ t, exec (.vext d a b) s = .next t
        ∧ WroteX s t d ((s.rv a.toNat ((s.rx b).toNat % s.vlen)).zeroExtend 64) (s.pc + 4#64) 0#5

/-- R271 to R273: with a claim and nothing outstanding, a vector load whose active elements lie in the issuing core's own LM,
followed by `vwaitm 0`, writes the little-endian words at the element addresses to the active elements and nothing else; k
registers for the transposing form.

R271 to R273: with a claim and nothing outstanding, a vector store whose active elements lie in the issuing core's own LM,
followed by `vwaitm 0`, writes each active element's four bytes at its address, the highest element where several have one
address; every other byte of memory and every register keeps its value.

R271 to R273, R70, R71: in device memory of this device a vector load followed by `vwaitm 0` writes to each active element a word whose bytes
the home or the cluster cache holds; and a vector store followed by `vwaitm 0` puts the four bytes of each active element into the
combining buffer, from where lines may have left for their homes, and nothing else, with no byte of memory and no register changed yet.

R273, R272: a VMEM_PERFORMED event performs one element of the oldest outstanding instruction of a frame: here the last
element of a permute, whose value is written to its register and element. -/
def Obligations.VectorMemory : Prop :=
  (∀ (s : State) (d a b : BitVec 5) (k : BitVec 2) (p : BitVec 3) (off : Nat → Nat), HasClaim s → Quiet s → s.me.wait = .none →
    (∀ q ∈ [ (Instr.vld d a p, fun j : Nat => s.rx a + BitVec.ofNat 64 (4 * j)),
             (.vlds d a b p, fun j => s.rx a + BitVec.ofNat 64 j * s.rx b),
             (.vldg d a b p, fun j => s.rx a + (s.rv b.toNat j).zeroExtend 64) ],
      (∀ j, Active s p j = true → OwnLm s (q.2 j) 4 (off j) ∧ Unpoisoned s (off j) 4) →
      ∃ t u, exec q.1 s = .next t ∧ exec (.vwaitm 0#5) t = .next u ∧ TwoDone s u
        ∧ VIs s u d (fun j => if Active s p j then some (BitVec.ofNat 32 (lmNumber s (off j) 4)) else none)
        ∧ u = { s with vregs := u.vregs, slots := u.slots, cores := u.cores, frames := u.frames })
    ∧ (let n := 2 ^ (k.toNat + 1)
      k ≠ 3#2 → d.toNat + n ≤ 32 →
      (∀ j i, Active s p j = true → i < n →
        OwnLm s (s.rx a + BitVec.ofNat 64 j * s.rx b + BitVec.ofNat 64 (4 * i)) 4 (off j + 4 * i)
          ∧ Unpoisoned s (off j + 4 * i) 4) →
      ∃ t u, exec (.vldt d a b k p) s = .next t ∧ exec (.vwaitm 0#5) t = .next u ∧ TwoDone s u
        ∧ (∀ x, u.vregs.get 0#32 x =
            let reg := x / 64
            if s.fk * 32 + d.toNat ≤ reg ∧ reg < s.fk * 32 + d.toNat + n ∧ Active s p (x % 64) = true then
              BitVec.ofNat 32 (lmNumber s (off (x % 64) + 4 * (reg - (s.fk * 32 + d.toNat))) 4) else s.vregs.get 0#32 x)
        ∧ u = { s with vregs := u.vregs, slots := u.slots, cores := u.cores, frames := u.frames }))
  ∧ (∀ (s : State) (d a b : BitVec 5) (k : BitVec 2) (p : BitVec 3) (off : Nat → Nat), HasClaim s → Quiet s → s.me.wait = .none →
    let only (u : State) : Prop := u = { s with mem := u.mem, poison := u.poison, vblocks := u.vblocks, reports := u.reports,
                                                slots := u.slots, cores := u.cores, frames := u.frames }
    (∀ q ∈ [ (Instr.vst d a p, fun j : Nat => s.rx a + BitVec.ofNat 64 (4 * j)),
             (.vsts d a b p, fun j => s.rx a + BitVec.ofNat 64 j * s.rx b),
             (.vstg d a b p, fun j => s.rx a + (s.rv b.toNat j).zeroExtend 64) ],
      (∀ j, Active s p j = true → OwnLm s (q.2 j) 4 (off j)) →
      ∃ t u, exec q.1 s = .next t ∧ exec (.vwaitm 0#5) t = .next u ∧ TwoDone s u ∧ only u
        ∧ (∀ j i, Active s p j = true → (∀ j', j < j' → Active s p j' = true → off j' ≠ off j) → i < 4 →
            u.mem.get memDefault (ownLm s (off j) + i) = (s.rv d.toNat j).extractLsb' (8 * i) 8)
        ∧ ∀ x, (∀ j, Active s p j = true → ¬ (ownLm s (off j) ≤ x ∧ x < ownLm s (off j) + 4)) →
            u.mem.get memDefault x = s.mem.get memDefault x)
    ∧ (let n := 2 ^ (k.toNat + 1)
      k ≠ 3#2 → d.toNat + n ≤ 32 → (∀ j j', Active s p j = true → Active s p j' = true → j ≠ j' →
        off j + 4 * n ≤ off j' ∨ off j' + 4 * n ≤ off j) →
      (∀ j i, Active s p j = true → i < n →
        OwnLm s (s.rx a + BitVec.ofNat 64 j * s.rx b + BitVec.ofNat 64 (4 * i)) 4 (off j + 4 * i)) →
      ∃ t u, exec (.vstt d a b k p) s = .next t ∧ exec (.vwaitm 0#5) t = .next u ∧ TwoDone s u ∧ only u
        ∧ (∀ j m i, Active s p j = true → m < n → i < 4 →
            u.mem.get memDefault (ownLm s (off j) + 4 * m + i) = (s.rv (d.toNat + m) j).extractLsb' (8 * i) 8)
        ∧ ∀ x, (∀ j, Active s p j = true → ¬ (ownLm s (off j) ≤ x ∧ x < ownLm s (off j) + 4 * n)) →
            u.mem.get memDefault x = s.mem.get memDefault x))
  ∧ (∀ (s : State) (d a b : BitVec 5) (k : BitVec 2) (p : BitVec 3) (l : Nat → Nat → Loc), HasClaim s → Quiet s → s.me.wait = .none →
    let stride (j m : Nat) : Word := s.rx a + BitVec.ofNat 64 j * s.rx b + BitVec.ofNat 64 (4 * m)
    let unit (j _m : Nat) : Word := s.rx a + BitVec.ofNat 64 (4 * j)
    let index (j _m : Nat) : Word := s.rx a + (s.rv b.toNat j).zeroExtend 64
    let many := 2 ^ (k.toNat + 1)
    let all (n : Nat) (P : Nat → Nat → Prop) : Prop := ∀ j m, Active s p j = true → m < n → P j m
    let slots (u : State) : Prop := ∀ x, u.slotSt x = if x = s.sk then
      { s.me with pc := s.pc + 8#64, safecnt := s.me.safecnt + 2, wait := .none } else s.slotSt x
    k ≠ 3#2 →
    (∀ q ∈ [ (Instr.vld d a p, 1, unit), (.vlds d a b p, 1, stride), (.vldg d a b p, 1, index), (.vldt d a b k p, many, stride) ],
      let n := q.2.1
      d.toNat + n ≤ 32 →
      all n (fun j m => DevMem s (q.2.2 j m) 4 false (l j m) ∧ Clean s (l j m) 4 ∧ (l j m).inLine + 4 ≤ 64
        ∧ all n (fun j' m' => locAddr s.cur.rid (l j m) / 64 = locAddr s.cur.rid (l j' m') / 64 → locKey (l j m) = locKey (l j' m'))) →
      ∃ (v : Nat → Nat → Word32) (t u : State), exec q.1 s = .next t ∧ exec (.vwaitm 0#5) t = .next u ∧ TwoDone s u
        ∧ all n (fun j m => WeakRead s (l j m) 0 4 (v j m).toNat)
        ∧ (∀ x, u.vregs.get 0#32 x =
            let reg := x / 64
            if s.fk * 32 + d.toNat ≤ reg ∧ reg < s.fk * 32 + d.toNat + n ∧ Active s p (x % 64) = true then
              v (x % 64) (reg - (s.fk * 32 + d.toNat)) else s.vregs.get 0#32 x)
        ∧ (∀ x, (u.clusterSt x).tlb = (s.clusterSt x).tlb)
        ∧ u = { s with vregs := u.vregs, slots := u.slots, cores := u.cores, frames := u.frames, clusters := u.clusters, dies := u.dies })
    ∧ ∀ q ∈ [ (Instr.vst d a p, 1, unit), (.vsts d a b p, 1, stride), (.vstg d a b p, 1, index), (.vstt d a b k p, many, stride) ],
      let n := q.2.1
      let datum (j m i : Nat) : Nat × Byte := ((l j m).inLine + i, (s.rv (d.toNat + m) j).extractLsb' (8 * i) 8)
      d.toNat + n ≤ 32 → all n (fun j m => DevMem s (q.2.2 j m) 4 true (l j m)) →
      ∃ t u, exec q.1 s = .next t ∧ exec (.vwaitm 0#5) t = .next u ∧ slots u ∧ (∀ x, u.frameSt x = s.frameSt x)
        ∧ (∀ x, u.coreSt x = if x = s.ck then
            { s.coreSt s.ck with instret := (s.coreSt s.ck).instret + 2, cbuf := (u.coreSt s.ck).cbuf } else s.coreSt x)
        ∧ u = { s with slots := u.slots, cores := u.cores, frames := u.frames, agentQ := u.agentQ }
        ∧ all n (fun j m =>
            all n (fun j' m' => j < j' ∨ j = j' ∧ m < m' →
              locAddr s.cur.rid (l j' m') + 4 ≤ locAddr s.cur.rid (l j m) ∨ locAddr s.cur.rid (l j m) + 4 ≤ locAddr s.cur.rid (l j' m')) →
            ∀ i, i < 4 → (∃ e ∈ (u.coreSt s.ck).cbuf, e.loc.same (l j m).line = true ∧ datum j m i ∈ e.bytes)
              ∨ ∃ r ∈ u.agentQ, r.rid = s.cur.rid ∧ r.core = s.cur.core ∧ r.loc.same (l j m).line = true ∧ datum j m i ∈ r.bytes)
        ∧ (∀ e ∈ (u.coreSt s.ck).cbuf, ∀ y ∈ e.bytes, ∃ j m i, Active s p j = true ∧ m < n ∧ i < 4
            ∧ e.loc.same (l j m).line = true ∧ y = datum j m i)
        ∧ ∀ r ∈ u.agentQ, ∀ y ∈ r.bytes, ∃ j m i, Active s p j = true ∧ m < n ∧ i < 4
            ∧ r.loc.same (l j m).line = true ∧ y = datum j m i)
  ∧ ∀ (s : State) (o : VOp) (rest : List VOp) (e : VElem),
    let fk := unitKey s.cur.rid s.cur.core s.cur.sub
    (s.frameSt fk).vops = o :: rest → s.cur.inp.a = 0 → s.cur.idx = 0 → o.elems = [e] → e.loc = none →
      ∃ t, exec .vmemPerformed s = .next t
        ∧ (∀ k, t.frameSt k = if k = fk then { s.frameSt fk with vops := rest } else s.frameSt k)
        ∧ (∀ k, t.vregs.get 0#32 k = if k = fk * 2048 + e.reg * 64 + e.j then e.val else s.vregs.get 0#32 k)
        ∧ t = { s with vregs := t.vregs, frames := t.frames }

/-! ### Messages, counters, handlers, the deque (R23 to R44, R257 to R260, R263) -/

/-- R258, R23, R24: with the operands that R24 and R264 allow, room in the outbound queue and nothing of the task's on its way, MSEND
sends to a core of this device the message with H0 = x[a], H1 = x[b] with the sender filled in, and the arguments x[c] to x[c+3];
MSENDP sends with it the 64 × LEN bytes of LM at offset x[d]; an outbound entry is held until it arrives (R247). Class 0 is
reserved (R264). That the record names operand a also where a later operand is reserved too is the model's choice (log 37). -/
def Obligations.MessagesAreSent : Prop :=
  ∀ (s : State) (d a b c : BitVec 5), Quiet s → c.toNat ≤ 28 →
    let h0 := s.rx a
    let h1 := s.rx b
    let len := (h0.extractLsb' 51 7).toNat
    let poff := (h1.extractLsb' 0 18).toNat
    let src := (s.rx d).toNat
    let msg (bs : List Byte) : Msg :=
      { rid := s.cur.rid, sdev := s.fabid, score := s.cur.core, ddev := 0xFFF, h0 := h0,
        h1 := BitVec.ofNat 64 ((if h1.getLsbD 57 then 2 ^ 57 else 0) + (if h1.getLsbD 56 then 2 ^ 56 else 0) + s.cur.rid * 2 ^ 50
          + s.fabid * 2 ^ 38 + s.cur.core * 2 ^ 18 + poff),
        a0 := s.rx c, a1 := s.rx (c + 1#5), a2 := s.rx (c + 2#5), a3 := s.rx (c + 3#5), payload := bs,
        out := some (s.coreSt s.ck).outNext }
    let sent (t : State) (bs : List Byte) : Prop :=
      t.net = s.net ++ [msg bs] ∧ SlotMoves s t (s.pc + 4#64) (s.me.safecnt + 1) 0#5
        ∧ (∀ k, t.coreSt k = if k = s.ck then
            { s.coreSt s.ck with
              instret := (s.coreSt s.ck).instret + 1, outNext := (s.coreSt s.ck).outNext + 1,
              outq := [{ id := (s.coreSt s.ck).outNext, frame := s.me.frame, size := bs.length }] } else s.coreSt k)
        ∧ (∀ k, t.frameSt k = s.frameSt k)
        ∧ t = { s with net := t.net, slots := t.slots, cores := t.cores, frames := t.frames }
    (h0.extractLsb' 58 6 = 0#6 → h0.extractLsb' 49 2 ≠ 0#2 →
      (if h0.getLsbD 48 then (h0.extractLsb' 32 8).toNat < 0xF0
        else ¬ (248 ≤ (h0.extractLsb' 40 8).toNat ∧ (h0.extractLsb' 40 8).toNat ≤ 251)) →
      h0.extractLsb' 20 12 = 0xFFF#12 → s.coreExists s.cur.rid (h0.extractLsb' 0 20).toNat = true →
      h1.extractLsb' 58 6 = 0#6 → poff % 64 = 0 → (s.coreSt s.ck).outq = [] →
      (len = 0 → ∃ t, exec (.msend a b c) s = .next t ∧ sent t [])
      ∧ (1 ≤ len → len ≤ 64 → poff + 64 * len ≤ 0x30000 → src % 64 = 0 → src + 64 * len ≤ 0x30000 → Unpoisoned s src (64 * len) →
          ∃ t, exec (.msendp d a b c) s = .next t
            ∧ sent t ((List.range (64 * len)).map fun i => s.mem.get memDefault (ownLm s (src + i)))))
    ∧ (SingleFault s → h0.extractLsb' 49 2 = 0#2 →
        ∃ t, exec (.msend a b c) s = .next t ∧ TrapTaken s t 4 0x02 0x20 h0.toNat 1)

/-- R27, R30, R35, R38, R85: a direct message at the head of the network whose core receives is delivered: its payload is written to LM
at POFF, its outbound entry is freed, and where its handler is bound a task of its class is ready with the values of R30, whose start
acquires at the scope that covers the sender; an unbound one waits among the unclaimed messages, and beyond 16 of those UNCLMOVF is
reported with its first words (R372).

R27, R33, R85: a message with DIRECT = 0 decrements the counter that it names: the value falls by 1, or, from 1 in an ARMED
counter, the counter fires and its bound task is ready. A message from outside the cluster empties the core's cluster cache.

R363, R368: a fault record at the trap handler core starts user handler 0xEF, and a service call user handler 0xEE, at class
urgent, with the record's or the call's words in x10 to x13.

R37: a payload, a record and a service call are the service slot's work, done when the rotation comes to it, after which slot 0 is next
(that the rest of a delivery takes no turn there is the model's choice, log 120). -/
def Obligations.DirectMessagesStartTasks : Prop :=
  (∀ (s : State) (m : Msg) (rest : List Msg),
    let core := (m.h0.extractLsb' 0 20).toNat
    let hix := (m.h0.extractLsb' 32 8).toNat
    let cls := (m.h0.extractLsb' 49 2).toNat
    let ctr := (m.h0.extractLsb' 40 8).toNat
    let poff := (m.h1.extractLsb' 0 18).toNat
    let k := coreKey m.rid core
    let sender := coreKey m.rid m.score
    let e := s.handlers.get 0#64 (k * 256 + hix)
    let scope := max (State.cover m.score core) m.scope
    let task : TaskRec :=
      { hix := hix, cls := cls, x10 := m.a0, x11 := m.a1, x12 := m.a2, x13 := m.a3,
        x14 := BitVec.ofNat 64 (m.score + m.sdev * 2 ^ 20 + (if m.h1.getLsbD 56 then 2 ^ 32 else 0)), x15 := BitVec.ofNat 64 poff,
        acq := scope }
    let lost : Msg :=
      { rid := m.rid, sdev := s.fabid, score := core,
        h0 := BitVec.ofNat 64 (2 ^ 49 + 2 ^ 48 + 0xF0 * 2 ^ 32 + 0xFFF * 2 ^ 20 + (s.realm m.rid).trapc),
        h1 := BitVec.ofNat 64 (2 ^ 57 + m.rid * 2 ^ 50 + s.fabid * 2 ^ 38 + core * 2 ^ 18),
        a0 := BitVec.ofNat 64 (2 ^ 16 + 0x80), a1 := m.h0,
        a2 := BitVec.ofNat 64 (m.a0.toNat % 2 ^ 32 * 2 ^ 32 + m.h1.toNat % 2 ^ 32),
        a3 := BitVec.ofNat 64 ((s.coreSt k).fseq % 2 ^ 32 * 2 ^ 32 + s.cycle (dieKey m.rid (coreDie core)) % 2 ^ 32) }
    let landed (t : State) : Prop :=
      (∀ x, t.mem.get memDefault x =
          let a := lmAddr m.rid core poff
          if a ≤ x ∧ x < a + m.payload.length then m.payload.getD (x - a) 0#8 else s.mem.get memDefault x)
        ∧ (t.coreSt sender).outq = (s.coreSt sender).outq.filter (fun o => m.out != some o.id)
        ∧ t.xregs = s.xregs ∧ t.slots = s.slots
    s.cur.idx = 0 → s.net = m :: rest → m.ddev = 0xFFF → m.post = none → m.sdev = s.fabid → m.marks = [] → cls ≠ 0 →
      m.payload = [] ∨ s.serviceTurn m.rid core = true →
      (m.h0.getLsbD 48 = true → hix < 0xF0 → Receives s m.rid core →
        ∃ t, exec .messageArrival s = .next t ∧ landed t ∧ (t.coreSt k).issued = (if m.payload = [] then (s.coreSt k).issued else 8)
          ∧ (e.getLsbD 63 = true → Queued s t k cls { task with entry := some e } ∧ t.net = rest)
          ∧ (e.getLsbD 63 = false → (s.coreSt k).unclaimed.length < 16 →
              (t.coreSt k).unclaimed = (s.coreSt k).unclaimed ++ [task] ∧ t.net = rest)
          ∧ (e.getLsbD 63 = false → 16 ≤ (s.coreSt k).unclaimed.length →
              (t.coreSt k).unclaimed = (s.coreSt k).unclaimed ∧ t.net = rest ++ [lost]))
      ∧ (m.h0.getLsbD 48 = false → s.acts m.rid = true → s.coreExists m.rid core = true → (s.coreSt k).fenced = false →
          PortIdle s k → NoAck s m.rid core →
        let j := k * 256 + ctr
        let c := s.counter j
        (2 ≤ c.value.toNat → c.state ≠ 3#2 →
          ∃ t, exec .messageArrival s = .next t ∧ landed t ∧ t.net = rest ∧ CounterIs s t j { c with value := c.value - 1#32 }
            ∧ (∀ i, t.readyQ k i = s.readyQ k i) ∧ (3 ≤ scope → (t.clusterSt (clusterKey m.rid core)).cache = []))
        ∧ ∀ q : TaskRec, c.value = 1#32 → c.state = 1#2 → c.rep = false → c.bind = some q → q.cls ≠ 0 → q.cls ≤ 3 →
            Receives s m.rid core →
          ∃ t, exec .messageArrival s = .next t ∧ landed t ∧ t.net = rest
            ∧ CounterIs s t j { c with value := 0#32, state := 0#2, bind := none, fires := c.fires + 1#32 }
            ∧ Queued s t k q.cls
                { q with x12 := BitVec.ofNat 64 ctr, x13 := (c.fires + 1#32).zeroExtend 64, x14 := 0#64, x15 := 0#64 }))
  ∧ ∀ (s : State) (m : Msg) (rest : List Msg),
    let core := (m.h0.extractLsb' 0 20).toNat
    let k := coreKey m.rid core
    let sender := coreKey m.rid m.score
    s.cur.idx = 0 → s.net = m :: rest → m.ddev = 0xFFF → m.post = none → m.sdev = s.fabid → m.payload = [] → m.marks = [] →
      m.h0.getLsbD 48 = true → m.h0.extractLsb' 49 2 = 1#2 → Receives s m.rid core → s.serviceTurn m.rid core = true →
      ∀ q ∈ [ (Instr.trapRecordDispatch, 0xF0#8, 0xEF), (.svcDispatch, 0xF1#8, 0xEE) ],
        let e := s.handlers.get 0#64 (k * 256 + q.2.2)
        m.h0.extractLsb' 32 8 = q.2.1 → e.getLsbD 63 = true →
          ∃ t, exec q.1 s = .next t ∧ t.net = rest ∧ SameData s t ∧ (t.coreSt k).issued = 8
            ∧ (t.coreSt sender).outq = (s.coreSt sender).outq.filter (fun o => m.out != some o.id)
            ∧ Queued s t k 1
                { hix := q.2.2, cls := 1, x10 := m.a0, x11 := m.a1, x12 := m.a2, x13 := m.a3,
                  x14 := BitVec.ofNat 64 (m.score + m.sdev * 2 ^ 20 + (if m.h1.getLsbD 56 then 2 ^ 32 else 0)),
                  x15 := BitVec.ofNat 64 (m.h1.extractLsb' 0 18).toNat, entry := some e,
                  acq := max (State.cover m.score core) m.scope }

/-- R33, R259, R260: on a core whose event port is idle, each TRIG form does to counter x[a] what its row says, and a decrement to
zero of an ARMED counter fires: the fire count rises and a task is ready with the counter's index in x12 and the new fire count in
x13 (R30). Every other counter keeps its state.

R33: after an enable the held decrements are applied one at a time: each takes one from the count that is owed and one from the
counter's value, and the last ends the debt. -/
def Obligations.TriggerCounters : Prop :=
  (∀ (s : State) (d a b c : BitVec 5), Quiet s → PortIdle s s.ck →
    let ix := (s.rx a).toNat
    let j := s.ck * 256 + ix
    let k := s.counter j
    let v := (s.rx b).extractLsb' 0 32
    let r := (s.rx c).extractLsb' 0 32
    let w := s.rx b
    let rec_ : TaskRec :=
      { hix := (w.extractLsb' 0 8).toNat, cls := (w.extractLsb' 8 2).toNat, steal := w.getLsbD 10, x10 := s.rx c,
        x11 := s.rx (c + 1#5), pusher := s.cur.core }
    let armed (rep : Bool) : Counter :=
      { k with p := 0, fires := 0#32, value := v, reload := r, rep := rep, state := if k.bind.isSome then 1#2 else 0#2 }
    let only (t : State) (cs : Bool) : Prop :=
      SlotMoves s t (s.pc + 4#64) (s.me.safecnt + 1) 0#5 ∧ (cs = true → CoreCounts s t) ∧ (∀ i, t.frameSt i = s.frameSt i)
        ∧ t = { s with counters := t.counters, slots := t.slots, cores := t.cores, frames := t.frames }
    ix < 248 →
      ((s.rx b).extractLsb' 32 32 = 0#32 → v ≠ 0#32 → k.state ≠ 3#2 →
        (∃ t, exec (.tarm a b c) s = .next t ∧ CounterIs s t j (armed false) ∧ only t true)
        ∧ (r ≠ 0#32 → ∃ t, exec (.tarmRep a b c) s = .next t ∧ CounterIs s t j (armed true) ∧ only t true))
      ∧ (w.extractLsb' 11 53 = 0#53 → w.extractLsb' 8 2 ≠ 0#2 → (w.extractLsb' 0 8).toNat < 0xF0 → k.state = 0#2 →
          ∃ t, exec (.tbind a b c) s = .next t ∧ CounterIs s t j { k with state := 1#2, bind := some rec_ } ∧ only t true)
      ∧ (k.state = 1#2 → ∃ t, exec (.tunbind a) s = .next t ∧ CounterIs s t j { k with state := 0#2, bind := none } ∧ only t true)
      ∧ (k.state ≠ 3#2 → ∃ t, exec (.tdis a) s = .next t ∧ CounterIs s t j { k with state := 3#2, zero := false } ∧ only t true)
      ∧ (k.state = 3#2 → k.p = 0 → k.zero = false →
          ∃ t, exec (.ten a) s = .next t
            ∧ CounterIs s t j { k with state := if k.bind.isSome then 1#2 else 0#2, owed := k.held, held := 0 }
            ∧ (t.coreSt s.ck).owing = (if 0 < k.held then some ix else none) ∧ only t false)
      ∧ (2 ≤ k.value.toNat → k.state ≠ 3#2 →
          ∃ t, exec (.tdec a) s = .next t ∧ CounterIs s t j { k with value := k.value - 1#32 } ∧ only t true)
      ∧ (∀ q : TaskRec, k.value = 1#32 → k.state = 1#2 → k.rep = false → k.bind = some q → q.cls ≠ 0 → q.cls ≤ 3 →
          (s.coreSt s.ck).hold = [] → s.freshCount s.ck < 64 →
          ∃ t, exec (.tdec a) s = .next t
            ∧ CounterIs s t j { k with value := 0#32, state := 0#2, bind := none, fires := k.fires + 1#32 }
            ∧ Queued s t s.ck q.cls
                { q with x12 := BitVec.ofNat 64 ix, x13 := (k.fires + 1#32).zeroExtend 64, x14 := 0#64, x15 := 0#64 }
            ∧ only t false)
      ∧ (∃ t, exec (.tclrf a) s = .next t ∧ CounterIs s t j { k with exc := false, ovf := false } ∧ only t true)
      ∧ (∃ t, exec (.tstat d a) s = .next t ∧ WroteX s t d (BitVec.ofNat 64 (k.held * 2 ^ 48 + (if k.ovf then 2 ^ 44 else 0)
            + (if k.exc then 2 ^ 43 else 0) + (if k.rep then 2 ^ 42 else 0) + k.state.toNat * 2 ^ 40 + k.p * 2 ^ 32 + k.value.toNat))
            (s.pc + 4#64) 0#5)
      ∧ ∃ t, exec (.tfcnt d a) s = .next t ∧ WroteX s t d (k.fires.zeroExtend 64) (s.pc + 4#64) 0#5)
  ∧ ∀ (s : State) (ix : Nat),
    let k := coreKey s.cur.rid s.cur.core
    let j := k * 256 + ix
    let c := s.counter j
    s.acts s.cur.rid = true → (s.coreSt k).owing = some ix → (s.coreSt k).evq = [] → c.state ≠ 3#2 → 2 ≤ c.value.toNat → 1 ≤ c.owed →
      ∃ t, exec .heldDecrement s = .next t ∧ CounterIs s t j { c with owed := c.owed - 1, value := c.value - 1#32 }
        ∧ (t.coreSt k).owing = (if c.owed = 1 then none else some ix) ∧ SameData s t ∧ t.slots = s.slots ∧ t.net = s.net

/-- R28, R260, R263, R41: HBIND writes a handler-table entry with no reserved bit; SPAWN pushes the task record of x[a], x[b] and
x[c] at the owner end of the deque and writes 0 to x[d], or writes 1 and pushes nothing when 192 records are there; DQCNT writes
their number. -/
def Obligations.HandlersAndSpawns : Prop :=
  ∀ (s : State) (d a b c : BitVec 5), Quiet s →
    (PortIdle s s.ck → (s.rx a).toNat < 0xF0 → s.rx b &&& 0x7FFF00F0003C0001#64 = 0#64 →
        (∀ r ∈ (s.coreSt s.ck).unclaimed, r.hix ≠ (s.rx a).toNat) →
        ∃ t, exec (.hbind a b) s = .next t
          ∧ (∀ i, t.handlers.get 0#64 i = if i = s.ck * 256 + (s.rx a).toNat then s.rx b else s.handlers.get 0#64 i)
          ∧ SlotMoves s t (s.pc + 4#64) (s.me.safecnt + 1) 0#5 ∧ CoreCounts s t ∧ SameData s t)
    ∧ (let w := s.rx a
      w.extractLsb' 11 53 = 0#53 → w.extractLsb' 8 2 ≠ 0#2 → (w.extractLsb' 0 8).toNat < 0xF0 → (s.coreSt s.ck).spilled = 0 →
        (s.coreSt s.ck).deque.length < 64 →
        ∃ t, exec (.spawn d a b c) s = .next t ∧ XIs s t d 0#64 ∧ SlotMoves s t (s.pc + 4#64) (s.me.safecnt + 1) 0#5
          ∧ (t.coreSt s.ck).deque = (s.coreSt s.ck).deque ++
              [{ hix := (w.extractLsb' 0 8).toNat, cls := (w.extractLsb' 8 2).toNat, steal := w.getLsbD 10, x10 := s.rx b,
                 x11 := s.rx c, x14 := BitVec.ofNat 64 s.cur.core, pusher := s.cur.core }]
          ∧ t.mem = s.mem ∧ (∀ k, k ≠ s.ck → t.coreSt k = s.coreSt k))
    ∧ (let w := s.rx a
      w.extractLsb' 11 53 = 0#53 → w.extractLsb' 8 2 ≠ 0#2 → (w.extractLsb' 0 8).toNat < 0xF0 →
        192 ≤ (s.coreSt s.ck).deque.length + (s.coreSt s.ck).spilled →
        ∃ t, exec (.spawn d a b c) s = .next t ∧ WroteX s t d 1#64 (s.pc + 4#64) 0#5)
    ∧ ∃ t, exec (.dqcnt d) s = .next t
        ∧ WroteX s t d (BitVec.ofNat 64 ((s.coreSt s.ck).deque.length + (s.coreSt s.ck).spilled)) (s.pc + 4#64) 0#5

/-! ### The scheduler's events (R29, R30, R38 to R44, R49) -/

/-- R29, R30, R38: a free slot takes the task at the head of the urgent queue with the free frame that the turn names: the program
counter is the ENTRY of its handler (bit 0 of it, reserved, taken as 0: the model's choice, log 134), x2 the end of the frame, x10 to x15 the task's values, every other x register, f register
and predicate zero, FRM RNE and FFLAGS clear, and the claim empty. The start is an acquire at the scope that the task carries:
at .die or wider the core's cluster cache is empty after it (R70, R85).

R39, R40, R49: a task leaves the creation hold for the end of its class's queue once there is room; a normal task that has been
ready for 65,536 cycles joins the end of the urgent queue; an evicted task whose wait is over joins the queue of its class. -/
def Obligations.TasksStart : Prop :=
  (∀ (s : State) (r : TaskRec) (rest : List ReadyItem) (e : Word),
    let rid := s.cur.rid
    let core := s.cur.core
    let k := coreKey rid core
    let sk := unitKey rid core s.cur.slot
    let fk := unitKey rid core s.cur.sub
    let x (t : State) (i : Nat) : Word := t.xregs.get 0#64 (sk * 32 + i)
    (s.realm rid).state = 1 → s.power = 0 → s.coreExists rid core = true → (s.coreSt k).fenced = false → s.cur.slot < 8 →
      (s.slotSt sk).busy = false → s.cur.sub < 16 → (s.frameSt fk).used = false → (s.coreSt k).urgent = .fresh r :: rest →
      r.entry = some e →
      ∃ t, exec .taskStart s = .next t ∧ (t.coreSt k).urgent = rest
        ∧ t.slotSt sk = { busy := true, frame := s.cur.sub, pc := BitVec.ofNat 64 (2 * (e.extractLsb' 1 17).toNat), hix := r.hix, cls := r.cls,
                          steal := r.steal, entry := e, grp := r.grp, since := s.clock }
        ∧ x t 2 = BitVec.ofNat 64 (0x28000 + 0x800 * s.cur.sub + 0x800) ∧ x t 10 = r.x10 ∧ x t 11 = r.x11 ∧ x t 12 = r.x12
        ∧ x t 13 = r.x13 ∧ x t 14 = r.x14 ∧ x t 15 = r.x15
        ∧ (∀ i, i < 32 → i ≠ 2 → (i < 10 ∨ 15 < i) → x t i = 0#64)
        ∧ (∀ i, i < 32 → t.fregs.get 0#32 (sk * 32 + i) = 0#32) ∧ (∀ i, i < 8 → t.pregs.get 0#64 (sk * 8 + i) = 0#64)
        ∧ (t.frameSt fk).used = true ∧ (t.frameSt fk).width = 0 ∧ t.mem = s.mem
        ∧ (3 ≤ r.acq → (t.clusterSt (clusterKey rid core)).cache = []))
  ∧ ∀ (s : State) (r : TaskRec),
    let k := coreKey s.cur.rid s.cur.core
    s.acts s.cur.rid = true →
    (∀ rest, (s.coreSt k).hold = r :: rest → s.freshCount k < 64 → (s.coreSt k).evq = [] → r.cls ≠ 0 → r.cls ≤ 3 →
      ∃ t, exec .creationHoldRelease s = .next t ∧ (t.coreSt k).hold = rest ∧ Queued s t k r.cls r ∧ SameData s t)
    ∧ (∀ rest, (s.coreSt k).normal = .fresh r :: rest → r.since + 65536 ≤ s.clock →
      ∃ t, exec .taskPromotion s = .next t ∧ (t.coreSt k).normal = rest
        ∧ (t.coreSt k).urgent = (s.coreSt k).urgent ++ [.fresh { r with cls := 1 }] ∧ SameData s t)
    ∧ (let fk := unitKey s.cur.rid s.cur.core s.cur.sub
      s.cur.sub < 16 → (s.frameSt fk).used = true → (s.frameSt fk).evicted = true → (s.frameSt fk).ready = false →
        (s.frameSt fk).wait = .stall → (s.frameSt fk).cls = 1 → NoLines s s →
        ∃ t, exec .evictedTaskReady s = .next t ∧ (t.coreSt k).urgent = (s.coreSt k).urgent ++ [.resumed s.cur.sub s.clock]
          ∧ (t.frameSt fk).ready = true ∧ SameData s t)

/-- R43, R44, R42: an idle core asks the next victim of its rotation; the victim hands over the stealable record at the far end of
its deque, which goes to the owner end of the thief's, or refuses; the refusal of the last victim of the
rotation sets the end of its pause to 256 cycles from then, before which it does not begin again, and after which it does. Where the
rotation stands after a hand-over is the model's choice (log 119). -/
def Obligations.Stealing : Prop :=
  ∀ (s : State) (r : TaskRec) (rest : List TaskRec) (p : Nat),
    let rid := s.cur.rid
    let core := s.cur.core
    let k := coreKey rid core
    let c := s.coreSt k
    let vk := coreKey rid (coreAtClusterPos core p)
    ((s.realm rid).state = 1 → s.power = 0 → s.coreExists rid core = true → c.urgent = [] → c.normal = [] → c.backgr = [] →
      c.deque = [] → c.spilled = 0 → c.fenced = false → (s.slotSt (unitKey rid core 0)).busy = false →
      (s.frameSt (unitKey rid core 0)).used = false → c.stealTo = none → c.refusals < 31 →
      ∃ t, exec .stealRequest s = .next t ∧ (t.coreSt k).stealTo = some ((clusterPos core + 1 + c.refusals) % 32)
        ∧ t = { s with cores := t.cores })
    ∧ (31 ≤ c.refusals → c.backoff ≤ s.clock →
      ∃ t, exec .stealBackoff s = .next t ∧ (t.coreSt k).refusals = 0 ∧ t = { s with cores := t.cores })
    ∧ (31 ≤ c.refusals → s.clock < c.backoff → exec .stealBackoff s = .next s ∧ exec .stealRequest s = .next s)
    ∧ (s.acts rid = true → c.stealTo = some p → vk ≠ k → (s.coreSt vk).spilled = 0 →
      ((s.coreSt vk).deque = r :: rest → r.steal = true → c.deque = [] →
        ∃ t, exec .stealHandover s = .next t ∧ (t.coreSt vk).deque = rest ∧ (t.coreSt k).deque = [r]
          ∧ (t.coreSt k).stealTo = none ∧ (t.coreSt k).refusals = 0 ∧ t = { s with cores := t.cores })
      ∧ ((s.coreSt vk).deque = [] →
        ∃ t, exec .stealHandover s = .next t ∧ (t.coreSt k).stealTo = none ∧ (t.coreSt k).refusals = c.refusals + 1
          ∧ (t.coreSt k).backoff = (if 31 ≤ c.refusals + 1 then s.clock + 256 else 0) ∧ t = { s with cores := t.cores }))

/-! ### Remote accesses, buffers, waits (R53, R71, R72, R82, R88, R256) -/

/-- R53, R82, R247, R37: the owner's service slot, when the rotation comes to it, performs a load, a store or an atomic of another core on
its LM and answers; the bytes that ride with a load replace the owner's in the answer, which ends the wait of the task that asked.

R71, R88, R67: 1,024 cycles after its first store an entry of the combining buffer leaves for its home; the home's memory agent
writes the enabled bytes and no other, as accesses under the request's key read them. -/
def Obligations.RemoteAccesses : Prop :=
  (∀ (s : State) (r : RemReq) (p : Reply),
    let a := lmAddr r.rid r.core r.off
    let answered (t : State) (v : Nat) : Prop :=
      t.rnet = [] ∧ t.replies = s.replies ++ [{ rid := r.rid, core := r.src, id := r.id, val := v }]
        ∧ (t.coreSt (coreKey r.rid r.core)).issued = 8
    (s.cur.idx = 0 → s.rnet = [r] → s.acts r.rid = true → (s.coreSt (coreKey r.rid r.core)).fenced = false →
      r.elem = false → s.serviceTurn r.rid r.core = true →
      (r.op = .load → UnpoisonedAt s a r.size →
        ∃ t v, exec .remoteAccess s = .next t ∧ answered t v ∧ v < 256 ^ r.size
          ∧ (∀ i, i < r.size → BitVec.ofNat 8 (v / 256 ^ i) =
              ((r.fwd.find? fun q => q.1 == i).map (·.2)).getD (s.mem.get memDefault (a + i)))
          ∧ SameData s t)
      ∧ (∀ bs : List Byte, r.op = .store bs → r.mark = false →
        ∃ t, exec .remoteAccess s = .next t ∧ answered t 0
          ∧ ∀ x, t.mem.get memDefault x = if a ≤ x ∧ x < a + bs.length then bs.getD (x - a) 0#8 else s.mem.get memDefault x)
      ∧ ∀ v : Nat, r.op = .amo .add v 0 → UnpoisonedAt s a r.size →
        ∃ t, exec .remoteAccess s = .next t ∧ answered t (numberAt s a r.size)
          ∧ StoredAt s t a r.size ((numberAt s a r.size + v) % 2 ^ (8 * r.size)) ∧ t.xregs = s.xregs)
    ∧ (s.cur.idx = 0 → s.cur.sub = 0 → s.replies = [p] → s.acts p.rid = true → p.code = 0 →
      p.elem = none →
      let sk := unitKey p.rid p.core 0
      (s.slotSt sk).busy = true → (s.slotSt sk).frame = 0 → (s.slotSt sk).wait = .load p.id →
        ∃ t, exec .remoteReply s = .next t ∧ t.replies = []
          ∧ (∀ k, t.slotSt k = if k = sk then { s.slotSt sk with wait := .loaded p.id p.val } else s.slotSt k)
          ∧ (t.coreSt (coreKey p.rid p.core)).outq = (s.coreSt (coreKey p.rid p.core)).outq.filter (·.id != p.id)
          ∧ SameData s t))
  ∧ ∀ (s : State),
    let k := coreKey s.cur.rid s.cur.core
    (∀ (e : CbEnt) (pdie tier off key : Nat) (mc : Bool), s.acts s.cur.rid = true → s.cur.idx = 0 → (s.coreSt k).cbuf = [e] →
      e.loc = .dev pdie tier off key mc → e.born + 1024 ≤ s.clock →
      ∃ t, exec .combiningDrainTimeout s = .next t ∧ (t.coreSt k).cbuf = []
        ∧ t.agentQ = s.agentQ ++ [{ rid := s.cur.rid, core := s.cur.core, loc := e.loc, va := e.va, bytes := e.bytes, marks := e.marks }]
        ∧ SameData s t)
    ∧ ∀ (r : AgentReq) (pdie tier off key : Nat) (mc : Bool), s.cur.inp.far = none → s.cur.idx = 0 → s.agentQ = [r] →
      s.acts r.rid = true → r.loc = .dev pdie tier off key mc → (∀ p ∈ r.bytes, ∀ q ∈ r.bytes, p.1 = q.1 → p = q) → r.marks = [] →
      let a := devAddr pdie tier off
      ∃ t, exec .memoryAgentRequest s = .next t ∧ t.agentQ = []
        ∧ (∀ p ∈ r.bytes, t.rdByte (a + p.1) key = p.2)
        ∧ (∀ x, (∀ p ∈ r.bytes, x ≠ a + p.1) → t.rdByte x key = s.rdByte x key)
        ∧ (∀ x, (∀ p ∈ r.bytes, x / 16 ≠ (a + p.1) / 16) → t.mem.get memDefault x = s.mem.get memDefault x)
        ∧ t.xregs = s.xregs ∧ t.slots = s.slots

/-- R256: the report of a write to a watched line, or 4,096 cycles since the last read, makes a waiting task read again; R72, R379:
the end of a page walk ends the wait of every slot of the clusters that asked for it, and a fault that the walk has found is then the fault
of their instructions. -/
def Obligations.WaitsEnd : Prop :=
  ∀ (s : State) (l : Loc) (a thr : Nat),
    (∀ w : Watch, s.cur.idx = 0 → s.cur.sub ≠ 1 → s.reports = [w] → s.acts w.rid = true →
      let sk := unitKey w.rid w.core 0
      (s.slotSt sk).busy = true → (s.slotSt sk).frame = w.frame → (s.slotSt sk).wait = .watch l a thr false →
        ∃ t, exec .writeReport s = .next t ∧ t.reports = []
          ∧ (∀ k, t.slotSt k = if k = sk then { s.slotSt sk with wait := .again l a thr false } else s.slotSt k) ∧ SameData s t)
    ∧ (let sk := unitKey s.cur.rid s.cur.core 0
      s.acts s.cur.rid = true → s.power = 0 → s.cur.sub < 16 → (s.slotSt sk).busy = true → (s.slotSt sk).frame = s.cur.sub →
        (s.slotSt sk).since + 4096 ≤ s.clock → (s.slotSt sk).wait = .watch l a thr false →
        ∃ t, exec .waitTimeout s = .next t
          ∧ (∀ k, t.slotSt k = if k = sk then { s.slotSt sk with wait := .again l a thr false } else s.slotSt k) ∧ SameData s t)
    ∧ ∀ w : Walk, s.cur.sub ≠ 1 → s.acts s.cur.rid = true → (s.dieSt (dieKey s.cur.rid s.cur.die)).walks = [w] → s.cur.idx = 0 →
        ∃ t, exec .pageWalkComplete s = .next t
          ∧ ∀ core slot, coreDie core = s.cur.die → core < 2 ^ 20 → slot < 16 → w.clusters.contains (clusterIx core) = true →
              (t.slotSt (unitKey s.cur.rid core slot)).wait ≠ .walk w.page
              ∧ ∀ code detail info, w.leaf = none → w.fault = some (code, detail, info) →
                  (s.slotSt (unitKey s.cur.rid core slot)).wait = .walk w.page →
                  (t.slotSt (unitKey s.cur.rid core slot)).wait = .walkFault w.page code detail info

/-! ### Rings, the halo exchange, barriers (R175 to R177, R261, R262, R303 to R307) -/

/-- R303, R304, R307: RSET defines a handle with every slot free; RWAITF and RWAITE go on when FILL or FREE reaches n, and wait
otherwise; RADVP and RADVC move n slots between FREE and FILL and TAIL or HEAD round the ring; RSTAT writes the handle's words to
x[d]; an undefined handle traps with RESVAL. That it does so also where n is reserved too is the model's choice (log 37). -/
def Obligations.Rings : Prop :=
  ∀ (s : State) (d : BitVec 4) (x a b : BitVec 5), Quiet s → PortIdle s s.ck →
    let h := s.ck * 16 + d.toNat
    let r := s.ring h
    let n := (s.rx a).toNat
    let base := (s.rx a).toNat
    let sz := ((s.rx b).extractLsb' 8 8).toNat
    let cnt := ((s.rx b).extractLsb' 16 9).toNat
    let put (t : State) (q : Ring) : Prop :=
      (∀ i, t.ring i = if i = h then q else s.ring i) ∧ SlotMoves s t (s.pc + 4#64) (s.me.safecnt + 1) 0#5 ∧ CoreCounts s t
        ∧ SameData s t ∧ t.net = s.net
    (base < 2 ^ 18 → base % 64 = 0 → (s.rx b).extractLsb' 25 39 = 0#39 → (s.rx b).extractLsb' 0 8 = 0#8 → 1 ≤ sz → sz ≤ 64 →
      1 ≤ cnt → cnt ≤ 256 → base + 64 * sz * cnt ≤ 0x27000 →
      ∃ t, exec (.rset d a b) s = .next t
        ∧ put t { base := base, slotsz := sz, count := cnt, fill := 0, free := cnt, head := 0, tail := 0 })
    ∧ (r.count ≠ 0 →
      (∀ q ∈ [(Instr.rwaitf d a, r.fill, false), (.rwaite d a, r.free, true)],
        (n ≤ q.2.1 → n ≤ r.count → NoAck s s.cur.rid s.cur.core →
          ∃ t, exec q.1 s = .next t ∧ SlotMoves s t (s.pc + 4#64) 0 0#5 ∧ CoreCounts s t ∧ SameData s t ∧ t.rings = s.rings)
        ∧ (q.2.1 < n → n ≤ r.count → Calm s →
          ∃ t, exec q.1 s = .next t ∧ t.me.pc = s.pc ∧ t.me.busy = s.me.busy ∧ t.me.wait = .ring d.toNat q.2.2 n ∧ SameData s t
            ∧ t.rings = s.rings))
      ∧ (n ≤ r.free → ∃ t, exec (.radvp d a) s = .next t
          ∧ put t { r with tail := (r.tail + n) % r.count, fill := r.fill + n, free := r.free - n })
      ∧ (n ≤ r.fill → ∃ t, exec (.radvc d a) s = .next t
          ∧ put t { r with head := (r.head + n) % r.count, fill := r.fill - n, free := r.free + n }))
    ∧ (∃ t, exec (.rstat x d) s = .next t ∧ WroteX s t x (BitVec.ofNat 64 (r.base * 2 ^ 46 + r.tail * 2 ^ 38 + r.head * 2 ^ 30
        + r.free * 2 ^ 21 + r.fill * 2 ^ 12 + r.slotsz * 2 ^ 5)) (s.pc + 4#64) 0#5)
    ∧ (SingleFault s → r.count = 0 → ∀ i ∈ [Instr.rwaitf d a, .rwaite d a, .radvp d a, .radvc d a],
        ∃ t, exec i s = .next t ∧ TrapTaken s t 4 0x02 0x37 d.toNat 0)

/-- R305, R306: HALO with one direction selected packs that border of the tile that its record describes, row by row, padded with
zeros to 64-byte units, and sends it to the neighbour in that direction as a class-2 message for the neighbour's mailbox counter,
with POFF the record's offset for the direction. -/
def Obligations.HaloExchange : Prop :=
  ∀ (s : State) (a b : BitVec 5) (dir c : Nat), Quiet s → s.poison = [] → (s.coreSt s.ck).outq = [] →
    let off := (s.rx a).toNat
    let n := lmNumber s off 32
    let field (lo w : Nat) : Nat := n / 2 ^ lo % 2 ^ w
    let tbase := field 0 18
    let pitch := field 32 16
    let cols := field 64 16
    let rows := field 80 16
    let dh := field 104 8
    let dw := field 112 16
    let border : Nat × Nat × Nat × Nat :=
      if dir = 0 then (0, dh, 0, cols) else if dir = 1 then (0, rows, cols - dw, dw)
      else if dir = 2 then (rows - dh, dh, 0, cols) else (0, rows, 0, dw)
    let size := border.2.1 * border.2.2.2
    let units := (size + 63) / 64
    let poff := if dir = 0 then field 128 18 else if dir = 1 then field 192 18 else if dir = 2 then field 160 18 else field 224 18
    let ctr := if dir = 0 then 254 else if dir = 1 then 255 else if dir = 2 then 252 else 253
    dir < 4 → s.rx b = BitVec.ofNat 64 (2 ^ dir) → off % 32 = 0 → off + 32 ≤ 0x30000 → firstFlt (haloChecks n [dir]) = none →
      neighbour s.cur.core dir = some c →
      ∃ (t : State) (bs : List Byte), exec (.halo a b) s = .next t
        ∧ t.net = s.net ++ [
            { rid := s.cur.rid, sdev := s.fabid, score := s.cur.core,
              h0 := BitVec.ofNat 64 (units * 2 ^ 51 + 2 * 2 ^ 49 + ctr * 2 ^ 40 + 0xFFF * 2 ^ 20 + c),
              h1 := BitVec.ofNat 64 (s.cur.rid * 2 ^ 50 + s.fabid * 2 ^ 38 + s.cur.core * 2 ^ 18 + poff),
              payload := bs, out := some (s.coreSt s.ck).outNext } ]
        ∧ bs.length = 64 * units
        ∧ (∀ i, i < 64 * units → bs.getD i 0#8 =
            if i < size then s.mem.get memDefault
              (ownLm s (tbase + (border.1 + i / border.2.2.2) * pitch + border.2.2.1 + i % border.2.2.2)) else 0#8)
        ∧ SlotMoves s t (s.pc + 4#64) (s.me.safecnt + 1) 0#5 ∧ SameData s t

/-- R175, R176, R261, R262: with a descriptor in the issuing core's own LM whose scope is the form's and whose N is above the rank, BAR,
BARA and ELECT send an arrival and wait for the reply; BARA, which holds its slot meanwhile, then writes the arrival's episode, BAR and ELECT end when their
episode completes, ELECT with 1 exactly for the least election rank; BARW goes on when the group's episode is complete, and waits while it is not.

R176, R177, R262: an instance counts an arrival and replies with its episode; at the first arrival of an episode it takes N and PORT from
the descriptor as it reads it; the arrival that makes the count N completes the
episode, with the least election rank, and begins the next. The reply and the completion reach the waiting task; a done flit
completes the episode of the instance that sent its arrive flit; that it is one of the turn's realm is the model's choice (log 54). -/
def Obligations.Barriers : Prop :=
  (∀ (s : State) (d a b : BitVec 5) (c : BitVec 3) (off : Nat), Quiet s → c.toNat ≤ 5 →
    let g := (s.rx a).toNat
    let r := (s.rx b).toNat
    let desc := lmNumber s off 8
    let done (sc : Nat) (t : State) : Prop :=
      SlotMoves s t (s.pc + 4#64) sc 0#5 ∧ (NoAck s s.cur.rid s.cur.core → CoreCounts s t) ∧ t.mem = s.mem
        ∧ ∀ k, t.clusterSt k = if k = s.clk ∧ 3 ≤ c.toNat then { s.clusterSt s.clk with cache := [] } else s.clusterSt k
    (g < 256 → r < 2 ^ 24 - 1 → Calm s →
      OwnLm s (BitVec.ofNat 64 (s.myRealm.bart.toNat + 8 * g)) 8 off → s.myRealm.bart.toNat + 8 * g < 2 ^ 64 → Unpoisoned s off 8 →
      desc / 2 ^ 37 = 0 → desc / 8 % 32 = 0 → desc % 8 = c.toNat → 1 ≤ desc / 2 ^ 8 % 2 ^ 24 →
      (c.toNat = 5 ∨ r < desc / 2 ^ 8 % 2 ^ 24) →
      ∀ q ∈ [(Instr.bar a b c, none, Wait.barReply g none), (.bara d a b c, none, .bara g), (.elect d a b c, some r, .barReply g none)],
        ∃ t, exec q.1 s = .next t ∧ t.me.pc = s.pc ∧ t.me.wait = q.2.2 ∧ SameData s t
          ∧ t.barNet = s.barNet ++ [{ rid := s.cur.rid, core := s.cur.core, frame := s.me.frame, group := g, scope := c.toNat,
                                      elect := q.2.1, desc := desc }])
    ∧ (∀ e rank, s.me.wait = .barDone g e rank →
        (∃ t, exec (.bar a b c) s = .next t ∧ done 0 t ∧ t.xregs = s.xregs)
        ∧ ∃ t, exec (.elect d a b c) s = .next t ∧ done (s.me.safecnt + 1) t ∧ XIs s t d (if rank = r then 1#64 else 0#64))
    ∧ (∀ e, s.me.wait = .answer e → ∃ t, exec (.bara d a b c) s = .next t ∧ WroteX s t d e (s.pc + 4#64) 0#5)
    ∧ (∀ h, s.me.wait = .bara h → ∃ t, exec (.bara d a b c) s = .next t ∧ t.me.pc = s.pc ∧ t.me.wait = .bara h ∧ SameData s t)
    ∧ (g < 256 → (s.doneTab.get 0xFFFFFFFF#32 (s.ck * 256 + g) - (s.rx b).extractLsb' 0 32).toNat < 2 ^ 31 →
        ∃ t, exec (.barw a b c) s = .next t ∧ done 0 t ∧ t.xregs = s.xregs)
    ∧ (g < 256 → Calm s → 2 ^ 31 ≤ (s.doneTab.get 0xFFFFFFFF#32 (s.ck * 256 + g) - (s.rx b).extractLsb' 0 32).toNat →
        ∃ t, exec (.barw a b c) s = .next t ∧ t.me.pc = s.pc ∧ t.me.busy = s.me.busy
          ∧ t.me.wait = .barWait g ((s.rx b).toNat % 2 ^ 32) none ∧ SameData s t ∧ t.barNet = s.barNet ∧ t.clusters = s.clusters))
  ∧ ∀ (s : State),
    (∀ m : BarArr, s.cur.idx = 0 → s.barNet = [m] → m.scope ≤ 4 → m.gates = none →
      let key := instKey m.rid m.group m.scope m.core
      let i := s.barInsts.get {} key
      let rank := match m.elect with
        | some r => min i.rank r
        | none => i.rank
      let counts (n port : Nat) : Prop :=
        ∃ t, exec .barrierArrival s = .next t ∧ t.barNet = [] ∧ SameData s t
          ∧ t.barReps = s.barReps ++ [{ rid := m.rid, core := m.core, frame := m.frame, group := m.group, episode := i.episode }]
          ∧ (i.count + 1 ≠ n → t.barDones = s.barDones
              ∧ t.barInsts.get {} key = { i with n := n, port := port, count := i.count + 1, rank := rank })
          ∧ (i.count + 1 = n → t.barInsts.get {} key = { episode := i.episode + 1#32 }
              ∧ t.barDones = s.barDones ++ [{ rid := m.rid, group := m.group, scope := m.scope, at_ := m.core, episode := i.episode,
                                              rank := rank, k := 8 }])
      i.list = none →
      (1 ≤ i.count → i.n < 2 ^ 24 → i.port < 32 → counts i.n i.port)
      ∧ ∀ core off, i.count = 0 → (s.realm m.rid).bart.toNat + 8 * m.group = 0xFE * 2 ^ 48 + core * 2 ^ 18 + off → off % 8 = 0 →
          off + 8 ≤ 0x30000 → core < 2 ^ 20 → s.coreExists m.rid core = true →
          let desc := numberAt s (lmAddr m.rid core off) 8
          counts (desc / 2 ^ 8 % 2 ^ 24) (desc / 2 ^ 32 % 32))
    ∧ (∀ (r : BarRep) (gate : Option (Nat × Nat)), s.cur.idx = 0 → s.barReps = [r] →
      let sk := unitKey r.rid r.core 0
      (s.slotSt sk).busy = true → (s.slotSt sk).frame = r.frame → (s.slotSt sk).wait = .barReply r.group gate →
      ∃ t, exec .barrierReply s = .next t ∧ t.barReps = [] ∧ SameData s t
        ∧ ∀ k, t.slotSt k = if k = sk then { s.slotSt sk with wait := .barWait r.group r.episode.toNat gate } else s.slotSt k)
    ∧ (∀ r : BarRep, s.cur.idx = 0 → s.barReps = [r] →
      let sk := unitKey r.rid r.core 0
      (s.slotSt sk).busy = true → (s.slotSt sk).frame = r.frame → (s.slotSt sk).wait = .bara r.group →
      ∃ t, exec .barrierReply s = .next t ∧ t.barReps = [] ∧ SameData s t
        ∧ ∀ k, t.slotSt k = if k = sk then { s.slotSt sk with wait := .answer (r.episode.zeroExtend 64) } else s.slotSt k)
    ∧ (∀ d : BarDone, s.cur.idx = 0 → s.barDones = [d] → s.barReps = [] → s.coreExists d.rid s.cur.core = true →
      sameInst d.scope d.at_ s.cur.core = true → d.served.contains s.cur.core = false →
      let key := coreKey d.rid s.cur.core * 256 + d.group
      let sk := unitKey d.rid s.cur.core 0
      d.episode = s.doneTab.get 0xFFFFFFFF#32 key + 1#32 → (s.slotSt sk).busy = true → (s.slotSt sk).frame < 16 →
      (s.slotSt sk).wait = .barWait d.group d.episode.toNat none →
      ∃ t, exec .completionMulticast s = .next t ∧ t.doneTab.get 0xFFFFFFFF#32 key = d.episode
        ∧ (t.slotSt sk).wait = .barDone d.group d.episode.toNat d.rank)
    ∧ ∀ (bs : List Byte) (rest : List (List Byte)), s.doneFlits = bs :: rest →
      let n := ofBytes (bs.take 11)
      let key := instKey s.cur.rid (n % 2 ^ 8) 5 0
      let i := s.barInsts.get {} key
      i.sent = true → i.episode.toNat = n / 2 ^ 8 % 2 ^ 32 → i.list = none →
      ∃ t, exec .barrierDoneFlit s = .next t ∧ t.doneFlits = rest ∧ t.barInsts.get {} key = { episode := i.episode + 1#32 }
        ∧ t.barDones = s.barDones ++ [{ rid := s.cur.rid, group := n % 2 ^ 8, scope := 5, at_ := 0, episode := i.episode,
                                        rank := n / 2 ^ 64 % 2 ^ 24, k := 8 }]

/-! ### The matrix engine and the copy unit (14_isa_matrix.md) -/

/-- R283, R284, R285 to R294, R307: a matrix command with valid operands joins the core's queue while fewer than 4 wait there, takes
the next job id, which MJOB then holds, and the task goes on; LM operands are own-LM addresses, taken as offsets. MWAIT goes on when
the job is complete, waits when it is not, and traps with MJABORT at an aborted job (R292, R374).

R169, R289, R287, R288, R291, R293, R294, R284, R96: a free engine takes the next command of the position whose turn it is; a 64-byte
chunk of its operands is read, at any time before the end; the running MMA's or MMAB's operand bytes are read, in LM order without
swizzle, and its operands-consumed descriptor acts; at completion ZCLR, ZLD, a ZST to any of its formats and a WLD, plain or from XPB
(R121, R122), have moved their bytes, an MMA or MMAB has written every element of its rows, the job is done, the engine is free, and the
completion descriptor has acted (R93, R296). That the chunks that are left are read in one step, and a result is written in one step, is
the model's choice (log 34). -/
def Obligations.Matrix : Prop :=
  (∀ (s : State) (d a b c : BitVec 5) (f q : BitVec 2) (r ty p : BitVec 3) (st buf : BitVec 1) (off offb offc : Nat),
    Quiet s → s.cur.core < 2 ^ 20 →
    let own (o : Nat) : Word := BitVec.ofNat 64 (0xFE * 2 ^ 48 + s.cur.core * 2 ^ 18 + o)
    let job := (s.coreSt s.ck).jobs + 1#32
    let queued (i : Instr) (cmd : MCmd) : Prop :=
      ∃ t, exec i s = .next t ∧ SlotMoves s t (s.pc + 4#64) (s.me.safecnt + 1) 0#5
        ∧ (∀ k, t.coreSt k = if k = s.ck then
            { s.coreSt s.ck with
              instret := (s.coreSt s.ck).instret + 1, jobs := job, mq := (s.coreSt s.ck).mq ++ [{ cmd := cmd, job := job }] }
            else s.coreSt k)
        ∧ (∀ k, t.frameSt k = if k = s.fk then { s.myFrame with mjob := job } else s.frameSt k)
        ∧ t = { s with slots := t.slots, cores := t.cores, frames := t.frames }
    ((s.coreSt s.ck).mq.length < 4 →
      queued (.zclr d f) (.zclr f.toNat d.toNat)
      ∧ (s.rx a = own off → off % 64 = 0 → off + 32 * (if f = 0#2 then 128 else 64) ≤ 0x30000 →
          queued (.zld d a f) (.zld f.toNat d.toNat off))
      ∧ (s.rx a = own off → off % 64 = 0 → off + (if ty = 0#3 then 4096 else if ty.toNat ≤ 2 then 2048 else 1024) ≤ 0x30000 →
          queued (.zst d a r f st ty) (.zst f.toNat d.toNat off ty.toNat (if r = 7#3 then s.me.frm.toNat else r.toNat) (st == 1#1)
            (s.coreSt s.ck).srseed))
      ∧ (s.rx a = own off → off % 64 = 0 → off + 16384 ≤ 0x30000 → s.rx c = own offc → offc % 64 = 0 → offc + 1024 ≤ 0x30000 → c ≠ 0#5 →
          queued (.wldPlain buf a c) (.wld 0 buf.toNat off 0 (some offc)) ∧ queued (.wldPlain buf a 0#5) (.wld 0 buf.toNat off 0 none))
      ∧ (s.rx a = own off → off < 0x30000 → s.rx b = own offb → offb % 4 = 0 → offb + 2052 ≤ 0x30000 →
          queued (.wldXpb4 buf a b 0#5) (.wld 1 buf.toNat off offb none) ∧ queued (.wldXpb5 buf a b 0#5) (.wld 2 buf.toNat off offb none))
      ∧ (let ctl := s.rx b
        let nr := ctl.toNat % 64
        s.rx a = own off → off % 64 = 0 → ctl &&& 0xFFFFFFFFC002C0C0#64 = 0#64 → 1 ≤ nr → nr ≤ 32 → ctl.toNat / 2 ^ 8 % 64 ≤ 32 →
          ctl.extractLsb' 18 2 ≠ 3#2 → ctl.getLsbD 24 = false → ctl.getLsbD 29 = false →
          (off + 512 * nr ≤ 0x30000 → queued (.mma d a b c q p) (.mma p.toNat q.toNat d.toNat off ctl (s.rf c).toNat (s.rf (c + 1#5)).toNat false))
          ∧ (off + 16384 + (if p = 6#3 then 32 else 16) * nr ≤ 0x30000 →
            queued (.mmab d a b c q p) (.mma p.toNat q.toNat d.toNat off ctl (s.rf c).toNat (s.rf (c + 1#5)).toNat true))))
    ∧ (let v := (s.rx a).toNat
      let k := s.coreSt s.ck
      let j := BitVec.ofNat 32 v
      v < 2 ^ 32 → (k.jobs - j).toNat < 2 ^ 31 →
        ((k.jdone - j).toNat < 2 ^ 31 → k.ajSet = false → NoAck s s.cur.rid s.cur.core →
          ∃ t, exec (.mwait a) s = .next t ∧ SlotMoves s t (s.pc + 4#64) 0 0#5 ∧ CoreCounts s t ∧ SameData s t)
        ∧ (2 ^ 31 ≤ (k.jdone - j).toNat → Calm s →
          ∃ t, exec (.mwait a) s = .next t ∧ t.me.pc = s.pc ∧ t.me.wait = .job j ∧ SameData s t)
        ∧ ((k.jdone - j).toNat < 2 ^ 31 → k.ajSet = true → (j - k.aj).toNat < 2 ^ 31 → SingleFault s →
          ∃ t, exec (.mwait a) s = .next t
            ∧ TrapTaken (s.modCore s.ck fun x => { x with ajSet := false }) t 4 0x09 0 0 k.aj.toNat)))
  ∧ (∀ (s : State) (p : Nat) (j : MJob) (rest : List MJob),
    let core := coreAtOctetPos s.cur.core p
    let k := coreKey s.cur.rid core
    let eng (t : State) (o : Nat) : Byte := t.emem.get 0#8 (k * 65536 + o)
    let lm (o : Nat) : Byte := s.mem.get memDefault (lmAddr s.cur.rid core o)
    let src (o : Nat) : Byte := match j.got.find? (·.1 == o / 64) with
      | some g => g.2.1.getD (o % 64) 0#8
      | none => lm o
    let bytes (o n : Nat) : List Byte := (List.range n).map fun i => src (o + i)
    (s.coreSt k).mq = j :: rest →
    ((s.octetSt s.octk).running = none → (s.octetSt s.octk).arb = p → p < 8 →
      (s.octetSt s.octk).arbTaken < ((s.octetSt s.octk).weights[p]?.getD 1) →
      ∃ t, exec .matrixSelect s = .next t ∧ t.octetSt s.octk =
          { s.octetSt s.octk with running := some p, arbTaken := (s.octetSt s.octk).arbTaken + 1 }
        ∧ t = { s with octets := t.octets })
    ∧ ((s.octetSt s.octk).running = some p → s.poison = [] → s.epoison = [] → (∀ g ∈ j.got, g.2.2 = []) →
      (s.cur.sub ≠ 0 → s.cur.idx < 0xC00 → j.consumed = false → (∀ g ∈ j.got, g.1 ≠ s.cur.idx) →
        ∃ t, exec .operandsConsumed s = .next t ∧ t = { s with cores := t.cores }
          ∧ (t.coreSt k).mq = { j with got := j.got ++ [(s.cur.idx, (List.range 64).map fun i => lm (64 * s.cur.idx + i), [])] } :: rest)
      ∧ (∀ pair acc tile a ctl sa sb blk c off, j.cmd = .mma pair acc tile a ctl sa sb blk → j.consumed = false →
          ctl.extractLsb' 18 2 = 0#2 → s.cur.sub = 0 → DescCan s core j.odesc c off →
        ∃ t, exec .operandsConsumed s = .next t
          ∧ (t.coreSt k).mq = { j with consumed := true, got := []
                                       aBytes := bytes a (512 * (ctl.toNat % 64))
                                         ++ (if blk then bytes (a + 16384) ((if pair = 6 then 32 else 16) * (ctl.toNat % 64)) else [])
                                       fail := none } :: rest
          ∧ DescActs s t core j.odesc c off ∧ t.emem = s.emem ∧ t.xregs = s.xregs ∧ t.slots = s.slots)
      ∧ ∀ c off, DescCan s core j.cdesc c off →
        let finished (u t : State) : Prop :=
          exec .matrixComplete s = .next t ∧ (t.coreSt k).mq = rest ∧ (t.coreSt k).jdone = j.job
            ∧ (t.octetSt s.octk).running = none ∧ t.xregs = s.xregs ∧ t.slots = s.slots
            ∧ DescActs u t core j.cdesc c off ∧ u.cur = s.cur ∧ u.fabid = s.fabid ∧ u.net = s.net ∧ u.rings = s.rings
        (∀ pair acc tile a ctl sa sb blk, j.cmd = .mma pair acc tile a ctl sa sb blk → j.consumed = true → j.fail = none →
          ctl.toNat % 64 ≤ 32 → acc ≤ 2 → tile < 4 → pair ≤ 6 →
          ∃ u t, finished u t ∧ u.mem = s.mem
            ∧ ∀ i c, i < ctl.toNat % 64 → c < 32 →
              let fm := formFmt acc
              let w := fm.width / 8
              let at_ := tileRow acc tile i + w * c
              let old := ofBytes ((List.range w).map fun x => eng s (at_ + x))
              let buf := if i < ctl.toNat / 2 ^ 8 % 64 then 0 else 1
              let ns := if pair = 6 then 32 else 16
              ofBytes ((List.range w).map fun x => eng t (at_ + x)) =
                mmaElem fm (if ctl.getLsbD 16 then .fin false 0 0 else fm.val old) sa sb pair ((j.aBytes.drop (512 * i)).take 512)
                  ((List.range 512).map fun x => eng s (wbufAt buf + 512 * c + x))
                  (if blk then some fun e => ((j.aBytes.getD (512 * (ctl.toNat % 64) + ns * i + e / 32) 0#8).toNat,
                      (eng s (scaleAt buf + 32 * c + e / 32)).toNat) else none) % 2 ^ fm.width)
        ∧ (∀ form tile, j.cmd = .zclr form tile →
          ∃ u t, finished u t ∧ u.mem = s.mem ∧ ∀ o, o < 65536 → eng t o =
            if tileRow form tile 0 ≤ o ∧ o < tileRow form tile 0 + 32 * formRow form then 0#8 else eng s o)
        ∧ (∀ form tile a, j.cmd = .zld form tile a →
          ∃ u t, finished u t ∧ u.mem = s.mem ∧ ∀ o, o < 65536 → eng t o =
            if tileRow form tile 0 ≤ o ∧ o < tileRow form tile 0 + 32 * formRow form then src (a + (o - tileRow form tile 0)) else eng s o)
        ∧ (∀ form tile dst dfmt rm sat seed, j.cmd = .zst form tile dst dfmt rm sat seed → form ≤ 2 → dfmt ≤ 4 → rm ≤ 4 →
          let f := formFmt form
          let g := ([Fmt.f32, .bf16, .f16, .e4m3, .e5m2][dfmt]?).getD .f32
          let n := g.width / 8
          ∃ u t, finished u t ∧ t.emem = s.emem ∧ ∀ o, o < 0x30000 →
            u.mem.get memDefault (lmAddr s.cur.rid core o) = if dst ≤ o ∧ o < dst + 1024 * n then
              (let e := (o - dst) / n
               let v := ofBytes ((List.range (f.width / 8)).map fun x => eng s (tileRow form tile 0 + f.width / 8 * e + x))
               let rnd := if rm = 4 then Rnd.sr (srThreshold seed (BitVec.ofNat 32 e)) else Rnd.ofCode rm
               BitVec.ofNat 8 ((fConv f g rnd sat v).1 / 256 ^ ((o - dst) % n))) else lm o)
        ∧ (∀ kind buf a offs scale, j.cmd = .wld kind buf a offs scale → buf ≤ 1 → kind ≤ 2 →
          let start (i : Nat) : Nat := ofBytes (bytes (offs + 4 * i) 4)
          let block (i : Nat) : List Byte × Nat := xpbBlock (kind == 1) (bytes (a + start i) 45)
          (kind = 0 ∨ ∀ i, i < 512 → start i + (block i).2 = start (i + 1) ∧ a + start i + (block i).2 ≤ 0x30000) →
          ∃ u t, finished u t ∧ u.mem = s.mem ∧ ∀ o, o < 65536 → eng t o =
            if wbufAt buf ≤ o ∧ o < wbufAt buf + 16384 then
              (if kind = 0 then src (a + (o - wbufAt buf)) else (block ((o - wbufAt buf) / 32)).1.getD ((o - wbufAt buf) % 32) 0#8)
            else match scale with
              | some x => if scaleAt buf ≤ o ∧ o < scaleAt buf + 1024 then src (x + (o - scaleAt buf)) else eng s o
              | none => eng s o)))

/-- R297, R298: QPUSH queues a copy request with the captured descriptor while fewer than 8 wait; QTRY does the same and writes 0 to
x[c], or writes 1 when the FIFO is full; a reserved operation traps (R307); that the trap
names it also where a later operand is reserved is the model's choice (log 37).

R302, R301, R299, R297, R93, R296, R408: the copy unit takes the one chunk of a COPY, FILL, GATHER-ROWS or SCATTER-ROWS whose elements
lie in rows, without swizzle, in one 64-byte block of the requesting core's own LM: each element has the bytes of its source, of the given
value, or zeros where the list entry is 0xFFFF_FFFF, a scattered row with that entry is skipped, and no other byte changes; a complete
request leaves the FIFO and its descriptor acts, unless the request was aborted; a remote-write packet of one chunk is written at its home,
but for the bytes that the request does not place there, under the key that its key id names there, and acknowledged; and its
acknowledgement, by the device that writes it, is counted. -/
def Obligations.CopyUnit : Prop :=
  (∀ (s : State) (d a b c : BitVec 5), Quiet s →
    let w0 := s.rx d
    let w3 := s.rx c
    let desc := s.cdescs.get 0#64 (s.ck * 16 + (w3.extractLsb' 60 4).toNat)
    let req : CopyReq := { w0 := w0, w1 := s.rx a, w2 := s.rx b, w3 := w3, desc := desc, num := (s.coreSt s.ck).copies }
    let pushed (t : State) : Prop :=
      (t.coreSt s.ck).fifo = (s.coreSt s.ck).fifo ++ [req] ∧ (t.coreSt s.ck).copies = (s.coreSt s.ck).copies + 1
    (w0.toNat % 64 ≤ 3 → w0.extractLsb' 59 5 = 0#5 → w0.getLsbD 57 = false → w3.extractLsb' 48 12 = 0#12 →
      s.descBad s.cur.rid s.cur.core desc = false →
      ((s.coreSt s.ck).fifo.length < 8 →
        (∃ t, exec (.qpush d a b c) s = .next t ∧ pushed t
          ∧ SlotMoves s t (s.pc + 4#64) (s.me.safecnt + 1) 0#5 ∧ SameData s t)
        ∧ ∃ t, exec (.qtry d a b c) s = .next t ∧ pushed t
          ∧ XIs s t c 0#64 ∧ SlotMoves s t (s.pc + 4#64) (s.me.safecnt + 1) 0#5 ∧ t.mem = s.mem)
      ∧ (8 ≤ (s.coreSt s.ck).fifo.length → ∃ t, exec (.qtry d a b c) s = .next t ∧ WroteX s t c 1#64 (s.pc + 4#64) 0#5))
    ∧ (SingleFault s → 4 ≤ w0.toNat % 64 → ∀ i ∈ [Instr.qpush d a b c, .qtry d a b c],
        ∃ t, exec i s = .next t ∧ TrapTaken s t 4 0x02 0x36 w0.toNat 0))
  ∧ ∀ (s : State),
    (∀ (p o1 o2 ot dstep sstep blk : Nat) (r : CopyReq) (bs : List Byte),
      let core := coreAtOctetPos s.cur.core p
      let k := coreKey s.cur.rid core
      let l := layoutOf bs
      let own (o : Nat) : Word := BitVec.ofNat 64 (0xFE * 2 ^ 48 + core * 2 ^ 18 + o)
      let lm (o : Nat) : Byte := s.mem.get memDefault (lmAddr s.cur.rid core o)
      let op := r.w0.toNat % 64
      let e := 2 ^ l.esz
      let e0 := r.w3.toNat % 2 ^ 24
      let e1 := if l.ndim = 0 then 1 else r.w3.toNat / 2 ^ 24 % 2 ^ 24
      let list := if op = 2 then o1 else o2
      let entry (i1 : Nat) : Nat := numberAt s (lmAddr s.cur.rid core (list + 4 * i1)) 4
      let none_ (q i1 : Nat) : Prop := op = q ∧ entry i1 = 0xFFFFFFFF
      let from_ (i0 i1 : Nat) : Nat := (if op = 2 then ot else o1) + i0 * e + (if op = 2 then entry i1 else i1) * sstep
      let to_ (i0 i1 : Nat) : Nat := (if op = 3 then ot else o2) + i0 * e + (if op = 3 then entry i1 else i1) * dstep
      s.cur.sub ≠ 1 → p < 8 → (s.coreSt k).fifo = [r] → (s.coreSt k).engFault = [] → s.poison = [] →
      (∀ q, q < 8 → q ≠ p → (s.coreSt (coreKey s.cur.rid (coreAtOctetPos s.cur.core q))).fifo = []) →
      s.chunksInFlight s.cur.rid s.cur.core < 64 → s.coreExists s.cur.rid core = true → r.lay = some bs → r.pkt = none →
      r.taken = false → r.blocks = [] → r.pos = 0 → r.ahead = 0 → r.undo = [] →
      op ≤ 3 → layoutBad r l = false → l.ndim ≤ 1 → l.dsw = 0 → l.ssw = 0 →
      l.dst[0]? = some (BitVec.ofNat 64 dstep) → l.sst[0]? = some (BitVec.ofNat 64 sstep) →
      (op ≠ 1 → r.w1 = own o1) → r.w2 = own o2 → (2 ≤ op → l.tbase = own ot ∧ list % 4 = 0 ∧ list + 4 * e1 ≤ 0x30000) →
      (∀ i0 i1, i0 < e0 → i1 < e1 →
        (¬ none_ 3 i1 → to_ i0 i1 % e = 0 ∧ 64 * blk ≤ to_ i0 i1 ∧ to_ i0 i1 + e ≤ 64 * blk + 64 ∧ to_ i0 i1 + e ≤ 0x30000)
        ∧ (op ≠ 1 → ¬ none_ 2 i1 → ¬ none_ 3 i1 → from_ i0 i1 % e = 0 ∧ from_ i0 i1 + e ≤ 0x30000)
        ∧ ∀ j0 j1, j0 < e0 → j1 < e1 → ¬ none_ 3 i1 → ¬ none_ 3 j1 → to_ i0 i1 = to_ j0 j1 → i0 = j0 ∧ i1 = j1) →
      ∃ (t : State) (r' : CopyReq), exec .copyTurn s = .next t ∧ (t.coreSt k).fifo = [r'] ∧ r'.taken = true ∧ r'.aborted = r.aborted
        ∧ (∀ i0 i1 b, i0 < e0 → i1 < e1 → b < e → ¬ none_ 3 i1 →
            (op = 1 → t.mem.get memDefault (lmAddr s.cur.rid core (to_ i0 i1 + b)) = r.w1.extractLsb' (8 * b) 8)
            ∧ (none_ 2 i1 → t.mem.get memDefault (lmAddr s.cur.rid core (to_ i0 i1 + b)) = 0#8)
            ∧ (op ≠ 1 → ¬ none_ 2 i1 → t.mem.get memDefault (lmAddr s.cur.rid core (to_ i0 i1 + b)) = lm (from_ i0 i1 + b)))
        ∧ (∀ x, (∀ i0 i1 b, i0 < e0 → i1 < e1 → b < e → ¬ none_ 3 i1 → x ≠ lmAddr s.cur.rid core (to_ i0 i1 + b)) →
            t.mem.get memDefault x = s.mem.get memDefault x)
        ∧ t.xregs = s.xregs ∧ t.slots = s.slots)
    ∧ (∀ (r : CopyReq) (rest : List CopyReq), (s.coreSt s.ck).fifo = r :: rest → r.taken = true → r.pkt = none → r.unacked = [] →
      (r.desc = 0#64 ∨ r.aborted = true → ∃ t, exec .copyRequestComplete s = .next t
        ∧ (∀ k, t.coreSt k = if k = s.ck then
            { s.coreSt s.ck with fifo := rest, engFault := (s.coreSt s.ck).engFault.filter fun p => p.1 / 4 != r.num }
          else s.coreSt k)
        ∧ t = { s with cores := t.cores })
      ∧ ∀ c off, r.aborted = false → DescCan s s.cur.core r.desc c off →
        ∃ t, exec .copyRequestComplete s = .next t ∧ (t.coreSt s.ck).fifo = rest ∧ DescActs s t s.cur.core r.desc c off
          ∧ t.xregs = s.xregs ∧ t.slots = s.slots)
    ∧ (∀ m : Msg, s.cur.idx = 0 → s.net = [m] → m.ddev = 0xFFF → m.post = none → m.h0.extractLsb' 49 2 = 0#2 →
      (m.h0.extractLsb' 32 8 = 0xF9#8 → m.payload.length = 64 → m.marks = [] →
        let die := (m.a0.extractLsb' 39 6).toNat
        let key := (m.a2.extractLsb' 0 8).toNat
        let a := devAddr (s.pdieOf m.rid die) (m.a0.extractLsb' 38 1).toNat (m.a0.extractLsb' 0 38).toNat
        s.farCheck m.rid die (some key) = 0 →
        ∃ (t : State) (ack : Msg), exec .remoteWritePacket s = .next t ∧ t.xregs = s.xregs ∧ t.slots = s.slots
          ∧ (∀ x, t.rdByte x (s.keyOf key die) =
              if a ≤ x ∧ x < a + 64 ∧ m.holes.contains (x - a) = false then m.payload.getD (x - a) 0#8
              else s.rdByte x (s.keyOf key die))
          ∧ (∀ x, x / 64 < a / 64 ∨ (a + 63) / 64 < x / 64 → t.mem.get memDefault x = s.mem.get memDefault x)
          ∧ t.net = [ack] ∧ ack.rid = m.rid ∧ ack.a0 = m.a3 ∧ ack.a1 = 0#64
          ∧ ack.ddev = (if m.sdev = s.fabid then 0xFFF else m.sdev))
      ∧ (∀ (r : CopyReq) (va : Nat),
        let k := coreKey m.rid (m.h0.extractLsb' 0 20).toNat
        m.h0.extractLsb' 32 8 = 0#8 → m.a1 = 0#64 → (s.coreSt k).fifo = [r] →
        ∀ dev, r.unacked = [(m.a0.toNat, va, dev)] →
          ∃ t, exec .writeAcknowledgement s = .next t ∧ t.net = [] ∧ SameData s t
            ∧ (t.coreSt k).fifo = [if dev = m.sdev then { r with unacked := [] } else r]))

/-! ### Views (06_views.md, 15_isa_engines.md, R319 to R327) -/

/-- R320 to R326: VWDEF writes STATUS and VID, and a view is registered under status 0, by the keeper of the master that its record names
(the keeper's reading of the record is the model's choice, log 126); VWDROP of a view with no regeneration in
progress ends it and writes 0; VWPUB raises its master's version by 1 and writes the new one; VWPOL sets the field; VWTAG writes
the tag that the Infuser stored; VWRD of a block whose tag reaches the version copies the stored bytes to LM and writes the tag;
VWSYNC goes on when every tag has reached the version. What the units read comes through the model's own reads (Units.lean).

R134, R135: a regeneration of a block in REGEN notes that its elements are written, and writes the bytes of the block's elements and
scales, from the master elements that it reads, where the block lies, here in LM; at its end, with no later publish and no write to the
master in between, the block is CLEAN and its tag is the version.

R113, R120, R129, R134: the bytes of a block of an unpacked, unswizzled view hold element after element the master's element, copied
where the formats agree, else converted with saturation, under a scale mode its quotient by the scale; then the scales: for each 32
elements the E8M0 scale of their largest magnitude, or the FP32 scale of the block. -/
def Obligations.Views : Prop :=
  (∀ (s : State) (d a b c : BitVec 5), Quiet s → s.me.wait = .none →
    let rid := s.cur.rid
    let die := coreDie s.cur.core
    let va := (s.rx a).toNat
    let k := State.viewKey rid va
    let v := s.view k
    let goes (i : Instr) (w : Word) (t : State) : Prop :=
      exec i s = .next t ∧ XIs s t d w ∧ SlotMoves s t (s.pc + 4#64) (s.me.safecnt + 1) 0#5 ∧ CoreCounts s t
    (∀ bs u vid w, va % 64 = 0 → State.lmWindow va = false →
      let reader := (s.release 4).vwdefDie rid die va
      reader.2.unitClean rid reader.1 va 64 64 = (.ok bs, u) →
      u.registerView rid reader.1 (ofBytes (plain bs)) (State.defFix (u.rf c).toNat) = (.done 0 vid, w) → NoLines s w →
      ∃ t, goes (.vwdef d a c) (BitVec.ofNat 64 vid) t ∧ (t.view (State.viewKey rid vid)).used = true)
    ∧ (va < 2 ^ 16 → v.used = true → v.dropping = false → v.replica = none → (∀ j, j < v.nblk → (s.vblock k j).st ≠ .regen) →
      ∃ t, goes (.vwdrop d a) 0#64 t ∧ (t.view k).used = false ∧ t.mem = s.mem)
    ∧ (va % 4 = 0 → s.viewsOf rid va ≠ [] → (∀ q ∈ s.views, q.2.replica = none) → (s.masterSt rid va).version < 0xFFFFFFFD →
      NoLines s ((s.release 4).publish rid va).2 →
      ∃ t, exec (.vwpub d a) s = .next t ∧ XIs s t d (BitVec.ofNat 64 ((s.masterSt rid va).version + 1))
        ∧ SlotMoves s t (s.pc + 4#64) (s.me.safecnt + 1) 0#5
        ∧ (t.masterSt rid va).version = (s.masterSt rid va).version + 1)
    ∧ (va < 2 ^ 16 → v.used = true → v.dropping = false → v.replica = none →
      let x := (s.rx c).toNat
      (s.rx b = 0#64 → x ≤ 2 ^ 16 - 1 → x / 4 % 64 = 0 → x % 4 ≠ 3 → (x % 4 = 1 ↔ x / 256 ≠ 0) →
        ∃ t, goes (.vwpol d a b c) 0#64 t ∧ t.view k = { v with pol := x % 4, lagk := x / 256 })
      ∧ (s.rx b = 2#64 → x ≤ 1 → ∃ t, goes (.vwpol d a b c) 0#64 t ∧ t.view k = { v with cfg := { v.cfg with sr := x == 1 } })
      ∧ (s.rx b = 3#64 → x < 2 ^ 32 → ∃ t, goes (.vwpol d a b c) 0#64 t ∧ t.view k = { v with cfg := { v.cfg with seed := x } }))
    ∧ (va < 2 ^ 16 → v.used = true → v.dropping = false → NoAck s rid s.cur.core →
      (∀ bs u, (s.rx b).toNat < 2 ^ 32 → (s.rx b).toNat < v.nblk → s.readTag k (s.rx b).toNat = (.ok bs, u) → NoLines s u →
        ∃ t, goes (.vwtag d a b) (BitVec.ofNat 64 (ofBytes (plain bs))) t)
      ∧ (∀ tb u x u1 bs u2,
        let j := ((s.rx b).extractLsb' 0 32).toNat
        let ver := ((s.rx b).extractLsb' 32 32).toNat
        let off := (s.rx c).toNat
        let tag := ofBytes (plain tb)
        j < v.nblk → off % 64 = 0 → off + v.stored ≤ 0x27000 → s.readTag k j = (.ok tb, u) → ver ≤ tag → tag < 0xFFFFFFFE →
        (u.acquire 4).blockVa rid die v j = (.ok (some x), u1) → u1.unitRead rid die x v.stored 1 = (.ok bs, u2) → anyMark bs = false →
        NoLines s u2 →
        ∃ t, goes (.vwrd d a b c) (BitVec.ofNat 64 tag) t
          ∧ ∀ y, y < bs.length → t.mem.get memDefault (ownLm s (off + y)) = (plain bs).getD y 0#8)
      ∧ (∀ u, (s.rx b).toNat < 2 ^ 32 →
        (s.flushVops rid s.cur.core s.me.frame).syncTags va k (s.rx b).toNat 0 v.nblk = (u, some true) → NoLines s u →
        ∃ t, exec (.vwsync a b) s = .next t ∧ SlotMoves s t (s.pc + 4#64) 0 0#5 ∧ CoreCounts s t ∧ t.xregs = s.xregs)))
  ∧ (∀ (s : State),
    let rid := s.cur.rid
    let k := State.viewKey rid s.cur.idx
    let j := s.cur.sub
    let v := s.view k
    let b := s.vblock k j
    v.used = true → b.st = .regen →
    (∀ r u, b.wrote = none → s.regenerate k j = (some r, u) → NoLines s u →
      ∃ t, exec .blockRegeneration s = .next t ∧ (t.vblock k j).wrote = some r ∧ t.xregs = s.xregs ∧ t.slots = s.slots)
    ∧ (b.wrote = some none → b.target = b.cur → b.again = false → v.adds = [] → v.replica = none → v.dropping = false →
        (∀ q ∈ s.views, q.2.marks = []) → (s.dieSt (dieKey rid 0)).xdrop = none →
        NoLines s ((s.modBlock k j fun x => { x with st := .clean, again := false, sets := [], wrote := none }).storeTag k j b.cur) →
      ∃ t, exec .regenerationComplete s = .next t ∧ (t.vblock k j).st = .clean ∧ (t.vblock k j).tag = b.cur
        ∧ t.xregs = s.xregs ∧ t.slots = s.slots)
    ∧ (∀ tab t0 u0 core off,
      let n := masterSize v.mfmt
      let addrs := (v.blockElems j).map v.elemAddr
      let lines := (addrs.flatMap fun a => (List.range n).map fun i => (a + i) % 2 ^ 64 / 64).eraseDups
      let byte (a : Nat) : Byte := ((((tab.find? fun p => p.1 == a / 64).map (·.2)).getD [])[a % 64]?.map (·.1)).getD 0#8
      let xs := (v.blockElems j).map fun e =>
        (ofBytes ((List.range n).map fun i => byte ((v.elemAddr e + i) % 2 ^ 64)), v.linear e)
      let bs := viewBytes v b.ccfg xs
      let held := s.blockDie rid v j
      s.cur.idx < 2 ^ 16 → b.wrote = none → held.2.readLines rid held.1 lines [] = (.ok (some tab), t0) →
      (∀ p ∈ tab, anyMark p.2 = false) →
      t0.blockVa rid held.1 v j = (.ok (some (0xFE * 2 ^ 48 + core * 2 ^ 18 + off)), u0) → NoLines s u0 →
      u0.coreExists rid core = true → bs.length ≤ v.elemArea + v.scaleArea → off + bs.length ≤ 0x30000 →
      ∃ t, exec .blockRegeneration s = .next t ∧ (t.vblock k j).wrote = some none ∧ t.xregs = s.xregs ∧ t.slots = s.slots
        ∧ ∀ x, x < bs.length → t.mem.get memDefault (lmAddr rid core (off + x)) = bs.getD x 0#8))
  ∧ ∀ (v : ViewSt) (cfg : ViewCfg) (xs : List (Nat × Nat)),
    let src := masterFmt v.mfmt
    let dst := viewFmt v.mfmt v.vfmt
    let w := dst.width
    let bs := viewBytes v cfg xs
    let num (o n : Nat) : Nat := ofBytes ((bs.drop o).take n)
    let elem (i : Nat) : Nat := if w = 4 then (bs.getD (i / 2) 0#8).toNat / 16 ^ (i % 2) % 16 else num (w / 8 * i) (w / 8)
    let rnd (ix : Nat) : Rnd :=
      if cfg.sr then .sr (srThreshold (BitVec.ofNat 32 cfg.seed) (BitVec.ofNat 32 ix)) else .rne
    let largest (l : List (Nat × Nat)) (m : Nat) (e : Int) : Prop :=
      m ≠ 0 ∧ (∃ p ∈ l, ∃ sg, src.val p.1 = .fin sg m e)
        ∧ ∀ p ∈ l, ∀ sg m' e', src.val p.1 = .fin sg m' e' → (FVal.fin false m e).cmp (.fin false m' e') ≠ .lt
    let noneLarge (l : List (Nat × Nat)) : Prop := ∀ p ∈ l, ∀ sg m e, src.val p.1 = .fin sg m e → m = 0
    let emax : Int := if v.vfmt = 3 then 8 else if v.vfmt = 4 then 15 else 2
    v.vfmt ≤ 5 → v.swz = 0 → 5 ≤ v.blog → xs.length = 2 ^ v.blog →
    (v.smode = 0 → bs.length = w * 2 ^ v.blog / 8 ∧ ∀ i x ix, xs[i]? = some (x, ix) →
      elem i = (if src = dst then x else (fConv src dst (rnd ix) true x).1) % 2 ^ w)
    ∧ (v.smode = 1 → ∀ i x ix sg m e, xs[i]? = some (x, ix) → src.val x = .fin sg m e → src ≠ dst →
      elem i = (fQuot dst (rnd ix) true (.fin sg m e) (Fmt.f32.val cfg.scale)).1 % 2 ^ w)
    ∧ (v.smode = 2 → ∀ g, g < 2 ^ v.blog / 32 →
      let l := (xs.drop (32 * g)).take 32
      let sc := num (w * 2 ^ v.blog / 8 + g) 1
      (∀ m e, largest l m e → (sc : Int) = max 0 (min 254 ((Nat.log2 m : Int) + e - emax + 127)))
        ∧ (noneLarge l → sc = 127)
        ∧ ∀ i x ix sg m e, l[i]? = some (x, ix) → src.val x = .fin sg m e → src ≠ dst →
            elem (32 * g + i) = (fQuot dst (rnd ix) true (.fin sg m e) (.fin false 1 ((sc : Int) - 127))).1 % 2 ^ w)
    ∧ (v.smode = 3 → ∀ scale : Nat,
      (∃ m e, largest xs m e ∧
          let q := (fQuot .f32 .rne false (.fin false m e) (dst.val dst.maxBits)).1
          scale = if q = 0 then 0x3F800000 else q)
        ∨ (noneLarge xs ∧ scale = 0x3F800000) →
      num (w * 2 ^ v.blog / 8) 4 = scale % 2 ^ 32
        ∧ ∀ i x ix sg m e, xs[i]? = some (x, ix) → src.val x = .fin sg m e → src ≠ dst →
            elem i = (fQuot dst (rnd ix) true (.fin sg m e) (Fmt.f32.val scale)).1 % 2 ^ w)

/-! ### Experts (07_experts.md, 15_isa_engines.md, R309 to R318) -/

/-- R309 to R318: with a handle of a die of the realm, XREG registers the expert that its record describes, with its first replica
slot CREATING; XROUTE and XGRAD send the token or the partial to the Caddy; XJOIN ends with the Caddy's answer; XSTAT writes a word of
the directory entry; XPOL sets a field of it; XDROP removes an entry with no replica view; XGATE ends with its episode.

R146 to R149, R152, R144, R156: a token for an expert that the Caddy does not hold is dropped with its route result; one for
an expert whose only ready slot has room is delivered, counted and answered, when it arrives and when it is decided again after it was
held; a window that is over ends; a version change begins a step with nothing routed; a partial of the step that runs is kept.

When the Caddy looks at its windows is the model's choice (log 72), and so are the steps in which XDROP waits (log 71). What the Caddy
reads on another device comes line by line (log 135). -/
def Obligations.Experts : Prop :=
  (∀ (s : State) (d a b c : BitVec 5) (sc : BitVec 3), Quiet s →
    let h := s.rx a
    let rid := s.cur.rid
    let die := (h.extractLsb' 24 6).toNat
    let xid := (h.extractLsb' 0 24).toNat
    let ek := State.expertKey rid die xid
    let dk := dieKey rid die
    let roll (t : State) : State := (t.rollWindows rid die xid 64).settleSlots rid die xid
    let creqs (t : State) : List CadReq := (t.dieSt dk).creqs
    let goes (i : Instr) (w : Word) (t : State) : Prop :=
      exec i s = .next t ∧ XIs s t d w ∧ SlotMoves s t (s.pc + 4#64) (s.me.safecnt + 1) 0#5 ∧ CoreCounts s t
    h.extractLsb' 30 34 = 0#34 → xid ≠ 0xFFFFFF → die < s.myRealm.n →
    (creqs s = [] → (s.dieSt dk).xdrop = none → s.me.wait = .none →
      (∀ u, (s.rx b).toNat % 64 = 0 → (s.release 4).registerExpert rid die xid (s.rx b).toNat = (0, u) → NoLines s u →
        ∃ t, goes (.xreg d a b) 0#64 t ∧ (t.expert ek).used = true ∧ (((t.expert ek).slots[0]?).map (·.st)) = some 1)
      ∧ (∀ w u, (s.rx b).toNat ≤ 16 → (roll s).statWord rid die xid (s.rx b).toNat = (w, u) → NoLines s u → NoAck s rid s.cur.core →
        ∃ t, goes (.xstat d a b) w t)
      ∧ (let e := ((s.release 4).rollWindows rid die xid 64).expert ek
        let v := (s.rx c).toNat
        e.used = true →
        ∀ q ∈ [ (0, 1 ≤ v ∧ v ≤ 4095, { e with cth := v }), (1, v ≤ 4095, { e with rth := v }),
                (2, 1 ≤ v ∧ v ≤ 4095, { e with winNext := v }), (3, v ≤ 1, { e with ovfNext := v == 1 }),
                (4, v ≤ 1, { e with hash := v == 1 }), (5, v < 2 ^ 32, { e with seed := v }), (6, v < 2 ^ 24, { e with nextx := v }) ],
          (s.rx b).toNat = q.1 → q.2.1 → ∃ t, goes (.xpol d a b c) 0#64 t ∧ t.expert ek = q.2.2)
      ∧ (let t0 := roll (s.release 4)
        (t0.expert ek).used = true → (∀ r ∈ (t0.expert ek).slots, r.st ≠ 1 ∧ r.st ≠ 2 ∧ r.st ≠ 3 ∧ r.out = 0) →
        (t0.expert ek).closed = false → t0.views = [] → (t0.dieSt dk).hold = [] → NoLines s t0 →
        ∃ t, goes (.xdrop d a) 0#64 t ∧ (t.expert ek).used = false))
    ∧ (s.me.wait = .unit → ∃ t, exec (.xdrop d a) s = .next t ∧ Waits s t .unit)
    ∧ (∀ w, s.me.wait = .answer w → ∃ t, goes (.xdrop d a) w t)
    ∧ ((s.coreSt s.ck).outq = [] →
      (let w := s.rx c
        let slen := (w.extractLsb' 18 6).toNat
        let soff := (w.extractLsb' 0 18).toNat
        let roff := (w.extractLsb' 32 18).toNat
        let rctr := (w.extractLsb' 50 8).toNat
        w.extractLsb' 58 6 = 0#6 → soff % 64 = 0 → roff % 8 = 0 → soff + 64 * slen ≤ 0x30000 → roff + 8 ≤ 0x30000 →
        ¬ (248 ≤ rctr ∧ rctr ≤ 251) → s.poison = [] →
        ∃ t, exec (.xroute d a b c) s = .next t ∧ SlotMoves s t (s.pc + 4#64) (s.me.safecnt + 1) 0#5 ∧ SameData s t
          ∧ creqs t = creqs s ++ [.token
              { xid := xid, tid := ((s.rx b).extractLsb' 32 32).toNat, gw := ((s.rx b).extractLsb' 0 32).toNat,
                krank := (w.extractLsb' 24 8).toNat, user := s.rx d,
                data := (List.range (64 * slen)).map fun i => s.mem.get memDefault (ownLm s (soff + i)),
                core := s.cur.core, roff := roff, rctr := rctr } (s.coreSt s.ck).outNext])
      ∧ ((s.rx b).toNat % 4 = 0 →
        ∃ t, exec (.xgrad a b c) s = .next t ∧ SlotMoves s t (s.pc + 4#64) (s.me.safecnt + 1) 0#5 ∧ SameData s t
          ∧ creqs t = creqs s ++ [.part xid s.cur.core (s.rx b).toNat ((s.rx c).extractLsb' 32 32).toNat
              ((s.rx c).extractLsb' 0 32).toNat (s.coreSt s.ck).outNext]))
    ∧ (∀ w, s.me.wait = .answer w → (s.rx b).toNat < 2 ^ 32 →
        ∃ t, exec (.xjoin d a b) s = .next t ∧ XIs s t d w ∧ SlotMoves s t (s.pc + 4#64) 0 0#5
          ∧ (NoAck s rid s.cur.core → CoreCounts s t) ∧ t.mem = s.mem)
    ∧ ∀ g e rank, s.me.wait = .barDone g e rank →
        ∃ t, exec (.xgate d a b sc) s = .next t ∧ SlotMoves s t (s.pc + 4#64) (s.me.safecnt + 1) 0#5
          ∧ (NoAck s rid s.cur.core → CoreCounts s t) ∧ SameData s t)
  ∧ ∀ (s : State),
    let rid := s.cur.rid
    let die := s.cur.die
    let dk := dieKey rid die
    let d := s.dieSt dk
    let result (t : Token) (xid repl out : Nat) : Msg :=
      { rid := rid, sdev := s.fabid, score := unitCore die, h0 := mkH0 0 2 false t.rctr 0 0xFFF t.core,
        h1 := mkH1 false false rid s.fabid (unitCore die) t.roff, payload := toBytes 8 (xid * 2 ^ 16 + repl * 2 ^ 8 + out) }
    s.cur.idx = 0 → d.xdrop = none →
    let settled (x : State) (t : Token) : State := (x.rollWindows rid die t.xid 64).settleSlots rid die t.xid
    let room (s2 : State) (t : Token) (e : Expert) (r : RepSlot) : Prop :=
      s2.expert (State.expertKey rid die t.xid) = e ∧ t.marks = [] ∧ t.hops = 0 ∧ e.used = true ∧ e.closed = false ∧ e.slots = [r]
        ∧ r.st = 2 ∧ r.out < e.cap ∧ (s2.replicaTag (State.viewKey rid r.vid) true).1 = e.v ∧ e.load < e.cth
        ∧ NoLines s (s2.replicaTag (State.viewKey rid r.vid) true).2
    let delivered (s2 u : State) (t : Token) (e : Expert) (r : RepSlot) : Prop :=
      let ek := State.expertKey rid die t.xid
      let c := e.cands[r.cand]?.getD {}
      ∃ m : Msg, u.net = s2.net ++ [m, result t t.xid 0 0]
        ∧ m.h0 = mkH0 (e.plen + 1) 2 false e.ctn 0 0xFFF c.core
        ∧ m.h1 = mkH1 true false rid s.fabid (unitCore die) (c.ring + c.sent % max 1 e.cap * 64 * (e.plen + 1))
        ∧ m.payload.length = 64 * (e.plen + 1) ∧ m.payload.drop 64 = t.data.take (64 * e.plen) ++ List.replicate (64 * e.plen - t.data.length) 0#8
        ∧ (u.expert ek).slots = [{ r with out := r.out + 1 }] ∧ (u.expert ek).toks = e.toks ++ [(t.tid, t.krank, 0)]
    (∀ (t : Token) (out : Nat), d.creqs = [.token t out] → d.hold = [] → (s.expert (State.expertKey rid die t.xid)).used = false →
        NoLines s s →
      ∃ u, exec .tokenDecision s = .next u ∧ u.net = s.net ++ [result t 0xFFFFFF 0 1] ∧ (u.dieSt dk).creqs = [] ∧ SameData s u)
    ∧ (∀ (t : Token) (out : Nat) (e : Expert) (r : RepSlot),
      let s2 := (settled (((s.modDie dk fun x => { x with creqs := [] }).freeOut rid t.core out).redecide rid die) t).modExpert
        (State.expertKey rid die t.xid) fun x => { x with load := x.load + 1 }
      d.creqs = [.token t out] → d.hold = [] → room s2 t e r → ∃ u, exec .tokenDecision s = .next u ∧ delivered s2 u t e r)
    ∧ (∀ t : Token, d.hold = [t] → (s.expert (State.expertKey rid die t.xid)).used = false → NoLines s s →
      ∃ u, exec .heldTokenRedecision s = .next u ∧ u.net = s.net ++ [result t 0xFFFFFF 0 1] ∧ (u.dieSt dk).hold = [] ∧ SameData s u)
    ∧ (∀ (t : Token) (e : Expert) (r : RepSlot),
      let s2 := settled (s.modDie dk fun x => { x with hold := [] }) t
      d.hold = [t] → room s2 t e r →
        ∃ u, exec .heldTokenRedecision s = .next u ∧ delivered s2 u t e r ∧ (u.dieSt dk).hold = [])
    ∧ (let ek := State.expertKey rid die s.cur.idx
      let e := s.expert ek
      e.used = true → (∀ r ∈ e.slots, r.st = 0) → NoLines s s →
      (1 ≤ e.win → e.winAt + e.win * 1024 ≤ s.clock → s.clock < e.winAt + e.win * 1024 + e.winNext * 1024 →
        ∃ u, exec .windowEnd s = .next u
          ∧ u.expert ek = { e with load := 0, winAt := e.winAt + e.win * 1024, win := e.winNext } ∧ SameData s u)
      ∧ (∀ v rest, e.vq = v :: rest → e.waiters = [] →
        ∃ u, exec .versionChange s = .next u
          ∧ u.expert ek = { e with v := v, vq := rest, closed := false, joined := false, toks := [], tiles := 0, parts := [] }
          ∧ SameData s u))
    ∧ ∀ xid core va step ix out,
      let ek := State.expertKey rid die xid
      let e := s.expert ek
      d.creqs = [.part xid core va step ix out] → e.used = true → e.v = step → e.joined = false → e.closed = false → e.det = false →
      ∃ u, exec .partialArrival s = .next u ∧ u.expert ek = { e with parts := e.parts ++ [{ va := va, ix := ix }] }
        ∧ (u.dieSt dk).creqs = [] ∧ SameData s u

/-! ### Trails (R170 to R174, R328 to R333, R341) -/

/-- R330 to R333: STGDEF of a good record defines the Trail and writes 0, and of a running Trail writes 1; STGGO starts the sequencer at
entry x[a] with its logs cleared and writes 0, or 1 when it runs, or 2 when there is no such entry; STGSTOP clears RUNNING and writes the
head and the number of entries in progress; STGSTASH writes a slot's address; STGBUB writes the event counts, the cycle counts, the log's
number, the Trail's word or half a log record; STGPOST with no status to report posts the payload to the neighbouring Trail, takes one
from FREE and PF for an F entry, and writes 0. The status of a definition is the model's own reading of the record; that a Trail which the watchdog has stopped becomes RUNNING only at
the next RESUME is the model's choice (log 75). -/
def Obligations.TrailInstructions : Prop :=
  ∀ (s : State) (d a b c : BitVec 5), Quiet s →
    let n := (s.rx a).toNat
    let q := (s.dieSt s.dk).trail
    let entry := (q.entries[n]?.getD (0#64, 0#64)).1
    let goes (i : Instr) (w : Word) (t : State) : Prop :=
      exec i s = .next t ∧ XIs s t d w ∧ SlotMoves s t (s.pc + 4#64) (s.me.safecnt + 1) 0#5 ∧ t.mem = s.mem
    let trail (t : State) (r : TrailSt) : Prop :=
      ∀ k, t.dieSt k = if k = s.dk then { s.dieSt s.dk with trail := r } else s.dieSt k
    (∀ u, n % 64 = 0 → q.running = false → (s.release 3).defineTrail s.cur.rid (coreDie s.cur.core) n = (0, u) → NoLines s u →
      ∃ t, exec (.stgdef d a) s = .next t ∧ XIs s t d 0#64 ∧ SlotMoves s t (s.pc + 4#64) (s.me.safecnt + 1) 0#5 ∧ CoreCounts s t
        ∧ (t.dieSt s.dk).trail.defined = true ∧ (t.dieSt s.dk).trail.head = 0
        ∧ (t.dieSt s.dk).trail.pf = 0 ∧ (t.dieSt s.dk).trail.grad = [] ∧ (t.dieSt s.dk).trail.occ = [])
    ∧ (n % 64 = 0 → q.running = true → NoLines s s → ∃ t, goes (.stgdef d a) 1#64 t ∧ trail t q)
    ∧ (n < 64 → q.running = false → q.defined = true → n < q.nent →
        ∃ t, goes (.stggo d a) 0#64 t ∧ CoreCounts s t ∧ trail t
          { q with head := n, running := !q.stopped, again := q.stopped, fcount := 0, filled := [], evs := [0, 0, 0], cycs := [0, 0, 0],
                   waits := [0, 0, 0], logn := 0, log := [] })
    ∧ (n < 64 → q.running = true → ∃ t, exec (.stggo d a) s = .next t ∧ WroteX s t d 1#64 (s.pc + 4#64) 0#5)
    ∧ (n < 64 → q.running = false → q.defined = false ∨ q.nent ≤ n →
        ∃ t, exec (.stggo d a) s = .next t ∧ WroteX s t d 2#64 (s.pc + 4#64) 0#5)
    ∧ (∃ t, goes (.stgstop d) (BitVec.ofNat 64 (q.head + q.open_.length * 64)) t ∧ CoreCounts s t ∧ trail t { q with running := false })
    ∧ (n < 256 → ∃ t, exec (.stgstash d a) s = .next t
        ∧ WroteX s t d (if n < q.nslot then BitVec.ofNat 64 (q.stash + q.slotb * n) else 0#64) (s.pc + 4#64) 0#5)
    ∧ (∀ p ∈ [ (0, q.evs[0]?.getD 0), (1, q.evs[1]?.getD 0), (2, q.evs[2]?.getD 0), (3, q.cycs[0]?.getD 0), (4, q.cycs[1]?.getD 0),
               (5, q.cycs[2]?.getD 0), (6, q.logn),
               (7, (if q.running then 1 else 0) + q.head * 2 + q.free % 256 * 2 ^ 7 + q.pf % 256 * 2 ^ 15 + q.occ.length * 2 ^ 23
                 + q.nent * 2 ^ 32),
               (0x40, q.log.get 0 0 % 2 ^ 64), (0x41, q.log.get 0 0 / 2 ^ 64), (0xBE, q.log.get 0 63 % 2 ^ 64),
               (0xBF, q.log.get 0 63 / 2 ^ 64) ],
        n = p.1 → ∃ t, exec (.stgbub d a) s = .next t ∧ WroteX s t d (BitVec.ofNat 64 p.2) (s.pc + 4#64) 0#5)
    ∧ (let src := (s.rx b).toNat
      let dst := (s.rx c).toNat
      let off := src % 2 ^ 18
      let len := src / 2 ^ 18
      let f := entry.extractLsb' 8 2 = 0#2
      n < 64 → len ≤ 64 → off % 64 = 0 → off + 64 * len ≤ 0x30000 → dst % 64 = 0 → dst + 64 * len ≤ 0x30000 → dst < 2 ^ 18 →
      q.started.contains n = true → q.posted.contains n = false → (entry.extractLsb' 9 1 = 0#1) →
      (f → entry.getLsbD 58 = false) → (¬ f → entry.getLsbD 57 = false) → (s.coreSt s.ck).outq = [] → s.poison = [] →
      ∃ t, goes (.stgpost d a b c) 0#64 t
        ∧ trail t { q with posted := n :: q.posted, free := if f then q.free - 1 else q.free, pf := if f then q.pf - 1 else q.pf }
        ∧ t.net = s.net ++ [
            { rid := s.cur.rid, sdev := s.fabid, score := s.cur.core,
              h1 := BitVec.ofNat 64 (2 ^ 57 + s.cur.rid * 2 ^ 50 + s.fabid * 2 ^ 38 + s.cur.core * 2 ^ 18 + dst),
              payload := (List.range (64 * len)).map fun i => s.mem.get memDefault (ownLm s (off + i)),
              post := some (if f then (entry.extractLsb' 32 6).toNat else (entry.extractLsb' 26 6).toNat,
                            (entry.extractLsb' 8 2).toNat, (entry.extractLsb' 0 8).toNat, coreDie s.cur.core),
              out := some (s.coreSt s.ck).outNext } ])
    ∧ (SingleFault s → 256 ≤ n → ∀ i ∈ [Instr.stggo d a, .stgstash d a, .stgbub d a],
        ∃ t, exec i s = .next t ∧ TrapTaken s t 4 0x02 0x3C n 1)

/-- R171, R172, R341, R390: a NOP entry at the head of a running Trail starts at once; a first-stage entry of one core starts when its input
counter has a fire pending, claims the fire, and readies its task with the values of R30 and an acquire at `.die` at its start; a started entry whose tasks have all
ended completes, and a B entry's slot is free again; a post writes its payload to the anchor core of its entry, frees its outbound
entry, and sets GRAD, or decrements the input counter, and is discarded at a fenced core; a slot return raises FREE. That the head goes
back to 0 after the last entry with LOOP = 0 too, and that the service slot writes a payload in its turn of the core's rotation, are the
model's choices (log 125, log 120). -/
def Obligations.TrailEvents : Prop :=
  ∀ (s : State),
    let rid := s.cur.rid
    let die := s.cur.die
    let dk := dieKey rid die
    let q := (s.dieSt dk).trail
    let e := (q.entries[q.head]?.getD (0#64, 0#64)).1
    let arg := (q.entries[q.head]?.getD (0#64, 0#64)).2
    let slot := (e.extractLsb' 18 8).toNat
    let next (t : State) : Prop :=
      (t.dieSt dk).trail.head = (if q.head + 1 = q.nent then 0 else q.head + 1)
        ∧ (t.dieSt dk).trail.running = (!e.getLsbD 56 && (decide (q.head + 1 ≠ q.nent) || q.loop))
        ∧ (t.dieSt dk).trail.started.contains q.head = true
    (q.running = true → (s.realm rid).state = 1 → q.open_.length < 4 → e.extractLsb' 8 2 = 3#2 →
      ∃ t, exec .trailEntryStart s = .next t ∧ next t ∧ (t.dieSt dk).trail.occ = q.occ ∧ SameData s t ∧ t.net = s.net
        ∧ t.counters = s.counters ∧ t.cores = s.cores)
    ∧ (∀ row col h : Nat,
      let core := mkCore die row col
      let k := coreKey rid core
      let j := k * 256 + (e.extractLsb' 38 8).toNat
      let w := q.sets[(e.extractLsb' 46 4).toNat]?.getD 0
      q.running = true → (s.realm rid).state = 1 → q.open_.length < 4 → e.extractLsb' 8 2 = 0#2 → e.getLsbD 57 = true →
      e.getLsbD 58 = true → q.occ.contains slot = false → w = 2 ^ 21 + col * 2 ^ 14 + 2 ^ 7 + row → row < 128 → col < 128 →
      (s.counter j).state = 2#2 → (s.counter j).p = h + 1 → PortIdle s k → (s.coreSt k).hold = [] → s.freshCount k < 64 →
      ∃ t, exec .trailEntryStart s = .next t ∧ next t ∧ SameData s t
        ∧ CounterIs s t j { s.counter j with p := h, state := if h = 0 then 0#2 else 2#2 }
        ∧ (t.dieSt dk).trail.open_ = q.open_ ++ [(q.head, s.grpNext)] ∧ (t.dieSt dk).trail.occ = slot :: q.occ
        ∧ (t.group rid s.grpNext).left = 1
        ∧ Queued s t k 2
            { hix := (e.extractLsb' 10 8).toNat, cls := 2, x10 := arg,
              x11 := BitVec.ofNat 64 ((e.extractLsb' 0 8).toNat + slot * 2 ^ 16 + q.head * 2 ^ 24), x12 := 0#64, x13 := 1#64,
              grp := some s.grpNext, acq := 3 })
    ∧ (∀ i g, q.open_[s.cur.idx]? = some (i, g) → (s.group rid g).left = 0 →
      ∃ t, exec .trailEntryComplete s = .next t ∧ SameData s t ∧ t.cores = s.cores
        ∧ (t.dieSt dk).trail = { q with
            open_ := q.open_.eraseIdx s.cur.idx
            occ := if (s.group rid g).pos / 256 = 1 then q.occ.filter (· != (s.group rid g).pos % 256) else q.occ })
    ∧ (∀ (m : Msg) (rest : List Msg) (pdie ph mb from_ : Nat) (r : Word),
      let pk := dieKey m.rid pdie
      let p := (s.dieSt pk).trail
      let core := p.anchor pdie r
      let k := coreKey m.rid core
      let off := (m.h1.extractLsb' 0 18).toNat
      let j := k * 256 + (r.extractLsb' 38 8).toNat
      let landed (t : State) : Prop := t.net = rest ∧ t.xregs = s.xregs
        ∧ (t.coreSt (coreKey m.rid m.score)).outq = (s.coreSt (coreKey m.rid m.score)).outq.filter (fun o => m.out != some o.id)
        ∧ ∀ x, t.mem.get memDefault x =
        let at_ := lmAddr m.rid core off
        if at_ ≤ x ∧ x < at_ + m.payload.length then m.payload.getD (x - at_) 0#8 else s.mem.get memDefault x
      s.cur.idx = 0 → s.net = m :: rest → m.post = some (pdie, ph, mb, from_) → m.marks = [] → p.defined = true →
      p.receiver ph mb = some r →
      ((s.coreSt k).fenced = true → ∃ t, exec .trailPostArrival s = .next t ∧ t.net = rest ∧ SameData s t ∧ t.counters = s.counters
        ∧ t.dies = s.dies) ∧
      ((s.coreSt k).fenced = false → PortIdle s k → m.payload = [] ∨ s.serviceTurn m.rid core = true →
      (ph = 1 → ∃ t, exec .trailPostArrival s = .next t ∧ landed t ∧ (t.dieSt pk).trail.grad.contains mb = true)
      ∧ (ph = 0 → 2 ≤ (s.counter j).value.toNat → (s.counter j).state ≠ 3#2 →
          ∃ t, exec .trailPostArrival s = .next t ∧ landed t
            ∧ CounterIs s t j { s.counter j with value := (s.counter j).value - 1#32 })))
    ∧ ∀ rid from_ dst mb rest, s.cur.idx = 0 → s.slotRets = (rid, from_, dst, mb) :: rest → (s.dieSt (dieKey rid dst)).trail.defined = true →
        ∃ t, exec .slotReturn s = .next t ∧ t.slotRets = rest ∧ SameData s t
          ∧ (t.dieSt (dieKey rid dst)).trail = { (s.dieSt (dieKey rid dst)).trail with free := (s.dieSt (dieKey rid dst)).trail.free + 1 }

/-! ### The die command processors (R160 to R168, R334 to R337, R345) -/

/-- R334 to R336: LAUNCH reads the 64 bytes of its record, sends them to the processor of die x[a] and waits, and writes the
processor's status to x[d] when it has come; CQPOST stores x[b] as VALUE and raises SEQ by 1 in one step and writes the new SEQ; CQWAIT
writes VALUE once SEQ has reached x[b], unsigned, and else waits for a write to the cell; its acquire of scope .dev empties the cluster
cache (R70). The record and the cells lie in the issuing core's own LM, or in device memory of this device; what the cluster cache holds
of the record's line may be what LAUNCH reads there (R70). That the cached line of a cell goes with CQPOST's access is the model's choice
(log 110). -/
def Obligations.QueueInstructions : Prop :=
  (∀ (s : State) (d a b : BitVec 5) (off : Nat), Quiet s →
    let die := (s.rx a).toNat
    let cell := lmNumber s off 16
    let seq := cell / 2 ^ 64
    (die < 64 → die < s.myRealm.n → (s.rx b).toNat % 64 = 0 →
      (∀ v, s.me.wait = .answer v → ∃ t, exec (.launch d a b) s = .next t ∧ WroteX s t d v (s.pc + 4#64) 0#5)
      ∧ (OwnLm s (s.rx b) 64 off → Unpoisoned s off 64 →
        ∃ t, exec (.launch d a b) s = .next t ∧ t.me.pc = s.pc ∧ t.me.busy = s.me.busy ∧ t.me.wait = .unit ∧ SameData s t
          ∧ (t.dieSt (dieKey s.cur.rid die)).dcq.reqs = (s.dieSt (dieKey s.cur.rid die)).dcq.reqs ++ [
              { core := s.cur.core, frame := s.me.frame,
                data := (List.range 64).map fun i => s.mem.get memDefault (ownLm s (off + i)) } ]))
    ∧ (OwnLm s (s.rx a) 16 off → Unpoisoned s off 16 →
      (∃ t, exec (.cqpost d a b) s = .next t ∧ XIs s t d (BitVec.ofNat 64 (seq + 1))
        ∧ LmStored s t off 16 ((s.rx b).toNat + (seq + 1) % 2 ^ 64 * 2 ^ 64) ∧ SlotMoves s t (s.pc + 4#64) (s.me.safecnt + 1) 0#5)
      ∧ ((s.rx b).toNat ≤ seq →
        ∃ t, exec (.cqwait d a b) s = .next t ∧ XIs s t d (BitVec.ofNat 64 cell)
          ∧ SlotMoves s t (s.pc + 4#64) (s.me.safecnt + 1) 0#5 ∧ t.mem = s.mem ∧ (t.clusterSt s.clk).cache = [])
      ∧ (seq < (s.rx b).toNat → Calm s →
        ∃ t, exec (.cqwait d a b) s = .next t ∧ t.me.pc = s.pc ∧ t.me.busy = s.me.busy
          ∧ t.me.wait = .watch (.lm s.cur.core off) (s.rx a).toNat (s.rx b).toNat true ∧ SameData s t
          ∧ { rid := s.cur.rid, core := s.cur.core, frame := s.me.frame, line := ownLm s off / 64 } ∈ t.watches)))
  ∧ ∀ (s : State) (d a b : BitVec 5) (l : Loc), Quiet s →
    let die := (s.rx a).toNat
    let cell := devNumber s l 0 16
    let seq := cell / 2 ^ 64
    let line := locAddr s.cur.rid l
    (die < 64 → die < s.myRealm.n → DevMem s (s.rx b) 64 false l → Clean s l 64 → line % 64 = 0 →
      ∃ (t : State) (bs : List Byte), exec (.launch d a b) s = .next t ∧ t.me.pc = s.pc ∧ t.me.busy = s.me.busy ∧ t.me.wait = .unit
        ∧ SameData s t
        ∧ (t.dieSt (dieKey s.cur.rid die)).dcq.reqs = (s.dieSt (dieKey s.cur.rid die)).dcq.reqs ++ [
            { core := s.cur.core, frame := s.me.frame, data := bs } ]
        ∧ ((∀ c ∈ (s.clusterSt s.clk).cache, c.addr ≠ line) → bs = (List.range 64).map (devByte s l)))
    ∧ (DevBoth s (s.rx a) 16 l → Clean s l 16 →
      ∃ t, exec (.cqpost d a b) s = .next t ∧ XIs s t d (BitVec.ofNat 64 (seq + 1))
        ∧ DevStored s t l 16 ((s.rx b).toNat + (seq + 1) % 2 ^ 64 * 2 ^ 64) ∧ SlotMoves s t (s.pc + 4#64) (s.me.safecnt + 1) 0#5
        ∧ CoreCounts s t ∧ ∀ c ∈ (t.clusterSt s.clk).cache, c.addr ≠ line / 64 * 64)
    ∧ (DevMem s (s.rx a) 16 false l → Clean s l 16 →
      ((s.rx b).toNat ≤ seq → NoAck s s.cur.rid s.cur.core →
        ∃ t, exec (.cqwait d a b) s = .next t ∧ XIs s t d (BitVec.ofNat 64 cell)
          ∧ SlotMoves s t (s.pc + 4#64) (s.me.safecnt + 1) 0#5 ∧ CoreCounts s t ∧ t.mem = s.mem ∧ (t.clusterSt s.clk).cache = [])
      ∧ (seq < (s.rx b).toNat → Calm s →
        ∃ t, exec (.cqwait d a b) s = .next t ∧ t.me.pc = s.pc ∧ t.me.busy = s.me.busy
          ∧ t.me.wait = .watch l (s.rx a).toNat (s.rx b).toNat true ∧ SameData s t
          ∧ { rid := s.cur.rid, core := s.cur.core, frame := s.me.frame, line := line / 64 } ∈ t.watches))

/-- R161 to R167, R339, R375: an entry at the head of the queue of a die of an ACTIVE realm is consumed once its command is done: a
NOP at once; a reserved code with a DCQFAULT report of reason 1; a LAUNCH of a persistent task on one core when the task is
ready with the values of R30; a TILES entry after its last record has readied its task; a COLLECTIVE STEP with its message; a WAIT
when its counter has reached VAL; a BRANCH when SEQ has come, with the next SKIP entries where VALUE does not match; a FENCE when no
task of its queue's earlier commands is left. A SIGNAL first sends a flushing read, and its vector goes out where the MSI-X table does not
mask it. The tasks and the message acquire at scope `.dev` when their tasks start (R85, R168). The Caddy on the lowest logical die that
holds the expert of a tile record answers for it (R159). When a tile record is read, and that a masked vector waits, are the model's
choices (log 79, log 103), as is that a processor reads what lies on another device line by line (log 135). -/
def Obligations.QueueCommands : Prop :=
  ∀ (s : State) (bs : List Byte),
    let rid := s.cur.rid
    let die := s.cur.die
    let dk := dieKey rid die
    let q := (s.dieSt dk).dcq
    let e := ofBytes bs
    let field (hi lo : Nat) : Nat := e / 2 ^ lo % 2 ^ (hi + 1 - lo)
    let consumed (u t : State) (skip : Nat) : Prop :=
      (t.dieSt dk).dcq = { (u.dieSt dk).dcq with head := (u.dieSt dk).dcq.head + 1, cur := none, prog := 0, loaded := 0, grp := 0, flush := false, skip := skip }
    (s.realm rid).state = 1 → die < (s.realm rid).n → q.stopped = false → q.cur = some bs →
    (e = 0 → NoLines s s → ∃ t, exec .dcqNop s = .next t ∧ consumed s t q.skip ∧ SameData s t ∧ t.net = s.net ∧ t.cores = s.cores)
    ∧ (8 ≤ e % 256 → NoLines s s →
      ∃ (t : State) (m : Msg), exec .dcqReservedCommand s = .next t ∧ consumed s t q.skip ∧ SameData s t ∧ t.net = s.net ++ [m]
        ∧ m.a0 = 0x10183#64
        ∧ m.a1 = BitVec.ofNat 64 (((s.realm rid).dcqt.get {} die).base.toNat + 64 * (q.head % 2 ^ ((s.realm rid).dcqt.get {} die).k)))
    ∧ (∀ core,
      let k := coreKey rid core
      e % 256 = 1 → q.prog = 0 → launchBad e (s.realm rid).n = none → launchCores e (s.realm rid).n = [core] → e.testBit 19 = true →
      e.testBit 20 = true → e.testBit 21 = false → field 27 24 = 0 → field 447 384 = 0 → field 511 448 = 0 → PortIdle s k →
      (s.coreSt k).hold = [] → s.freshCount k < 64 → NoLines s s →
      ∃ t, exec .dcqLaunch s = .next t ∧ consumed s t q.skip ∧ SameData s t
        ∧ Queued s t k (field 17 16)
            { hix := field 15 8, cls := field 17 16, steal := e.testBit 18, x10 := BitVec.ofNat 64 (field 319 256),
              x11 := BitVec.ofNat 64 (field 383 320), x12 := 0#64, x13 := 1#64, acq := 4 })
    ∧ (∀ (i core : Nat) (rb : List (Byte × Bool)) (u w : State),
      let k := coreKey rid core
      let r := ofBytes (plain rb)
      let va := field 127 64 + 16 * i
      e % 256 = 2 → q.prog = i + 1 → field 143 128 = i + 1 → 1 ≤ field 17 16 → field 17 16 ≤ 3 →
      s.unitClean rid die va 16 16 = (.ok rb, u) → 1 ≤ r / 2 ^ 24 % 256 → r / 2 ^ 24 % 256 ≤ 32 →
      u.tileCore rid (r % 2 ^ 24) (r / 2 ^ 48 % 2 ^ 16) = (some core, w) → (w.dieSt dk).dcq = q → PortIdle w k → (w.coreSt k).hold = [] → w.freshCount k < 64 →
      NoLines s w →
      ∃ t, exec .dcqTiles s = .next t ∧ (t.dieSt dk).dcq.head = (w.dieSt dk).dcq.head + 1 ∧ (t.dieSt dk).dcq.cur = none
        ∧ (t.group rid (w.dieSt dk).dcq.grp).closed = true
        ∧ Queued w t k (field 17 16)
            { hix := field 15 8, cls := field 17 16, x10 := BitVec.ofNat 64 va, x11 := BitVec.ofNat 64 (field 255 192),
              x12 := BitVec.ofNat 64 i, x13 := BitVec.ofNat 64 (i + 1), acq := 4, grp := some (s.dieSt dk).dcq.grp })
    ∧ (e % 256 = 3 → field 511 384 = 0 → field 127 84 = 0 → field 63 18 = 0 → field 17 16 ≠ 0 → field 15 8 < 0xF0 →
      s.coreExists rid (field 83 64) = true → NoLines s s →
      ∃ t, exec .dcqCollectiveStep s = .next t ∧ consumed s t q.skip ∧ SameData s t
        ∧ t.net = s.net ++ [
            { rid := rid, sdev := s.fabid, score := unitCore die, ddev := 0xFFF, scope := 4,
              h0 := BitVec.ofNat 64 (field 17 16 * 2 ^ 49 + 2 ^ 48 + field 15 8 * 2 ^ 32 + 0xFFF * 2 ^ 20 + field 83 64),
              h1 := BitVec.ofNat 64 (rid * 2 ^ 50 + s.fabid * 2 ^ 38 + unitCore die * 2 ^ 18),
              a0 := BitVec.ofNat 64 (field 191 128), a1 := BitVec.ofNat 64 (field 255 192), a2 := BitVec.ofNat 64 (field 319 256),
              a3 := BitVec.ofNat 64 (field 383 320) } ])
    ∧ (∀ (rb : List (Byte × Bool)) (u : State), e % 256 = 4 → field 511 192 = 0 → field 63 8 = 0 →
      s.unitClean rid die (field 127 64) 8 8 = (.ok rb, u) → NoLines s u →
      (field 191 128 ≤ ofBytes (plain rb) → ∃ t, exec .dcqWait s = .next t ∧ consumed u t (u.dieSt dk).dcq.skip ∧ SameData u t)
      ∧ (ofBytes (plain rb) < field 191 128 → exec .dcqWait s = .next u))
    ∧ (∀ (rb : List (Byte × Bool)) (u : State),
      let c := ofBytes (plain rb)
      e % 256 = 5 → field 511 320 = 0 → field 63 16 = 0 → field 127 64 % 16 = 0 → s.unitClean rid die (field 127 64) 16 16 = (.ok rb, u) →
      NoLines s u →
      (c / 2 ^ 64 % 2 ^ 64 < field 191 128 → exec .dcqBranch s = .next u)
      ∧ (field 191 128 ≤ c / 2 ^ 64 % 2 ^ 64 →
        ∃ t, exec .dcqBranch s = .next t ∧ SameData u t
          ∧ consumed u t (if c % 2 ^ 64 &&& field 255 192 = field 319 256 then (u.dieSt dk).dcq.skip else field 15 8)))
    ∧ (e % 256 = 6 → field 511 192 = 0 → field 63 27 = 0 → field 15 8 = 0 → field 127 64 % 8 = 0 → q.flush = false → s.hostUp = true →
      NoLines s s →
      ∃ t, exec .dcqSignal s = .next t ∧ (t.dieSt dk).dcq = { q with flush := true } ∧ SameData s t
        ∧ t.hostRds = s.hostRds ++ [{ flush := true, rid := rid, die := die, at_ := s.clock }] ∧ t.hostOut = s.hostOut ++ [.flush])
    ∧ (∀ r : HostRd, e % 256 = 6 → q.flush = true → s.hostUp = true → s.hostRds = [r] → r.flush = true → r.rid = rid → r.die = die →
      s.vecOn (field 26 16) = true →
      ∃ t, exec .flushingReadComplete s = .next t ∧ consumed s t q.skip ∧ SameData s t ∧ t.hostRds = []
        ∧ t.hostOut = s.hostOut ++ [.write (field 127 64) (toBytes 8 (field 191 128)), .msi (field 26 16)])
    ∧ (e % 256 = 7 → field 511 11 = 0 → field 10 8 = 3 ∨ field 10 8 = 4 ∨ field 10 8 = 6 → s.groups = [] → NoLines s s →
      ∃ t, exec .dcqFence s = .next t ∧ consumed s t q.skip ∧ SameData s t)

/-- R161, R335, R345, R164: a reservation is refused with 1 by a full queue, and else its record is written into the ring and the
requester answered with 0; a doorbell below the queue's size becomes the tail of the host queue, and another sets DBERR; I/O die 0
reads the next entry of a host queue, commits it and moves HEAD; the last DONE of a command adds 1 to its counter. That a
doorbell for a die which the realm does not have is kept until it has it is the model's choice (log 87). -/
def Obligations.QueueEvents : Prop :=
  ∀ (s : State),
    let rid := s.cur.rid
    let die := s.cur.die
    let dk := dieKey rid die
    let q := (s.dieSt dk).dcq
    let hq := (s.realm rid).hqt.get {} die
    (∀ r : DcqReq,
      let sk := unitKey rid r.core 0
      s.cur.idx = 0 → q.reqs = [r] → r.frame < 16 → (s.slotSt sk).busy = true → (s.slotSt sk).frame = r.frame →
      (2 ^ ((s.realm rid).dcqt.get {} die).k ≤ q.tail - q.head →
        ∃ t, exec .dcqReservation s = .next t ∧ (t.slotSt sk).wait = .answer 1#64 ∧ (t.dieSt dk).dcq = { q with reqs := [] } ∧ SameData s t)
      ∧ ∀ u : State, q.tail - q.head < 2 ^ ((s.realm rid).dcqt.get {} die).k →
          (s.modDcq dk fun x => { x with reqs := [] }).unitWrite rid die 3
            (((s.realm rid).dcqt.get {} die).base.toNat + 64 * (q.tail % 2 ^ ((s.realm rid).dcqt.get {} die).k)) 64 (unmarked r.data)
              = (none, u) →
          (u.slotSt sk).busy = true → (u.slotSt sk).frame = r.frame →
          ∃ t, exec .dcqReservation s = .next t ∧ (t.slotSt sk).wait = .answer 0#64
            ∧ (t.dieSt dk).dcq = { (u.dieSt dk).dcq with tail := (u.dieSt dk).dcq.tail + 1 } ∧ t.mem = u.mem)
    ∧ (let r := s.cur.inp.a / 0x200
      let g := s.cur.inp.a % 0x200 / 8
      s.hostUp = true → (∀ x ∈ s.farQ, x.unit ≠ some 6) → s.power ≠ 4 → r < 64 → s.cur.inp.a % 8 = 0 →
      (s.cur.inp.b < 2 ^ ((s.realm r).hqt.get {} g).k →
        ∃ t, exec .doorbell s = .next t ∧ t.power = 0 ∧ (t.dieSt (dieKey r g)).dcq = { (s.dieSt (dieKey r g)).dcq with htail := s.cur.inp.b, bell := true }
          ∧ t.realms = s.realms ∧ SameData s t)
      ∧ (2 ^ ((s.realm r).hqt.get {} g).k ≤ s.cur.inp.b →
        ∃ t, exec .doorbell s = .next t ∧ t.power = 0 ∧ t.realm r = { s.realm r with dberr := true } ∧ t.dies = s.dies ∧ SameData s t))
    ∧ (s.hostUp = true → (s.realm rid).state = 1 → die < (s.realm rid).n → q.htail ≠ hq.head →
      (s.hostRds = [] →
        ∃ t, exec .hostQueueFetch s = .next t ∧ t.hostRds = [{ flush := false, rid := rid, die := die, at_ := s.clock }]
          ∧ t.hostOut = s.hostOut ++ [.read (hq.base.toNat + 64 * hq.head) 64] ∧ SameData s t)
      ∧ ∀ (r : HostRd) (u : State), s.hostRds = [r] → r.flush = false → r.rid = rid → r.die = die → s.cur.inp.data.length = 64 →
          q.tail - q.head < 2 ^ ((s.realm rid).dcqt.get {} die).k →
          ({ s with hostRds := [] } : State).unitWrite rid die 3
            (((s.realm rid).dcqt.get {} die).base.toNat + 64 * (q.tail % 2 ^ ((s.realm rid).dcqt.get {} die).k)) 64
              (unmarked s.cur.inp.data) = (none, u) →
          ∃ t, exec .hostQueueFetch s = .next t ∧ (t.dieSt dk).dcq = { (u.dieSt dk).dcq with
                tail := (u.dieSt dk).dcq.tail + 1
                bell := (u.dieSt dk).dcq.bell && (u.dieSt dk).dcq.htail != (hq.head + 1) % 2 ^ hq.k }
            ∧ ((t.realm rid).hqt.get {} die).head = (hq.head + 1) % 2 ^ hq.k ∧ t.mem = u.mem)
    ∧ (let g := s.group rid s.cur.sub
      s.acts rid = true → g.closed = true → g.left = 0 → g.trail = false →
      (g.tlc = 0 → ∃ t, exec .commandTlcAdd s = .next t ∧ t.group rid s.cur.sub = {} ∧ SameData s t)
      ∧ ∀ core off : Nat,
          let base := lmAddr rid core off
          g.tlc = 0xFE * 2 ^ 48 + core * 2 ^ 18 + off → off % 8 = 0 → off + 8 ≤ 0x30000 → s.coreExists rid core = true →
          s.poisoned base 8 = false →
          ∃ t, exec .commandTlcAdd s = .next t ∧ t.group rid s.cur.sub = {} ∧ t.xregs = s.xregs ∧ t.fregs = s.fregs
            ∧ t.pregs = s.pregs ∧ t.vregs = s.vregs
            ∧ ∀ a, t.mem.get memDefault a =
                if base ≤ a ∧ a < base + 8 then BitVec.ofNat 8 ((s.rdLmNum rid core off 8 + 1) / 256 ^ (a - base))
                else s.mem.get memDefault a)

/-! ### Scale-up links, storage errors (R178, R382, R396 to R403, R409) -/

/-- R397 to R399: a sequenced flit with the expected number is accepted, one whose CRC fails is counted and starts NAK state with a NAK;
an acknowledgement frees the flits up to its number; a NAK frees those before the number it asks for and begins to send the rest again,
in order and before anything new; one that names the number of the replay in progress is counted alone. The port is UP in mode ESQ, and
the module is not in D4. The bit order of the CRC is the model's choice (log 18). -/
def Obligations.FlitsAreReceived : Prop :=
  ∀ (s : State),
    let p := s.cur.die
    let x := s.port p
    let f := s.cur.inp.data
    let head := ofBytes (f.take 4)
    let kind := head / 2 ^ 16 % 16
    let good := crc32 0xFFFFFFFF (f.take 252) = ofBytes (f.drop 252)
    let num := ofBytes ((f.drop 4).take 2) % 4096
    let port (t : State) (y : PortSt) : Prop := ∀ k, t.port k = if k = p then y else s.port k
    p < 32 → x.state = 2 → f.length = 256 → x.esq = true → x.e < 4096 → s.power ≠ 4 →
    (good → kind = 6 → head / 2 ^ 20 = x.e → x.fresh < 63 →
      ∃ t, exec .flitReceive s = .next t ∧ t.power = 0 ∧ SameData s t ∧ t.wire = s.wire
        ∧ t.doneFlits = s.doneFlits ++ [(f.drop 4).take (min 248 (head / 2 ^ 8 % 256))]
        ∧ port t { x with e := (x.e + 1) % 4096, nak := none, heard := true, fresh := x.fresh + 1,
                          ackAt := if x.fresh = 0 then s.clock else x.ackAt })
    ∧ (¬ good → x.nak = none →
      ∃ (t : State) (w : List Byte), exec .flitReceive s = .next t ∧ SameData s t ∧ t.doneFlits = s.doneFlits
        ∧ t.wire = s.wire ++ [(p, w)] ∧ w.length = 256 ∧ ofBytes (w.take 4) / 2 ^ 16 % 16 = 4
        ∧ ofBytes ((w.drop 4).take 2) = (x.e + 4095) % 4096
        ∧ port t { x with crcerr := x.crcerr + 1, naktx := x.naktx + 1, nak := some s.clock })
    ∧ (good → kind = 3 → ∀ i, x.buf.findIdx? (fun e => e.1 == num) = some i →
      ∃ t, exec .ackReceive s = .next t ∧ SameData s t ∧ t.wire = s.wire
        ∧ port t { x with buf := x.buf.drop (i + 1), back := min x.back (x.buf.length - (i + 1)), tries := 0, since := s.clock })
    ∧ (good → kind = 4 →
      (0 < x.back → x.backAt = some num →
        ∃ t, exec .nakReceive s = .next t ∧ SameData s t ∧ t.wire = s.wire ∧ port t { x with nakrx := x.nakrx + 1 })
      ∧ (x.next = (num + 1) % 4096 → x.buf ≠ [] → x.back = 0 →
        ∃ t, exec .nakReceive s = .next t ∧ SameData s t ∧ t.wire = s.wire
          ∧ port t { x with nakrx := x.nakrx + 1, buf := [], tries := 0, since := s.clock, await := false, back := 0, backAt := none })
      ∧ ∀ i, x.next ≠ (num + 1) % 4096 → x.buf.findIdx? (fun e => e.1 == (num + 1) % 4096) = some i → x.tries = 0 → x.back = 0 →
          ∃ t, exec .nakReceive s = .next t ∧ SameData s t ∧ t.wire = s.wire
            ∧ port t { x with nakrx := x.nakrx + 1, buf := x.buf.drop i, tries := 1, triesAt := (num + 1) % 4096, since := s.clock,
                              await := false, back := x.buf.length - i, backAt := some num })
    ∧ ∀ seq kn data, 0 < x.back → x.buf[x.buf.length - x.back]? = some (seq, kn, data) →
        SameData s (s.sendFlit p) ∧ (s.sendFlit p).wire = s.wire ++ [(p, mkFlit true (kn / 256) seq (kn % 256) data)]
          ∧ port (s.sendFlit p) { x with back := x.back - 1, replays := x.replays + 1 }

/-- R397 to R403, R404, R382, R409: what a port has accepted since its last acknowledgement can be acknowledged at any time, and has been
once 256 cycles have passed since the first of it; a NAK leaves again after 4,096 cycles; a flit not acknowledged for 8,192 cycles begins
a replay of all, and after 8 of them the port retrains; a lane's failure, which may be the partner's retraining, and PCTL[0] retrain
it, a DOWN port too that HOLD does not keep down; PCTL[1] takes it DOWN, and a training that it ends is counted; a flit that
fails its CRC as the retraining begins is counted and starts NAK state without a NAK; a training that ends with a good width takes the
port UP and sends a NAK, and one without ends DOWN, and a port that has never been UP takes its mode from it; a DOWN port is tried again
after 2^24 cycles; a failed hop halts the ACTIVE realms with 0xE1; a corrected error is counted, and an uncorrectable one poisons its
word. A state change is told with the port's vector (R403). The model's choices: the bit order of the CRC (log 18), that a masked vector
waits (log 103), that the change from DOWN is told with the change to UP (log 50), and that PCTL[0] in a training makes it a retraining
that was asked for (log 139). -/
def Obligations.LinkEvents : Prop :=
  ∀ (s : State),
    let p := s.cur.die
    let x := s.port p
    let f := s.cur.inp.data
    let port (t : State) (y : PortSt) : Prop := ∀ k, t.port k = if k = p then y else s.port k
    let vector (t : State) (vec : Nat) : Prop :=
      if (s.msix.get {} vec).masked = true then t.hostOut = s.hostOut ∧ vec ∈ t.pend else t.hostOut = s.hostOut ++ [.msi vec]
    let told (t : State) : Prop := vector t x.vec
    let flit (w : List Byte) (kind : Nat) : Prop := w.length = 256
      ∧ ofBytes (w.take 4) / 2 ^ 16 % 16 = kind ∧ ofBytes ((w.drop 4).take 2) = (x.e + 4095) % 4096
    let sent (t : State) (kind : Nat) : Prop := ∃ w : List Byte, t.wire = s.wire ++ [(p, w)] ∧ flit w kind
    p < 32 → s.hostUp = true →
    (x.state = 2 →
      (x.fresh ≠ 0 →
        (∃ t, exec .ackTimer s = .next t ∧ SameData s t ∧ sent t 3 ∧ port t { x with fresh := 0 })
        ∧ ∀ n, s.ports = [(p, x)] → x.ackAt + 256 ≤ s.clock →
          ((s.linkTime n).port p).fresh = 0 ∧ ∃ w rest, (s.linkTime n).wire = s.wire ++ (p, w) :: rest ∧ flit w 3)
      ∧ (∀ t0, x.nak = some t0 → t0 + 4096 ≤ s.clock →
        ∃ t, exec .nakResendTimeout s = .next t ∧ SameData s t ∧ sent t 4 ∧ port t { x with naktx := x.naktx + 1, nak := some s.clock })
      ∧ (∀ seq kn data rest, x.buf = (seq, kn, data) :: rest → x.since + 8192 ≤ s.clock →
        (x.tries = 0 → ∃ t, exec .replayTimeout s = .next t ∧ SameData s t ∧ t.wire = s.wire
          ∧ port t { x with tries := 1, triesAt := seq, since := s.clock, back := rest.length + 1, backAt := none })
        ∧ (x.tries = 8 → x.triesAt = seq → f = [] → ∃ t, exec .replayTimeout s = .next t ∧ SameData s t ∧ t.wire = s.wire ∧ told t
          ∧ port t { x with tries := 0, state := 1, wasDown := false, asked := false, at_ := s.clock, back := 0, backAt := none }))
      ∧ (f = [] → ∃ t, exec .laneFailure s = .next t ∧ SameData s t ∧ told t ∧ t.wire = s.wire
          ∧ port t { x with state := 1, wasDown := false, asked := s.cur.inp.b == 1, at_ := s.clock, back := 0, backAt := none })
      ∧ (f.length = 256 → x.esq = true → x.nak = none → crc32 0xFFFFFFFF (f.take 252) ≠ ofBytes (f.drop 252) →
          ∃ t, exec .laneFailure s = .next t ∧ SameData s t ∧ told t ∧ t.wire = s.wire
            ∧ port t { x with state := 1, wasDown := false, asked := s.cur.inp.b == 1, at_ := s.clock, back := 0, backAt := none,
                              crcerr := x.crcerr + 1, nak := some s.clock })
      ∧ (let v := s.cur.inp.a
        let vec := v / 2 ^ 16 % 2 ^ 11
        s.power ≠ 4 → f = [] →
        (v % 4 = 1 → ∃ t, exec .retrain s = .next t ∧ SameData s t ∧ t.power = 0 ∧ vector t vec
          ∧ port t { x with vec := vec, hold := false, state := 1, wasDown := false, asked := true, at_ := s.clock, back := 0,
                            backAt := none })
        ∧ (v % 4 = 2 → ∃ t, exec .hold s = .next t ∧ SameData s t ∧ t.power = 0 ∧ vector t vec
          ∧ port t { x with vec := vec, hold := true, state := 0, asked := false, at_ := s.clock, back := 0, backAt := none })))
    ∧ (x.state = 0 → f = [] →
      (x.hold = false → ∃ t, exec .laneFailure s = .next t ∧ SameData s t ∧ t.hostOut = s.hostOut ∧ t.wire = s.wire
        ∧ port t { x with state := 1, wasDown := true, asked := s.cur.inp.b == 1, at_ := s.clock, back := 0, backAt := none })
      ∧ (x.hold = true → exec .laneFailure s = .next s))
    ∧ (x.state = 1 → x.wasDown = true → s.power ≠ 4 →
      let vec := s.cur.inp.a / 2 ^ 16 % 2 ^ 11
      (s.cur.inp.a % 4 = 1 → ∃ t, exec .retrain s = .next t ∧ t.hostOut = s.hostOut
        ∧ port t { x with vec := vec, hold := false, asked := true })
      ∧ (s.cur.inp.a % 4 = 2 → ∃ t, exec .hold s = .next t ∧ t.hostOut = s.hostOut
        ∧ port t { x with vec := vec, hold := true, state := 0, asked := false, at_ := s.clock, back := 0, backAt := none,
                          retrains := x.retrains + 1 }))
    ∧ (x.state = 1 → x.wasDown = false → x.asked = false → x.hold = false → s.cur.inp.b = 1 →
      let failed := s.cur.inp.a % 2 ^ 16
      let esq := if x.wasUp = true then x.esq else decide (s.cur.inp.c % 2 = 1)
      (failed = 0 ∨ (x.lanes = 1 ∧ failed % 2 ^ 8 = 0) →
        ∃ t, exec .retrainingEnd s = .next t ∧ SameData s t ∧ told t ∧ sent t 4
          ∧ port t { x with failed := failed, retrains := x.retrains + 1, state := 2, wasUp := true, esq := esq, await := true, since := s.clock,
                            nak := x.nak.map fun _ => s.clock, naktx := x.naktx + 1 })
      ∧ (x.lanes = 0 → failed ≠ 0 → failed < 2 ^ 8 →
        ∃ t, exec .retrainingEnd s = .next t ∧ SameData s t ∧ told t ∧ sent t 4 ∧ (t.port p).state = 2 ∧ (t.port p).lanes = 2)
      ∧ (3 ≤ x.lanes → failed = 0xFFFF → x.lanes ≤ 6 →
        ∃ t, exec .retrainingEnd s = .next t ∧ SameData s t ∧ told t ∧ t.wire = s.wire
          ∧ port t { x with failed := failed, retrains := x.retrains + 1, state := 0, esq := esq, at_ := s.clock }))
    ∧ (x.state = 0 → x.hold = false → x.at_ + 2 ^ 24 ≤ s.clock →
        ∃ t, exec .trainingRetry s = .next t ∧ SameData s t ∧ t.hostOut = s.hostOut
          ∧ port t { x with state := 1, wasDown := true, asked := false, at_ := s.clock, back := 0, backAt := none })
    ∧ (∀ rid r, s.realms = [(rid, r)] → r.state = 1 →
        ∃ t, exec .fabricHopFailure s = .next t ∧ SameData s t ∧ t.hopDown = true ∧ (t.realm rid).state = 2
          ∧ (t.realm rid).reason = 0xE1 ∧ (t.realm rid).err = 0xE1)
    ∧ (s.cur.sub ≠ 1 → ∃ t, exec .correctedError s = .next t ∧ SameData s t
        ∧ ∀ k, t.corrected.get 0 k = if k = p then s.corrected.get 0 p + 1 else s.corrected.get 0 k)
    ∧ (s.cur.sub = 0 → s.coreExists s.cur.rid s.cur.core = true → s.cur.inp.a < 0x30000 →
        ∃ t, exec .uncorrectableError s = .next t ∧ SameData s t
          ∧ ∀ w, t.poison.get false w = if w = lmAddr s.cur.rid s.cur.core s.cur.inp.a / 8 then true else s.poison.get false w)

/-! ### Realms and the host port (R342 to R360, R393 to R395, R406, R407, R412) -/

/-- R346 to R352, R388, R394: a command that the realm's state allows and whose checks hold has its effect: CREATE gives a realm with
nothing in its LM, registers and slots, with new keys and CYCLE zero; HALT, SAVE and RESTORE begin; RESUME makes the evicted tasks ready;
DESTROY frees the realm and loses its keys. Otherwise the realm stays as it is, with the error of the first check that fails. After a
failed hop CREATE, RESTORE and RESUME are not accepted (R404); that they fail with 0x01 is the model's choice (log 127). So are the
reading of an image's records (log 17), that CREATE clears DBERR and DLOVF (log 86), that the keys' range and overlap belong to the
check of KEYS (log 90), that a resumed task stands behind the fresh ones of its queue and is made ready again (log 93), and that a masked
vector is pending (log 103). The module is not in D4, and no write of the host is on its way to another device (R90, log 137). -/
def Obligations.RealmCommands : Prop :=
  ∀ (s : State),
    let rid := s.cur.rid
    let r := s.realm rid
    let vec := s.cur.inp.a / 2 ^ 16 % 2 ^ 11
    let told (t : State) : Prop :=
      if (s.msix.get {} vec).masked = true then t.hostOut = s.hostOut ∧ vec ∈ t.pend else t.hostOut = s.hostOut ++ [.msi vec]
    let failed (i : Instr) (err : Nat) : Prop :=
      ∃ t, exec i s = .next t ∧ SameData s t ∧ told t ∧ t.realm rid = { r with err := err }
    let empty (t : State) : Prop :=
      (∀ k, k / 2 ^ 24 = rid → t.slotSt k = {} ∧ t.frameSt k = {}) ∧ (∀ k, k / 2 ^ 29 = rid → t.xregs.get 0#64 k = 0#64)
        ∧ ∀ core off, core < 2 ^ 20 → off < 2 ^ 18 → t.mem.get memDefault (lmAddr rid core off) = 0#8
    s.hostUp = true → (∀ x ∈ s.farQ, x.unit ≠ some 6) → rid < 64 → s.power ≠ 4 →
    (s.hopDown = true → (r.state = 0 → failed .create 0x01 ∧ failed .restore 0x01) ∧ (r.state = 3 → failed .resume 0x01))
    ∧ (r.state = 0 → s.hopDown = false →
      (s.regsValid rid = false → failed .create 0x02)
      ∧ (s.regsValid rid = true → s.dieTaken rid = true → failed .create 0x03)
      ∧ (s.regsValid rid = true → s.dieTaken rid = false → wdBad r.wdogcfg = true → failed .create 0x04)
      ∧ (s.regsValid rid = true → s.dieTaken rid = false → wdBad r.wdogcfg = false →
        ∃ t, exec .create s = .next t ∧ told t ∧ empty t ∧ t.power = 0 ∧ (t.realm rid).state = 1 ∧ (t.realm rid).err = 0
          ∧ (t.realm rid).dberr = false ∧ (t.realm rid).dlovf = false ∧ (t.realm rid).root = r.root
          ∧ (∀ i, i < r.kcnt → t.keySer.get 0 (r.kbase + i) = s.keyNext + i) ∧ (∀ d, d < r.n → t.cycle (dieKey rid d) = 0)))
    ∧ (r.state = 1 → ∃ t, exec .halt s = .next t ∧ SameData s t ∧ (t.realm rid).state = 2 ∧ (t.realm rid).err = 0
        ∧ (t.realm rid).vec = vec ∧ t.hostOut = s.hostOut)
    ∧ (r.state = 3 →
      (r.torn = true ∨ r.fenced = true → failed .save 0x23)
      ∧ (r.torn = false → r.fenced = false → s.cur.inp.c ≠ 0 → failed .save 0x17)
      ∧ (s.power = 0 → r.torn = false → r.fenced = false → s.cur.inp.c = 0 →
        (covered (extentsOf s.cur.inp.data) < (s.imageOf rid).size → failed .save 0x17)
        ∧ ((s.imageOf rid).size ≤ covered (extentsOf s.cur.inp.data) →
          ∃ t, exec .save s = .next t ∧ SameData s t ∧ t.hostOut = s.hostOut
            ∧ t.realm rid = { r with state := 4, vec := vec, cmdAt := s.clock, err := 0, extents := extentsOf s.cur.inp.data })))
    ∧ (r.state = 0 → s.hopDown = false → s.dieTaken rid = false → ∀ held, s.cur.inp.img = some held → s.cur.inp.c = 0 →
      let img := held.withHead s.cur.inp.data
      s.keyTaken rid img.regs.kbase img.regs.kcnt = false →
      (∀ e, imageBad r.n s.mstep 0 img = some e → failed .restore e)
      ∧ (imageBad r.n s.mstep 0 img = none →
        ∃ t, exec .restore s = .next t ∧ (t.realm rid).state = 5 ∧ (t.realm rid).vec = vec ∧ (t.realm rid).dmap = r.dmap
          ∧ (t.realm rid).trapc = img.regs.trapc ∧ t.hostOut = s.hostOut))
    ∧ (r.state = 3 → s.hopDown = false → r.fenced = true → failed .resume 0x23)
    ∧ (r.state = 3 → s.hopDown = false → r.fenced = false → s.regsValid rid = true → s.dieTaken rid = false →
      (wdBad r.wdogcfg = true → failed .resume 0x04)
      ∧ (wdBad r.wdogcfg = false →
        (∃ t, exec .resume s = .next t ∧ SameData s t ∧ told t ∧ (t.realm rid).state = 1 ∧ (t.realm rid).err = 0)
        ∧ ∀ fk f, s.frames = [(fk, f)] → fk / 2 ^ 24 = rid → f.used = true → f.evicted = true → f.cls = 1 →
            ∃ t, exec .resume s = .next t ∧ (t.frameSt fk).ready = true
              ∧ (t.coreSt (fk / 16)).urgent = ((s.coreSt (fk / 16)).urgent.filter fun i => match i with
                  | .fresh _ => true
                  | .resumed .. => false) ++ [.resumed (fk % 16) s.clock]))
    ∧ (r.state = 1 ∨ r.state = 3 →
      ∃ t, exec .destroy s = .next t ∧ told t ∧ empty t ∧ (t.realm rid).state = 0 ∧ (t.realm rid).err = 0
        ∧ ∀ i, i < r.kcnt → t.keySer.get 0 (r.kbase + i) = 0)
    ∧ (let cmd := s.cur.inp.a % 256
      ¬ ((r.state = 0 ∧ (cmd = 1 ∨ cmd = 4)) ∨ (r.state = 1 ∧ (cmd = 2 ∨ cmd = 6)) ∨ (r.state = 3 ∧ (cmd = 3 ∨ cmd = 5 ∨ cmd = 6))) →
      failed .realmCommandInvalid 0x01)

/-- R349, R351, R352, R354, R393, R394, R412: a realm that halts is HALTED once nothing of it is on its way, with the reason of a halt
that the device began; SAVE ends with the image written into the extents of its scatter list and RESTORE with the realm HALTED, each
with 0x17 where the host's memory failed, SAVE also where a failed hop has cut off a die of the realm (R404); a limit ends HALTING, SAVING and RESTORING with 0x20, 0x21 and 0x22; an invalidation ends when no access of its page is
on its way, and no TLB of the realm holds its leaf. The model's choices: the content of an image's sections and the order of its records
(log 17), that HLIM is the one which the last CREATE or RESUME found, and that a halt which the device began ends at its limit with its
own reason (log 81), what nothing on its way means (log 94), and that a masked vector is pending (log 103). -/
def Obligations.RealmCommandsEnd : Prop :=
  ∀ (s : State),
    let rid := s.cur.rid
    let r := s.realm rid
    let hlim := (r.wdogOn.extractLsb' 40 12).toNat * 65536
    let told (t : State) (before : List HostOut) (v : Nat) : Prop :=
      if (s.msix.get {} v).masked = true then t.hostOut = s.hostOut ++ before ∧ v ∈ t.pend
      else t.hostOut = s.hostOut ++ before ++ [.msi v]
    s.hostUp = true →
    (r.state = 2 →
      (s.haltDone rid = true → ∃ t, exec .haltComplete s = .next t ∧ SameData s t
        ∧ t.realm rid = { r with state := 3, devHalt := false, err := r.reason }
        ∧ told t [] (if r.devHalt then r.vecUp else r.vec))
      ∧ (hlim ≠ 0 → r.cmdAt + hlim ≤ s.clock → ∃ t, exec .haltLimit s = .next t ∧ (t.realm rid).state = 3
        ∧ (t.realm rid).torn = true ∧ (t.realm rid).err = (if r.devHalt then r.reason else 0x20)))
    ∧ (r.state = 4 →
      (s.cur.inp.c = 0 → (∀ p ∈ State.namedDies r, p ∉ s.cutDies) →
        ∃ t, exec .saveComplete s = .next t ∧ SameData s t ∧ t.realm rid = { r with state := 3, err := 0 }
          ∧ told t (scatter r.extents ((s.imageOf rid).head ++ (s.imageOf rid).body) ++ [.image (s.imageOf rid)]) r.vec)
      ∧ (s.cur.inp.c ≠ 0 ∨ (∃ p ∈ State.namedDies r, p ∈ s.cutDies) →
        ∃ t, exec .saveComplete s = .next t ∧ SameData s t ∧ t.realm rid = { r with state := 3, err := 0x17 } ∧ told t [] r.vec)
      ∧ (hlim ≠ 0 → r.cmdAt + hlim ≤ s.clock →
        ∃ (t : State) (img : Image), exec .saveLimit s = .next t ∧ SameData s t ∧ t.realm rid = { r with state := 3, err := 0x21 }
          ∧ told t (scatter r.extents img.head ++ [.image img]) r.vec ∧ img.digest = List.replicate 32 0#8))
    ∧ (r.state = 5 →
      (s.cur.inp.c = 0 → ∃ t, exec .restoreComplete s = .next t ∧ SameData s t ∧ t.realm rid = { r with state := 3, err := 0 }
        ∧ told t [] r.vec)
      ∧ (s.cur.inp.c ≠ 0 → ∃ t, exec .restoreComplete s = .next t ∧ (t.realm rid).state = 0 ∧ (t.realm rid).err = 0x17
        ∧ told t [] r.vec)
      ∧ (r.cmdAt + 2 ^ 30 ≤ s.clock → ∃ t, exec .restoreLimit s = .next t ∧ (t.realm rid).state = 0 ∧ (t.realm rid).err = 0x22
        ∧ told t [] r.vec))
    ∧ (rid < 64 → r.inving = false → s.power ≠ 4 → (∀ x ∈ s.farQ, x.unit ≠ some 6) →
        ∃ t, exec .invctlStart s = .next t ∧ SameData s t ∧ t.realm rid = { r with inving := true, invAt := r.invva })
    ∧ (s.cur.sub = 0 → r.inving = true → s.pageBusy rid (invPage r.invAt).1 (invPage r.invAt).2 = false →
        ∃ t, exec .invalidationEnd s = .next t ∧ SameData s t ∧ t.realm rid = { r with inving := false }
          ∧ ∀ ck, ck / (64 * 320) = rid → ∀ e ∈ (t.clusterSt ck).tlb,
              e.base + e.size ≤ (invPage r.invAt).1 ∨ (invPage r.invAt).1 + (invPage r.invAt).2 ≤ e.base)
    ∧ (s.cur.sub = 1 → r.tlbinving = true → s.pageBusy rid (invPage r.tlbinvAt).1 (invPage r.tlbinvAt).2 = false →
        ∃ t, exec .invalidationEnd s = .next t ∧ SameData s t ∧ t.realm rid = { r with tlbinving := false })

/-- R343, R344, R346, R355 to R359, R403, R406, R407, R410: the host's register writes store the fields listed, and not those of a realm
that runs; a host read of a register returns it; a physical-mode aperture access within one line reads or writes memory, under its key
where WBASE names one; an idle module enters the deepest state that LTOL admits and wakes at an access, from D4 with a boot; the host
link's loss holds what goes to the host until it is restored; a read of the host is issued again once; firmware is accepted with a valid
signature under the fused key and no older version; a measurement is returned, signed where that is asked; a module reset ends every
realm and keeps device memory. While a write of the host is on its way to another device, the host's next access waits (R90, log 137). The
numbers of management requests (log 22), what a signature is (log 10), what module reset
and D4 keep (log 102), when a module is idle (log 140), and that MSI-X is masked vector by vector with pending bits (log 103) are the model's own. -/
def Obligations.HostPort : Prop :=
  ∀ (s : State),
    let rid := s.cur.rid
    let r := s.realm rid
    let o := s.cur.inp.a
    let bs := s.cur.inp.data
    let v : Word := BitVec.ofNat 64 (ofBytes bs)
    let mgmt (t : State) (n : Nat) : Prop := t.hostOut = s.hostOut ++ [.mgmt (toBytes 8 n)]
    let free : Prop := ∀ x ∈ s.farQ, x.unit ≠ some 6
    (s.power ≠ 4 →
      (s.hostUp = true → free → bs.length = 8 → rid < 64 →
        (∀ q ∈ [ (0x018, { r with root := v }), (0x030, { r with wdogcfg := v }), (0x038, { r with bart := v }), (0x048, { r with sigkeys := v }),
                 (0x010, { r with n := v.toNat }), (0x028, { r with trapc := v.toNat % 2 ^ 20 }),
                 (0x020, { r with kbase := v.toNat % 256, kcnt := v.toNat / 256 % 256 }) ],
          o = 0x100000 + 0x10000 * rid + q.1 →
          ∃ t, exec .registerWrite s = .next t ∧ SameData s t ∧ t.power = 0
            ∧ ∀ k, t.realm k = if k = rid ∧ (r.state = 0 ∨ r.state = 3) then q.2 else s.realm k)
        ∧ (∀ q ∈ [ (0x050, { r with wbase := v &&& 0xFFFFFFFFC001FF81#64 }), (0x058, { r with dlbase := v &&& 0xFFFFFFFFFFFFF000#64 }),
                   (0x070, { r with invva := v &&& 0x01FFFFFFFFFFF003#64 }) ],
          o = 0x100000 + 0x10000 * rid + q.1 →
          ∃ t, exec .registerWrite s = .next t ∧ SameData s t ∧ ∀ k, t.realm k = if k = rid then q.2 else s.realm k)
        ∧ ∀ p, p < 32 → o = 0x10000 + 0x40 * p + 0x10 →
            ∃ t, exec .registerWrite s = .next t ∧ SameData s t ∧ ∀ k, t.port k = if k = p then { s.port p with crcerr := v } else s.port k)
      ∧ (s.hostUp = true → ∃ t, exec .ltolWrite s = .next t ∧ t = { s with ltol := s.cur.inp.b % 2 ^ 64, power := 0 })
      ∧ (∀ n,
        let w := r.wbase
        let die := w.toNat / 2 ^ 58
        let a := devAddr (s.pdieOf rid die) (w.toNat / 2 ^ 7 % 2) (w.toNat / 2 ^ 30 % 2 ^ 28 * 2 ^ 30 + o)
        let key := if w.getLsbD 16 then 0 else s.keyOf (w.toNat / 2 ^ 8 % 2 ^ 8) die
        s.hostUp = true → free → rid < 64 → o < 2 ^ 30 → w.getLsbD 0 = true → s.physBad rid w o = none → s.poison = [] → 1 ≤ n → o % 64 + n ≤ 64 →
        (s.cur.inp.b = n → ∃ t, exec .apertureAccess s = .next t ∧ SameData s t
          ∧ t.hostOut = s.hostOut ++ [.reply ((List.range n).map fun i => s.rdByte (a + i) key) false false])
        ∧ (s.cur.inp.b = 0 → bs.length = n → ∃ t, exec .apertureAccess s = .next t ∧ t.hostOut = s.hostOut
          ∧ ∀ x, t.rdByte x key = if a ≤ x ∧ x < a + n then bs.getD (x - a) 0#8 else s.rdByte x key))
      ∧ (s.cur.sub = 0 → ∃ t, exec .wakeEvent s = .next t ∧ t = { s with power := 0 })
      ∧ (s.hostUp = true → ¬ free → exec .apertureAccess s = .next s ∧ exec .registerWrite s = .next s)
      ∧ (∀ p, s.cur.sub = 1 → s.hostUp = true → free → s.cur.inp.b = 8 → rid < 64 → p < 32 →
        ∀ q ∈ [ (0x000, s.mstep), (0x008, s.fabid), (0x100, s.ltol), (0x200, s.hldown.toNat), (0x10000 + 0x40 * p + 0x10, (s.port p).crcerr.toNat),
                (0x100000 + 0x10000 * rid + 0x018, r.root.toNat), (0x100000 + 0x10000 * rid + 0x028, r.trapc) ],
          o = q.1 → ∃ t, exec .wakeEvent s = .next t ∧ SameData s t ∧ t.power = 0
            ∧ t.hostOut = s.hostOut ++ [.reply (toBytes 8 q.2) false false])
      ∧ (o = 0 → ∃ t, exec .mgmtRequest s = .next t ∧ SameData s t ∧ t.power = 0 ∧ mgmt t s.hldown.toNat)
      ∧ (o = 8 → ∃ t, exec .mgmtRequest s = .next t ∧ SameData s t ∧ t.power = 0 ∧ mgmt t s.power)
      ∧ (o = 10 → ∃ t, exec .mgmtRequest s = .next t ∧ SameData s t ∧ t.power = 0 ∧ mgmt t 0 ∧ t.ltol = s.cur.inp.b)
      ∧ (let ver := o % 2 ^ 32
        let ok : Bool := Config.signatureValid (bs.drop 384 ++ toBytes 4 ver) (s.fuse ++ bs.take 384) && decide (s.rollback ≤ ver)
        ∃ t, exec .firmwareUpdate s = .next t ∧ SameData s t ∧ t.firmNext = (if ok then some (bs.drop 384) else s.firmNext)
          ∧ t.rollback = if ok then ver else s.rollback)
      ∧ (o = 2 →
        let m := sha256 s.firm
        ∃ t, exec .getMeasurements s = .next t ∧ SameData s t ∧ t.power = 0
          ∧ t.hostOut = s.hostOut ++ [.mgmt (if s.cur.inp.b = 1 then m ++ Config.identitySign s.identity (bs ++ m) else m)]))
    ∧ (s.power = 4 → s.cur.sub = 0 → ∃ t, exec .wakeEvent s = .next t ∧ t.power = 0 ∧ t.ports = [] ∧ t.realms = []
        ∧ t.firm = s.firmNext.getD s.firm ∧ t.hostUp = s.hostUp ∧ t.hostOut = s.hostOut)
    ∧ (s.idle = true → s.power = 0 → s.realms = [] →
      ∀ q ∈ [(200000, 2 ^ 64, 4), (2000, 200000, 3), (40, 2000, 2), (2, 40, 1)], q.1 ≤ s.ltol → s.ltol < q.2.1 →
        ∃ t, exec .idlePowerEntry s = .next t ∧ t.power = q.2.2 ∧ (q.2.2 < 4 → t = { s with power := q.2.2 }))
    ∧ (s.hostUp = true → s.hostRds = [] →
        ∃ t, exec .hostLinkDown s = .next t ∧ SameData s t ∧ t.hostUp = false ∧ t.hldown = s.hldown + 1 ∧ t.hostOut = s.hostOut)
    ∧ (s.hostUp = false → s.hostOff = false →
        let masked (x : Nat) : Bool := (s.msix.get {} x).masked
        ∃ t, exec .hostLinkRestored s = .next t ∧ SameData s t ∧ t.hostUp = true
          ∧ t.hostOut = s.hostOut ++ s.hostHeld ++ (s.pend.filter (!masked ·)).map HostOut.msi ∧ t.hostHeld = [] ∧ t.pend = s.pend.filter masked)
    ∧ (∀ q : HostRd, s.hostUp = true → s.cur.idx = 0 → s.hostRds = [q] → q.flush = true → q.at_ + 80000000 ≤ s.clock →
        (q.again = false → ∃ t, exec .hostReadTimeout s = .next t ∧ SameData s t ∧ t.hostOut = s.hostOut ++ [.flush]
          ∧ t.hostRds = [{ q with at_ := s.clock, again := true }])
        ∧ (q.again = true → ∃ t, exec .hostReadTimeout s = .next t ∧ SameData s t ∧ t.hostUp = false))
    ∧ ∃ t, exec .moduleReset s = .next t ∧ t.realms = [] ∧ t.slots = [] ∧ t.xregs = [] ∧ t.keySer = [] ∧ t.power = 0 ∧ t.clock = 0
        ∧ t.ports = [] ∧ (∀ k, t.mem.get memDefault k = if lmAddr 0 0 0 ≤ k ∧ k < lmAddr 64 0 0 then 0#8 else s.mem.get memDefault k)
        ∧ t.firm = s.firmNext.getD s.firm ∧ t.rollback = s.rollback

/-- R389 to R393: a die without progress for WIN × 1,024 cycles reports WDPREEMPT and evicts its waiting tasks; after T1 it returns to
quiet where it only reports, and else its processor and its Trail stop with WDSTOP; the last kill ends KILL; after T2 the cores with a
kill incomplete are fenced, and the realm halts with 0xF0. That a DCP stops whether or not it was issuing an entry is the model's
choice (log 95). -/
def Obligations.Watchdog : Prop :=
  ∀ (s : State),
    let rid := s.cur.rid
    let die := s.cur.die
    let dk := dieKey rid die
    let d := s.dieSt dk
    let r := s.realm rid
    let w := r.wdogOn
    let field (lo n : Nat) : Nat := w.toNat / 2 ^ lo % 2 ^ n * 1024
    r.state = 1 → die < r.n →
    (field 0 16 ≠ 0 → d.wstage = 0 → field 0 16 ≤ d.stall →
      (∃ (t : State) (m : Msg), exec .wdogStallLimit s = .next t ∧ t.net = s.net ++ [m] ∧ m.a0.extractLsb' 0 8 = 0x40#8
        ∧ m.a0.extractLsb' 8 8 = BitVec.ofNat 8 (s.busyMask rid die) ∧ (t.dieSt dk).wstage = 1 ∧ (t.dieSt dk).wat = s.clock)
      ∧ ∀ core i sl h,
          let sk := unitKey rid core i
          i < 16 → core < 2 ^ 20 → coreDie core = die → s.slots = [(sk, sl)] → sl.busy = true → sl.wait = .ring h false 1 →
          ∃ t, exec .wdogStallLimit s = .next t ∧ (t.slotSt sk).busy = false ∧ (t.frameSt (unitKey rid core sl.frame)).evicted = true
            ∧ (t.frameSt (unitKey rid core sl.frame)).wait = sl.wait)
    ∧ (d.wstage = 1 → d.wat + field 16 12 ≤ s.clock →
      (w.getLsbD 52 = true → ∃ t, exec .wdogT1Expiry s = .next t ∧ SameData s t ∧ t.net = s.net
        ∧ ∀ k, t.dieSt k = if k = dk then { d with wstage := 0, stall := 0 } else s.dieSt k)
      ∧ (w.getLsbD 52 = false → s.frames = [] → d.kills = [] →
        ∃ (t : State) (m : Msg), exec .wdogT1Expiry s = .next t ∧ SameData s t ∧ t.net = s.net ++ [m] ∧ m.a0.extractLsb' 0 8 = 0x42#8
          ∧ (t.dieSt dk).wstage = 2 ∧ (t.dieSt dk).wat = s.clock ∧ (t.dieSt dk).dcq = { d.dcq with stopped := true }
          ∧ (t.dieSt dk).trail.running = false))
    ∧ (d.wstage = 2 →
      (d.kills = [] → ∃ t, exec .wdogKillsComplete s = .next t ∧ SameData s t
        ∧ ∀ k, t.dieSt k = if k = dk then { d with wstage := 0, stall := 0 } else s.dieSt k)
      ∧ (∀ core frame, d.kills = [(core, frame)] → frame < 16 → s.canReleaseBy rid core frame 4 = true →
        ∃ t, exec .wdogKillsComplete s = .next t ∧ (t.dieSt dk).kills = [] ∧ (t.dieSt dk).wstage = 0
          ∧ (t.frameSt (unitKey rid core frame)).used = false)
      ∧ (∀ core frame, d.kills = [(core, frame)] → d.wat + field 28 12 ≤ s.clock →
        ∃ t, exec .wdogT2Expiry s = .next t ∧ SameData s t ∧ (t.coreSt (coreKey rid core)).fenced = true
          ∧ (t.dieSt dk).kills = [] ∧ (t.realm rid).fenced = true ∧ (t.realm rid).state = 2 ∧ (t.realm rid).reason = 0xF0))

/-! ### The whole machine -/

/-- R180 to R190: every instruction that has a word decodes from its word, whatever follows it, with every operand at every value
that its encoding admits. -/
def Obligations.EncodedInstructionsDecode : Prop :=
  ∀ (i : Instr) (rest : List Half), i.wellFormed = true → i.form ≠ .unit → decode (encode i ++ rest) = .ok (i, rest)

/-- R185, R190: no bit of a word is ignored: what decodes is a well-formed instruction, and its own words and nothing else decode to
it. -/
def Obligations.DecodedWordsAreTheEncoded : Prop :=
  ∀ (hs rest : List Half) (i : Instr), decode hs = .ok (i, rest) → i.wellFormed = true ∧ i.form ≠ .unit ∧ hs = encode i ++ rest

/-- R181 to R190: words written out from the encoding tables decode to their instructions, and reserved words to none. -/
def Obligations.WordsOfTheTables : Prop :=
  (∀ p ∈ [ (0xF20E6281, Instr.sel 5#5 6#5 7#5 8#5), (0x0106628D, .shiSra 5#5 6#5 3#6), (0x080E628F, .mulh 5#5 6#5 7#5),
           (0x10042225, .fmul 4#5 2#5 2#5 0#3), (0x000002A9, .csrr 5#5 0x000#12), (0x20205029, .csrw 0#5 5#5 0x010#12),
           (0x80000029, .safe 0#8), (0xA0000029, .yield), (0xC0000029, .done), (0xE00E0029, .svc 7#8), (0xF00E0029, .trap 7#8),
           (0x000062D1, .vclaim 5#5 6#5), (0x18000051, .vwaitm 0#5), (0x088C51D3, .vlds 3#5 5#5 6#5 2#3),
           (0x18441257, .vfma 4#5 1#5 2#5 0#2 1#3), (0x400040DB, .vfredadd 1#5 4#5 0#3), (0x004662B1, .ld 5#5 6#5 4#12 3#3) ],
    decodeTableWord 32 p.1 = some p.2)
  ∧ ∀ w ∈ [0x0000002B, 0x0000007D, 0x0000007F, 0x00000063], decodeTableWord 32 w = none

/-- R36, R37, R180, R370: a turn of the schedule changes no register and no byte of memory, and time passes; a turn of a slot whose
task may issue, and to which the rotation of its core has come or which waits in its instruction, runs the instruction that decodes at
its program counter, and notes what a later weak load may reuse (R75, log 131); a turn of another slot does nothing; a turn of a unit runs its event; the 4,096th instruction after a safe point
that is none traps with SAFEOVR; a word that does not decode traps with RESENC. The schedule (log 1) and that a waiting slot keeps its
place beside the rotation (log 120) are the model's choices, and so are the readings that the bytes are those of LM in this step (log 33)
and that SAFECNT 4,095 is where SAFEOVR begins (log 104). -/
def Obligations.StepRunsTheDecodedInstruction : Prop :=
  ∀ (s : State),
    let t := s.takeTurn
    let t1 := t.noteIssue
    let p := t.pc.toNat
    let hs := t.halvesAt t.cur.rid t.cur.core p
    let may : Prop := t.cur.ev = none ∧ t.me.busy = true ∧ (t.myRealm.state = 1 ∨ t.myRealm.state = 2)
      ∧ (t.coreSt t.ck).fenced = false ∧ (t.dieSt t.dk).kills.contains (t.cur.core, t.me.frame) = false
    let issues : Prop := may ∧ p + 4 ≤ 0x30000 ∧ t.inTurn = true ∧ (t.me.wait = .none → t.cur.sub ≠ 1 ∧ t.cur.sub ≠ 2)
      ∧ ∀ len code detail addr info cyc, t.me.wait ≠ .dying len code detail addr info cyc
    (SameData s t ∧ s.clock < t.clock ∧ (∀ u rest, s.sched = u :: rest → t.cur = u ∧ t.sched = rest))
    ∧ (∀ e, t.cur.ev = some e → step s = exec e t)
    ∧ (may → t.inTurn = false → step s = .next t)
    ∧ (SameData t t1 ∧ t1.slots = t.slots
        ∧ ∀ k, t1.coreSt k = if k = t.ck ∧ State.pending t.me.wait = false then { t.coreSt k with issued := t.cur.slot } else t.coreSt k)
    ∧ (∀ i, t1.keepValue i = { t1 with slots := (t1.keepValue i).slots }
        ∧ ∀ k, (t1.keepValue i).slotSt k = if k = t1.sk then { t1.me with kept := t1.keptAfter i } else t1.slotSt k)
    ∧ (∀ i rest, issues → decode hs = .ok (i, rest) → t.me.safecnt < 4095 ∨ isSafePoint t.me.entry i = true →
        step s = exec i (t1.keepValue i))
    ∧ (∀ i rest, issues → Quiet t → SingleFault t → decode hs = .ok (i, rest) → 4095 ≤ t.me.safecnt → isSafePoint t.me.entry i = false →
        badTarget t i = false → ∃ u, step s = .next u ∧ TrapTaken t1 u (2 * (encode i).length) 0x04 0 4095 0)
    ∧ (∀ maj, issues → Quiet t → SingleFault t → t.me.safecnt < 4095 →
        decode hs = .error (.reservedMajor maj) ∨ decode hs = .error (.reservedForm maj) →
        ∃ u, step s = .next u ∧ TrapTaken t1 u 4 0x01 maj.toNat 0 0)

/-- R361: nothing that an instruction or an event meets stops the machine: every meaning gives a next state, whatever the state. -/
def Obligations.NothingStops : Prop :=
  ∀ (s : State), Goes s ∧ ∀ i : Instr, ∃ t, exec i s = .next t

/-- R343, R347: at reset every realm is FREE, no task is in a slot, every port is DOWN, the module is in D0, the host link is up (the
model's choice, log 3), memory has its canonical form, and every byte reads as zero (in device memory the model's choice, log 4). -/
def Obligations.ResetState : Prop :=
  MemInv State.reset ∧ (∀ rid, (State.reset.realm rid).state = 0) ∧ (∀ k, (State.reset.slotSt k).busy = false)
    ∧ (∀ p, (State.reset.port p).state = 0) ∧ State.reset.power = 0 ∧ State.reset.hostUp = true ∧ State.reset.clock = 0
    ∧ (∀ a, State.reset.mem.get memDefault a = 0#8) ∧ State.reset.net = []

/-- Every step keeps memory in its canonical form: strictly rising addresses, and no entry equal to what an unlisted byte reads
as (log 4). -/
def Obligations.StepsKeepMemory : Prop :=
  ∀ (s t : State), MemInv s → step s = .next t → MemInv t
end

