-- ==== Sys2Proof/Laws/Tab.lean ====
section
/-! SUPPORT. The laws of sparse tables: what a read gives after each update, and that every update keeps the canonical
form. -/

namespace Sys2Proof.Machine.Tab

variable {α : Type}

@[simp] theorem get_nil (d : α) (k : Nat) : get [] d k = d := rfl

theorem get_cons (i : Nat) (v : α) (r : Tab α) (d : α) (k : Nat) :
    get ((i, v) :: r) d k = if k = i then v else get r d k := by
  by_cases h : k = i
  · simp [get, h]
  · simp [get, h, Ne.symm (h : k ≠ i)]

theorem get_filter (t : Tab α) (d : α) (k : Nat) (p : Nat → Bool) :
    get (t.filter fun e => p e.1) d k = if p k then get t d k else d := by
  induction t with
  | nil => simp
  | cons e r ih =>
    obtain ⟨i, v⟩ := e
    by_cases hp : p i <;> by_cases hk : k = i <;> simp_all [get_cons]

theorem get_erase (t : Tab α) (d : α) (k j : Nat) : get (erase t k) d j = if j = k then d else get t d j := by
  have h := get_filter t d j (fun i => i != k)
  simp only [erase]
  rw [h]
  by_cases hj : j = k <;> simp [hj]

theorem get_insert (t : Tab α) (d : α) (k j : Nat) (v : α) (hk : ∀ e ∈ t, e.1 ≠ k) :
    get (insert t k v) d j = if j = k then v else get t d j := by
  induction t with
  | nil => simp [insert, get_cons]
  | cons e r ih =>
    obtain ⟨i, w⟩ := e
    have hi : i ≠ k := hk (i, w) (by simp)
    have hr : ∀ e ∈ r, e.1 ≠ k := fun e he => hk e (by simp [he])
    simp only [insert]
    split
    · simp [get_cons]
    · rw [get_cons, ih hr, get_cons]
      by_cases hj : j = i
      · subst hj; simp [hi]
      · simp [hj]

/-- Reading after a write: the written value at its key, and every other key as before. -/
theorem get_set [DecidableEq α] (t : Tab α) (d : α) (k j : Nat) (v : α) :
    get (set t d k v) d j = if j = k then v else get t d j := by
  unfold set
  split
  · next h => subst h; exact get_erase t v k j
  · rw [get_insert _ d k j v (by intro e he; simpa [erase] using (List.mem_filter.mp he).2), get_erase]
    by_cases hj : j = k <;> simp [hj]

@[simp] theorem get_set_same [DecidableEq α] (t : Tab α) (d : α) (k : Nat) (v : α) : get (set t d k v) d k = v := by
  simp [get_set]

theorem get_set_ne [DecidableEq α] (t : Tab α) (d : α) {k j : Nat} (v : α) (h : j ≠ k) :
    get (set t d k v) d j = get t d j := by
  simp [get_set, h]

theorem get_clear (t : Tab α) (d : α) (lo hi k : Nat) :
    get (clear t lo hi) d k = if lo ≤ k ∧ k < hi then d else get t d k := by
  have h := get_filter t d k (fun i => i < lo || hi ≤ i)
  simp only [clear]
  rw [h]
  by_cases h1 : k < lo ∨ hi ≤ k
  · rw [if_pos (by simpa using h1), if_neg (by omega)]
  · rw [if_neg (by simpa using h1), if_pos (by omega)]

/-! ### The canonical form -/

theorem wfFrom_mono [DecidableEq α] {d : α} {t : Tab α} {lo lo' : Nat} (h : lo' ≤ lo) (w : wfFrom d lo t = true) :
    wfFrom d lo' t = true := by
  cases t with
  | nil => rfl
  | cons e r => obtain ⟨k, v⟩ := e; simp only [wfFrom, Bool.and_eq_true, decide_eq_true_eq] at *; exact ⟨⟨by omega, w.1.2⟩, w.2⟩

theorem wfFrom_filter [DecidableEq α] {d : α} (p : Nat × α → Bool) {t : Tab α} {lo : Nat} (w : wfFrom d lo t = true) :
    wfFrom d lo (t.filter p) = true := by
  induction t generalizing lo with
  | nil => rfl
  | cons e r ih =>
    obtain ⟨k, v⟩ := e
    simp only [wfFrom, Bool.and_eq_true, decide_eq_true_eq] at w
    by_cases hp : p (k, v)
    · simp only [List.filter_cons, hp, if_true, wfFrom, Bool.and_eq_true, decide_eq_true_eq]
      exact ⟨w.1, ih w.2⟩
    · simp only [List.filter_cons, hp]
      exact ih (wfFrom_mono (by omega) w.2)

theorem wfFrom_insert [DecidableEq α] {d : α} {t : Tab α} {lo k : Nat} {v : α} (w : wfFrom d lo t = true) (hl : lo ≤ k)
    (hv : v ≠ d) (hk : ∀ e ∈ t, e.1 ≠ k) : wfFrom d lo (insert t k v) = true := by
  induction t generalizing lo with
  | nil => simp [insert, wfFrom, hl, hv]
  | cons e r ih =>
    obtain ⟨i, x⟩ := e
    have hi : i ≠ k := hk (i, x) (by simp)
    simp only [wfFrom, Bool.and_eq_true, decide_eq_true_eq] at w
    simp only [insert]
    split
    · next h =>
      simp only [wfFrom, Bool.and_eq_true, decide_eq_true_eq, bne_iff_ne]
      exact ⟨⟨hl, hv⟩, ⟨by omega, by simpa using w.1.2⟩, w.2⟩
    · simp only [wfFrom, Bool.and_eq_true, decide_eq_true_eq]
      exact ⟨w.1, ih w.2 (by omega) (fun e he => hk e (by simp [he]))⟩

theorem wf_filter [DecidableEq α] {d : α} (p : Nat × α → Bool) {t : Tab α} (w : wf t d = true) :
    wf (t.filter p) d = true := wfFrom_filter p w

/-- A write keeps the canonical form. -/
theorem wf_set [DecidableEq α] {t : Tab α} {d : α} (w : wf t d = true) (k : Nat) (v : α) : wf (set t d k v) d = true := by
  unfold set
  split
  · exact wfFrom_filter _ w
  · next h =>
    exact wfFrom_insert (wfFrom_filter _ w) (Nat.zero_le k) h
      (by intro e he; simpa using (List.mem_filter.mp he).2)

theorem wf_clear [DecidableEq α] {t : Tab α} {d : α} (w : wf t d = true) (lo hi : Nat) : wf (clear t lo hi) d = true :=
  wfFrom_filter _ w

theorem wf_slice [DecidableEq α] {t : Tab α} {d : α} (w : wf t d = true) (lo hi : Nat) : wf (slice t lo hi) d = true :=
  wfFrom_filter _ w

theorem wf_setAll [DecidableEq α] {t : Tab α} {d : α} (w : wf t d = true) (ps : List (Nat × α)) :
    wf (setAll t d ps) d = true := by
  unfold setAll
  induction ps generalizing t with
  | nil => exact w
  | cons p ps ih => exact ih (wf_set w p.1 p.2)

end Sys2Proof.Machine.Tab
end

