-- ==== Sys2Proof/Laws/State.lean ====
section
/-! SUPPORT. What each named update of the state leaves alone, one lemma per field, and what the accessors read after it. -/

namespace Sys2Proof.Machine.State

/-! ### wx -/

@[simp] theorem wx_slots (s : State) (r : BitVec 5) (v : Word) : (s.wx r v).slots = s.slots := by unfold State.wx; split <;> rfl
@[simp] theorem wx_frames (s : State) (r : BitVec 5) (v : Word) : (s.wx r v).frames = s.frames := by unfold State.wx; split <;> rfl
@[simp] theorem wx_fregs (s : State) (r : BitVec 5) (v : Word) : (s.wx r v).fregs = s.fregs := by unfold State.wx; split <;> rfl
@[simp] theorem wx_pregs (s : State) (r : BitVec 5) (v : Word) : (s.wx r v).pregs = s.pregs := by unfold State.wx; split <;> rfl
@[simp] theorem wx_vregs (s : State) (r : BitVec 5) (v : Word) : (s.wx r v).vregs = s.vregs := by unfold State.wx; split <;> rfl
@[simp] theorem wx_counters (s : State) (r : BitVec 5) (v : Word) : (s.wx r v).counters = s.counters := by unfold State.wx; split <;> rfl
@[simp] theorem wx_cdescs (s : State) (r : BitVec 5) (v : Word) : (s.wx r v).cdescs = s.cdescs := by unfold State.wx; split <;> rfl
@[simp] theorem wx_cores (s : State) (r : BitVec 5) (v : Word) : (s.wx r v).cores = s.cores := by unfold State.wx; split <;> rfl
@[simp] theorem wx_octets (s : State) (r : BitVec 5) (v : Word) : (s.wx r v).octets = s.octets := by unfold State.wx; split <;> rfl
@[simp] theorem wx_clusters (s : State) (r : BitVec 5) (v : Word) : (s.wx r v).clusters = s.clusters := by unfold State.wx; split <;> rfl
@[simp] theorem wx_dies (s : State) (r : BitVec 5) (v : Word) : (s.wx r v).dies = s.dies := by unfold State.wx; split <;> rfl
@[simp] theorem wx_groups (s : State) (r : BitVec 5) (v : Word) : (s.wx r v).groups = s.groups := by unfold State.wx; split <;> rfl
@[simp] theorem wx_realms (s : State) (r : BitVec 5) (v : Word) : (s.wx r v).realms = s.realms := by unfold State.wx; split <;> rfl
@[simp] theorem wx_mem (s : State) (r : BitVec 5) (v : Word) : (s.wx r v).mem = s.mem := by unfold State.wx; split <;> rfl
@[simp] theorem wx_poison (s : State) (r : BitVec 5) (v : Word) : (s.wx r v).poison = s.poison := by unfold State.wx; split <;> rfl
@[simp] theorem wx_keySer (s : State) (r : BitVec 5) (v : Word) : (s.wx r v).keySer = s.keySer := by unfold State.wx; split <;> rfl
@[simp] theorem wx_net (s : State) (r : BitVec 5) (v : Word) : (s.wx r v).net = s.net := by unfold State.wx; split <;> rfl
@[simp] theorem wx_rnet (s : State) (r : BitVec 5) (v : Word) : (s.wx r v).rnet = s.rnet := by unfold State.wx; split <;> rfl
@[simp] theorem wx_agentQ (s : State) (r : BitVec 5) (v : Word) : (s.wx r v).agentQ = s.agentQ := by unfold State.wx; split <;> rfl
@[simp] theorem wx_farQ (s : State) (r : BitVec 5) (v : Word) : (s.wx r v).farQ = s.farQ := by unfold State.wx; split <;> rfl
@[simp] theorem wx_watches (s : State) (r : BitVec 5) (v : Word) : (s.wx r v).watches = s.watches := by unfold State.wx; split <;> rfl
@[simp] theorem wx_reports (s : State) (r : BitVec 5) (v : Word) : (s.wx r v).reports = s.reports := by unfold State.wx; split <;> rfl
@[simp] theorem wx_ports (s : State) (r : BitVec 5) (v : Word) : (s.wx r v).ports = s.ports := by unfold State.wx; split <;> rfl
@[simp] theorem wx_clock (s : State) (r : BitVec 5) (v : Word) : (s.wx r v).clock = s.clock := by unfold State.wx; split <;> rfl
@[simp] theorem wx_fresh (s : State) (r : BitVec 5) (v : Word) : (s.wx r v).fresh = s.fresh := by unfold State.wx; split <;> rfl
@[simp] theorem wx_cur (s : State) (r : BitVec 5) (v : Word) : (s.wx r v).cur = s.cur := by unfold State.wx; split <;> rfl
@[simp] theorem wx_sched (s : State) (r : BitVec 5) (v : Word) : (s.wx r v).sched = s.sched := by unfold State.wx; split <;> rfl
@[simp] theorem wx_fabid (s : State) (r : BitVec 5) (v : Word) : (s.wx r v).fabid = s.fabid := by unfold State.wx; split <;> rfl

/-! ### wrf -/

@[simp] theorem wrf_slots (s : State) (r : BitVec 5) (v : Word32) : (s.wrf r v).slots = s.slots := rfl
@[simp] theorem wrf_frames (s : State) (r : BitVec 5) (v : Word32) : (s.wrf r v).frames = s.frames := rfl
@[simp] theorem wrf_xregs (s : State) (r : BitVec 5) (v : Word32) : (s.wrf r v).xregs = s.xregs := rfl
@[simp] theorem wrf_pregs (s : State) (r : BitVec 5) (v : Word32) : (s.wrf r v).pregs = s.pregs := rfl
@[simp] theorem wrf_vregs (s : State) (r : BitVec 5) (v : Word32) : (s.wrf r v).vregs = s.vregs := rfl
@[simp] theorem wrf_counters (s : State) (r : BitVec 5) (v : Word32) : (s.wrf r v).counters = s.counters := rfl
@[simp] theorem wrf_cdescs (s : State) (r : BitVec 5) (v : Word32) : (s.wrf r v).cdescs = s.cdescs := rfl
@[simp] theorem wrf_cores (s : State) (r : BitVec 5) (v : Word32) : (s.wrf r v).cores = s.cores := rfl
@[simp] theorem wrf_octets (s : State) (r : BitVec 5) (v : Word32) : (s.wrf r v).octets = s.octets := rfl
@[simp] theorem wrf_clusters (s : State) (r : BitVec 5) (v : Word32) : (s.wrf r v).clusters = s.clusters := rfl
@[simp] theorem wrf_dies (s : State) (r : BitVec 5) (v : Word32) : (s.wrf r v).dies = s.dies := rfl
@[simp] theorem wrf_groups (s : State) (r : BitVec 5) (v : Word32) : (s.wrf r v).groups = s.groups := rfl
@[simp] theorem wrf_realms (s : State) (r : BitVec 5) (v : Word32) : (s.wrf r v).realms = s.realms := rfl
@[simp] theorem wrf_mem (s : State) (r : BitVec 5) (v : Word32) : (s.wrf r v).mem = s.mem := rfl
@[simp] theorem wrf_poison (s : State) (r : BitVec 5) (v : Word32) : (s.wrf r v).poison = s.poison := rfl
@[simp] theorem wrf_keySer (s : State) (r : BitVec 5) (v : Word32) : (s.wrf r v).keySer = s.keySer := rfl
@[simp] theorem wrf_net (s : State) (r : BitVec 5) (v : Word32) : (s.wrf r v).net = s.net := rfl
@[simp] theorem wrf_rnet (s : State) (r : BitVec 5) (v : Word32) : (s.wrf r v).rnet = s.rnet := rfl
@[simp] theorem wrf_agentQ (s : State) (r : BitVec 5) (v : Word32) : (s.wrf r v).agentQ = s.agentQ := rfl
@[simp] theorem wrf_farQ (s : State) (r : BitVec 5) (v : Word32) : (s.wrf r v).farQ = s.farQ := rfl
@[simp] theorem wrf_watches (s : State) (r : BitVec 5) (v : Word32) : (s.wrf r v).watches = s.watches := rfl
@[simp] theorem wrf_reports (s : State) (r : BitVec 5) (v : Word32) : (s.wrf r v).reports = s.reports := rfl
@[simp] theorem wrf_ports (s : State) (r : BitVec 5) (v : Word32) : (s.wrf r v).ports = s.ports := rfl
@[simp] theorem wrf_clock (s : State) (r : BitVec 5) (v : Word32) : (s.wrf r v).clock = s.clock := rfl
@[simp] theorem wrf_fresh (s : State) (r : BitVec 5) (v : Word32) : (s.wrf r v).fresh = s.fresh := rfl
@[simp] theorem wrf_cur (s : State) (r : BitVec 5) (v : Word32) : (s.wrf r v).cur = s.cur := rfl
@[simp] theorem wrf_sched (s : State) (r : BitVec 5) (v : Word32) : (s.wrf r v).sched = s.sched := rfl
@[simp] theorem wrf_fabid (s : State) (r : BitVec 5) (v : Word32) : (s.wrf r v).fabid = s.fabid := rfl

/-! ### wp -/

@[simp] theorem wp_slots (s : State) (r : Nat) (v : Word) : (s.wp r v).slots = s.slots := by unfold State.wp; split <;> rfl
@[simp] theorem wp_frames (s : State) (r : Nat) (v : Word) : (s.wp r v).frames = s.frames := by unfold State.wp; split <;> rfl
@[simp] theorem wp_xregs (s : State) (r : Nat) (v : Word) : (s.wp r v).xregs = s.xregs := by unfold State.wp; split <;> rfl
@[simp] theorem wp_fregs (s : State) (r : Nat) (v : Word) : (s.wp r v).fregs = s.fregs := by unfold State.wp; split <;> rfl
@[simp] theorem wp_vregs (s : State) (r : Nat) (v : Word) : (s.wp r v).vregs = s.vregs := by unfold State.wp; split <;> rfl
@[simp] theorem wp_counters (s : State) (r : Nat) (v : Word) : (s.wp r v).counters = s.counters := by unfold State.wp; split <;> rfl
@[simp] theorem wp_cdescs (s : State) (r : Nat) (v : Word) : (s.wp r v).cdescs = s.cdescs := by unfold State.wp; split <;> rfl
@[simp] theorem wp_cores (s : State) (r : Nat) (v : Word) : (s.wp r v).cores = s.cores := by unfold State.wp; split <;> rfl
@[simp] theorem wp_octets (s : State) (r : Nat) (v : Word) : (s.wp r v).octets = s.octets := by unfold State.wp; split <;> rfl
@[simp] theorem wp_clusters (s : State) (r : Nat) (v : Word) : (s.wp r v).clusters = s.clusters := by unfold State.wp; split <;> rfl
@[simp] theorem wp_dies (s : State) (r : Nat) (v : Word) : (s.wp r v).dies = s.dies := by unfold State.wp; split <;> rfl
@[simp] theorem wp_groups (s : State) (r : Nat) (v : Word) : (s.wp r v).groups = s.groups := by unfold State.wp; split <;> rfl
@[simp] theorem wp_realms (s : State) (r : Nat) (v : Word) : (s.wp r v).realms = s.realms := by unfold State.wp; split <;> rfl
@[simp] theorem wp_mem (s : State) (r : Nat) (v : Word) : (s.wp r v).mem = s.mem := by unfold State.wp; split <;> rfl
@[simp] theorem wp_poison (s : State) (r : Nat) (v : Word) : (s.wp r v).poison = s.poison := by unfold State.wp; split <;> rfl
@[simp] theorem wp_keySer (s : State) (r : Nat) (v : Word) : (s.wp r v).keySer = s.keySer := by unfold State.wp; split <;> rfl
@[simp] theorem wp_net (s : State) (r : Nat) (v : Word) : (s.wp r v).net = s.net := by unfold State.wp; split <;> rfl
@[simp] theorem wp_rnet (s : State) (r : Nat) (v : Word) : (s.wp r v).rnet = s.rnet := by unfold State.wp; split <;> rfl
@[simp] theorem wp_agentQ (s : State) (r : Nat) (v : Word) : (s.wp r v).agentQ = s.agentQ := by unfold State.wp; split <;> rfl
@[simp] theorem wp_farQ (s : State) (r : Nat) (v : Word) : (s.wp r v).farQ = s.farQ := by unfold State.wp; split <;> rfl
@[simp] theorem wp_watches (s : State) (r : Nat) (v : Word) : (s.wp r v).watches = s.watches := by unfold State.wp; split <;> rfl
@[simp] theorem wp_reports (s : State) (r : Nat) (v : Word) : (s.wp r v).reports = s.reports := by unfold State.wp; split <;> rfl
@[simp] theorem wp_ports (s : State) (r : Nat) (v : Word) : (s.wp r v).ports = s.ports := by unfold State.wp; split <;> rfl
@[simp] theorem wp_clock (s : State) (r : Nat) (v : Word) : (s.wp r v).clock = s.clock := by unfold State.wp; split <;> rfl
@[simp] theorem wp_fresh (s : State) (r : Nat) (v : Word) : (s.wp r v).fresh = s.fresh := by unfold State.wp; split <;> rfl
@[simp] theorem wp_cur (s : State) (r : Nat) (v : Word) : (s.wp r v).cur = s.cur := by unfold State.wp; split <;> rfl
@[simp] theorem wp_sched (s : State) (r : Nat) (v : Word) : (s.wp r v).sched = s.sched := by unfold State.wp; split <;> rfl
@[simp] theorem wp_fabid (s : State) (r : Nat) (v : Word) : (s.wp r v).fabid = s.fabid := by unfold State.wp; split <;> rfl

/-! ### wvAt -/

@[simp] theorem wvAt_slots (s : State) (k r j : Nat) (v : Word32) : (s.wvAt k r j v).slots = s.slots := rfl
@[simp] theorem wvAt_frames (s : State) (k r j : Nat) (v : Word32) : (s.wvAt k r j v).frames = s.frames := rfl
@[simp] theorem wvAt_xregs (s : State) (k r j : Nat) (v : Word32) : (s.wvAt k r j v).xregs = s.xregs := rfl
@[simp] theorem wvAt_fregs (s : State) (k r j : Nat) (v : Word32) : (s.wvAt k r j v).fregs = s.fregs := rfl
@[simp] theorem wvAt_pregs (s : State) (k r j : Nat) (v : Word32) : (s.wvAt k r j v).pregs = s.pregs := rfl
@[simp] theorem wvAt_counters (s : State) (k r j : Nat) (v : Word32) : (s.wvAt k r j v).counters = s.counters := rfl
@[simp] theorem wvAt_cdescs (s : State) (k r j : Nat) (v : Word32) : (s.wvAt k r j v).cdescs = s.cdescs := rfl
@[simp] theorem wvAt_cores (s : State) (k r j : Nat) (v : Word32) : (s.wvAt k r j v).cores = s.cores := rfl
@[simp] theorem wvAt_octets (s : State) (k r j : Nat) (v : Word32) : (s.wvAt k r j v).octets = s.octets := rfl
@[simp] theorem wvAt_clusters (s : State) (k r j : Nat) (v : Word32) : (s.wvAt k r j v).clusters = s.clusters := rfl
@[simp] theorem wvAt_dies (s : State) (k r j : Nat) (v : Word32) : (s.wvAt k r j v).dies = s.dies := rfl
@[simp] theorem wvAt_groups (s : State) (k r j : Nat) (v : Word32) : (s.wvAt k r j v).groups = s.groups := rfl
@[simp] theorem wvAt_realms (s : State) (k r j : Nat) (v : Word32) : (s.wvAt k r j v).realms = s.realms := rfl
@[simp] theorem wvAt_mem (s : State) (k r j : Nat) (v : Word32) : (s.wvAt k r j v).mem = s.mem := rfl
@[simp] theorem wvAt_poison (s : State) (k r j : Nat) (v : Word32) : (s.wvAt k r j v).poison = s.poison := rfl
@[simp] theorem wvAt_keySer (s : State) (k r j : Nat) (v : Word32) : (s.wvAt k r j v).keySer = s.keySer := rfl
@[simp] theorem wvAt_net (s : State) (k r j : Nat) (v : Word32) : (s.wvAt k r j v).net = s.net := rfl
@[simp] theorem wvAt_rnet (s : State) (k r j : Nat) (v : Word32) : (s.wvAt k r j v).rnet = s.rnet := rfl
@[simp] theorem wvAt_agentQ (s : State) (k r j : Nat) (v : Word32) : (s.wvAt k r j v).agentQ = s.agentQ := rfl
@[simp] theorem wvAt_farQ (s : State) (k r j : Nat) (v : Word32) : (s.wvAt k r j v).farQ = s.farQ := rfl
@[simp] theorem wvAt_watches (s : State) (k r j : Nat) (v : Word32) : (s.wvAt k r j v).watches = s.watches := rfl
@[simp] theorem wvAt_reports (s : State) (k r j : Nat) (v : Word32) : (s.wvAt k r j v).reports = s.reports := rfl
@[simp] theorem wvAt_ports (s : State) (k r j : Nat) (v : Word32) : (s.wvAt k r j v).ports = s.ports := rfl
@[simp] theorem wvAt_clock (s : State) (k r j : Nat) (v : Word32) : (s.wvAt k r j v).clock = s.clock := rfl
@[simp] theorem wvAt_fresh (s : State) (k r j : Nat) (v : Word32) : (s.wvAt k r j v).fresh = s.fresh := rfl
@[simp] theorem wvAt_cur (s : State) (k r j : Nat) (v : Word32) : (s.wvAt k r j v).cur = s.cur := rfl
@[simp] theorem wvAt_sched (s : State) (k r j : Nat) (v : Word32) : (s.wvAt k r j v).sched = s.sched := rfl
@[simp] theorem wvAt_fabid (s : State) (k r j : Nat) (v : Word32) : (s.wvAt k r j v).fabid = s.fabid := rfl

/-! ### modSlot -/

@[simp] theorem modSlot_frames (s : State) (k : Nat) (f : Slot → Slot) : (s.modSlot k f).frames = s.frames := rfl
@[simp] theorem modSlot_xregs (s : State) (k : Nat) (f : Slot → Slot) : (s.modSlot k f).xregs = s.xregs := rfl
@[simp] theorem modSlot_fregs (s : State) (k : Nat) (f : Slot → Slot) : (s.modSlot k f).fregs = s.fregs := rfl
@[simp] theorem modSlot_pregs (s : State) (k : Nat) (f : Slot → Slot) : (s.modSlot k f).pregs = s.pregs := rfl
@[simp] theorem modSlot_vregs (s : State) (k : Nat) (f : Slot → Slot) : (s.modSlot k f).vregs = s.vregs := rfl
@[simp] theorem modSlot_counters (s : State) (k : Nat) (f : Slot → Slot) : (s.modSlot k f).counters = s.counters := rfl
@[simp] theorem modSlot_cdescs (s : State) (k : Nat) (f : Slot → Slot) : (s.modSlot k f).cdescs = s.cdescs := rfl
@[simp] theorem modSlot_cores (s : State) (k : Nat) (f : Slot → Slot) : (s.modSlot k f).cores = s.cores := rfl
@[simp] theorem modSlot_octets (s : State) (k : Nat) (f : Slot → Slot) : (s.modSlot k f).octets = s.octets := rfl
@[simp] theorem modSlot_clusters (s : State) (k : Nat) (f : Slot → Slot) : (s.modSlot k f).clusters = s.clusters := rfl
@[simp] theorem modSlot_dies (s : State) (k : Nat) (f : Slot → Slot) : (s.modSlot k f).dies = s.dies := rfl
@[simp] theorem modSlot_groups (s : State) (k : Nat) (f : Slot → Slot) : (s.modSlot k f).groups = s.groups := rfl
@[simp] theorem modSlot_realms (s : State) (k : Nat) (f : Slot → Slot) : (s.modSlot k f).realms = s.realms := rfl
@[simp] theorem modSlot_mem (s : State) (k : Nat) (f : Slot → Slot) : (s.modSlot k f).mem = s.mem := rfl
@[simp] theorem modSlot_poison (s : State) (k : Nat) (f : Slot → Slot) : (s.modSlot k f).poison = s.poison := rfl
@[simp] theorem modSlot_keySer (s : State) (k : Nat) (f : Slot → Slot) : (s.modSlot k f).keySer = s.keySer := rfl
@[simp] theorem modSlot_net (s : State) (k : Nat) (f : Slot → Slot) : (s.modSlot k f).net = s.net := rfl
@[simp] theorem modSlot_rnet (s : State) (k : Nat) (f : Slot → Slot) : (s.modSlot k f).rnet = s.rnet := rfl
@[simp] theorem modSlot_agentQ (s : State) (k : Nat) (f : Slot → Slot) : (s.modSlot k f).agentQ = s.agentQ := rfl
@[simp] theorem modSlot_farQ (s : State) (k : Nat) (f : Slot → Slot) : (s.modSlot k f).farQ = s.farQ := rfl
@[simp] theorem modSlot_watches (s : State) (k : Nat) (f : Slot → Slot) : (s.modSlot k f).watches = s.watches := rfl
@[simp] theorem modSlot_reports (s : State) (k : Nat) (f : Slot → Slot) : (s.modSlot k f).reports = s.reports := rfl
@[simp] theorem modSlot_ports (s : State) (k : Nat) (f : Slot → Slot) : (s.modSlot k f).ports = s.ports := rfl
@[simp] theorem modSlot_clock (s : State) (k : Nat) (f : Slot → Slot) : (s.modSlot k f).clock = s.clock := rfl
@[simp] theorem modSlot_fresh (s : State) (k : Nat) (f : Slot → Slot) : (s.modSlot k f).fresh = s.fresh := rfl
@[simp] theorem modSlot_cur (s : State) (k : Nat) (f : Slot → Slot) : (s.modSlot k f).cur = s.cur := rfl
@[simp] theorem modSlot_sched (s : State) (k : Nat) (f : Slot → Slot) : (s.modSlot k f).sched = s.sched := rfl
@[simp] theorem modSlot_fabid (s : State) (k : Nat) (f : Slot → Slot) : (s.modSlot k f).fabid = s.fabid := rfl

/-! ### modFrame -/

@[simp] theorem modFrame_slots (s : State) (k : Nat) (f : Frame → Frame) : (s.modFrame k f).slots = s.slots := rfl
@[simp] theorem modFrame_xregs (s : State) (k : Nat) (f : Frame → Frame) : (s.modFrame k f).xregs = s.xregs := rfl
@[simp] theorem modFrame_fregs (s : State) (k : Nat) (f : Frame → Frame) : (s.modFrame k f).fregs = s.fregs := rfl
@[simp] theorem modFrame_pregs (s : State) (k : Nat) (f : Frame → Frame) : (s.modFrame k f).pregs = s.pregs := rfl
@[simp] theorem modFrame_vregs (s : State) (k : Nat) (f : Frame → Frame) : (s.modFrame k f).vregs = s.vregs := rfl
@[simp] theorem modFrame_counters (s : State) (k : Nat) (f : Frame → Frame) : (s.modFrame k f).counters = s.counters := rfl
@[simp] theorem modFrame_cdescs (s : State) (k : Nat) (f : Frame → Frame) : (s.modFrame k f).cdescs = s.cdescs := rfl
@[simp] theorem modFrame_cores (s : State) (k : Nat) (f : Frame → Frame) : (s.modFrame k f).cores = s.cores := rfl
@[simp] theorem modFrame_octets (s : State) (k : Nat) (f : Frame → Frame) : (s.modFrame k f).octets = s.octets := rfl
@[simp] theorem modFrame_clusters (s : State) (k : Nat) (f : Frame → Frame) : (s.modFrame k f).clusters = s.clusters := rfl
@[simp] theorem modFrame_dies (s : State) (k : Nat) (f : Frame → Frame) : (s.modFrame k f).dies = s.dies := rfl
@[simp] theorem modFrame_groups (s : State) (k : Nat) (f : Frame → Frame) : (s.modFrame k f).groups = s.groups := rfl
@[simp] theorem modFrame_realms (s : State) (k : Nat) (f : Frame → Frame) : (s.modFrame k f).realms = s.realms := rfl
@[simp] theorem modFrame_mem (s : State) (k : Nat) (f : Frame → Frame) : (s.modFrame k f).mem = s.mem := rfl
@[simp] theorem modFrame_poison (s : State) (k : Nat) (f : Frame → Frame) : (s.modFrame k f).poison = s.poison := rfl
@[simp] theorem modFrame_keySer (s : State) (k : Nat) (f : Frame → Frame) : (s.modFrame k f).keySer = s.keySer := rfl
@[simp] theorem modFrame_net (s : State) (k : Nat) (f : Frame → Frame) : (s.modFrame k f).net = s.net := rfl
@[simp] theorem modFrame_rnet (s : State) (k : Nat) (f : Frame → Frame) : (s.modFrame k f).rnet = s.rnet := rfl
@[simp] theorem modFrame_agentQ (s : State) (k : Nat) (f : Frame → Frame) : (s.modFrame k f).agentQ = s.agentQ := rfl
@[simp] theorem modFrame_farQ (s : State) (k : Nat) (f : Frame → Frame) : (s.modFrame k f).farQ = s.farQ := rfl
@[simp] theorem modFrame_watches (s : State) (k : Nat) (f : Frame → Frame) : (s.modFrame k f).watches = s.watches := rfl
@[simp] theorem modFrame_reports (s : State) (k : Nat) (f : Frame → Frame) : (s.modFrame k f).reports = s.reports := rfl
@[simp] theorem modFrame_ports (s : State) (k : Nat) (f : Frame → Frame) : (s.modFrame k f).ports = s.ports := rfl
@[simp] theorem modFrame_clock (s : State) (k : Nat) (f : Frame → Frame) : (s.modFrame k f).clock = s.clock := rfl
@[simp] theorem modFrame_fresh (s : State) (k : Nat) (f : Frame → Frame) : (s.modFrame k f).fresh = s.fresh := rfl
@[simp] theorem modFrame_cur (s : State) (k : Nat) (f : Frame → Frame) : (s.modFrame k f).cur = s.cur := rfl
@[simp] theorem modFrame_sched (s : State) (k : Nat) (f : Frame → Frame) : (s.modFrame k f).sched = s.sched := rfl
@[simp] theorem modFrame_fabid (s : State) (k : Nat) (f : Frame → Frame) : (s.modFrame k f).fabid = s.fabid := rfl

/-! ### modCore -/

@[simp] theorem modCore_slots (s : State) (k : Nat) (f : CoreSt → CoreSt) : (s.modCore k f).slots = s.slots := rfl
@[simp] theorem modCore_frames (s : State) (k : Nat) (f : CoreSt → CoreSt) : (s.modCore k f).frames = s.frames := rfl
@[simp] theorem modCore_xregs (s : State) (k : Nat) (f : CoreSt → CoreSt) : (s.modCore k f).xregs = s.xregs := rfl
@[simp] theorem modCore_fregs (s : State) (k : Nat) (f : CoreSt → CoreSt) : (s.modCore k f).fregs = s.fregs := rfl
@[simp] theorem modCore_pregs (s : State) (k : Nat) (f : CoreSt → CoreSt) : (s.modCore k f).pregs = s.pregs := rfl
@[simp] theorem modCore_vregs (s : State) (k : Nat) (f : CoreSt → CoreSt) : (s.modCore k f).vregs = s.vregs := rfl
@[simp] theorem modCore_counters (s : State) (k : Nat) (f : CoreSt → CoreSt) : (s.modCore k f).counters = s.counters := rfl
@[simp] theorem modCore_cdescs (s : State) (k : Nat) (f : CoreSt → CoreSt) : (s.modCore k f).cdescs = s.cdescs := rfl
@[simp] theorem modCore_octets (s : State) (k : Nat) (f : CoreSt → CoreSt) : (s.modCore k f).octets = s.octets := rfl
@[simp] theorem modCore_clusters (s : State) (k : Nat) (f : CoreSt → CoreSt) : (s.modCore k f).clusters = s.clusters := rfl
@[simp] theorem modCore_dies (s : State) (k : Nat) (f : CoreSt → CoreSt) : (s.modCore k f).dies = s.dies := rfl
@[simp] theorem modCore_groups (s : State) (k : Nat) (f : CoreSt → CoreSt) : (s.modCore k f).groups = s.groups := rfl
@[simp] theorem modCore_realms (s : State) (k : Nat) (f : CoreSt → CoreSt) : (s.modCore k f).realms = s.realms := rfl
@[simp] theorem modCore_mem (s : State) (k : Nat) (f : CoreSt → CoreSt) : (s.modCore k f).mem = s.mem := rfl
@[simp] theorem modCore_poison (s : State) (k : Nat) (f : CoreSt → CoreSt) : (s.modCore k f).poison = s.poison := rfl
@[simp] theorem modCore_keySer (s : State) (k : Nat) (f : CoreSt → CoreSt) : (s.modCore k f).keySer = s.keySer := rfl
@[simp] theorem modCore_net (s : State) (k : Nat) (f : CoreSt → CoreSt) : (s.modCore k f).net = s.net := rfl
@[simp] theorem modCore_rnet (s : State) (k : Nat) (f : CoreSt → CoreSt) : (s.modCore k f).rnet = s.rnet := rfl
@[simp] theorem modCore_agentQ (s : State) (k : Nat) (f : CoreSt → CoreSt) : (s.modCore k f).agentQ = s.agentQ := rfl
@[simp] theorem modCore_farQ (s : State) (k : Nat) (f : CoreSt → CoreSt) : (s.modCore k f).farQ = s.farQ := rfl
@[simp] theorem modCore_watches (s : State) (k : Nat) (f : CoreSt → CoreSt) : (s.modCore k f).watches = s.watches := rfl
@[simp] theorem modCore_reports (s : State) (k : Nat) (f : CoreSt → CoreSt) : (s.modCore k f).reports = s.reports := rfl
@[simp] theorem modCore_ports (s : State) (k : Nat) (f : CoreSt → CoreSt) : (s.modCore k f).ports = s.ports := rfl
@[simp] theorem modCore_clock (s : State) (k : Nat) (f : CoreSt → CoreSt) : (s.modCore k f).clock = s.clock := rfl
@[simp] theorem modCore_fresh (s : State) (k : Nat) (f : CoreSt → CoreSt) : (s.modCore k f).fresh = s.fresh := rfl
@[simp] theorem modCore_cur (s : State) (k : Nat) (f : CoreSt → CoreSt) : (s.modCore k f).cur = s.cur := rfl
@[simp] theorem modCore_sched (s : State) (k : Nat) (f : CoreSt → CoreSt) : (s.modCore k f).sched = s.sched := rfl
@[simp] theorem modCore_fabid (s : State) (k : Nat) (f : CoreSt → CoreSt) : (s.modCore k f).fabid = s.fabid := rfl

/-! ### modDie -/

@[simp] theorem modDie_slots (s : State) (k : Nat) (f : DieSt → DieSt) : (s.modDie k f).slots = s.slots := rfl
@[simp] theorem modDie_frames (s : State) (k : Nat) (f : DieSt → DieSt) : (s.modDie k f).frames = s.frames := rfl
@[simp] theorem modDie_xregs (s : State) (k : Nat) (f : DieSt → DieSt) : (s.modDie k f).xregs = s.xregs := rfl
@[simp] theorem modDie_fregs (s : State) (k : Nat) (f : DieSt → DieSt) : (s.modDie k f).fregs = s.fregs := rfl
@[simp] theorem modDie_pregs (s : State) (k : Nat) (f : DieSt → DieSt) : (s.modDie k f).pregs = s.pregs := rfl
@[simp] theorem modDie_vregs (s : State) (k : Nat) (f : DieSt → DieSt) : (s.modDie k f).vregs = s.vregs := rfl
@[simp] theorem modDie_counters (s : State) (k : Nat) (f : DieSt → DieSt) : (s.modDie k f).counters = s.counters := rfl
@[simp] theorem modDie_cdescs (s : State) (k : Nat) (f : DieSt → DieSt) : (s.modDie k f).cdescs = s.cdescs := rfl
@[simp] theorem modDie_cores (s : State) (k : Nat) (f : DieSt → DieSt) : (s.modDie k f).cores = s.cores := rfl
@[simp] theorem modDie_octets (s : State) (k : Nat) (f : DieSt → DieSt) : (s.modDie k f).octets = s.octets := rfl
@[simp] theorem modDie_clusters (s : State) (k : Nat) (f : DieSt → DieSt) : (s.modDie k f).clusters = s.clusters := rfl
@[simp] theorem modDie_groups (s : State) (k : Nat) (f : DieSt → DieSt) : (s.modDie k f).groups = s.groups := rfl
@[simp] theorem modDie_realms (s : State) (k : Nat) (f : DieSt → DieSt) : (s.modDie k f).realms = s.realms := rfl
@[simp] theorem modDie_mem (s : State) (k : Nat) (f : DieSt → DieSt) : (s.modDie k f).mem = s.mem := rfl
@[simp] theorem modDie_poison (s : State) (k : Nat) (f : DieSt → DieSt) : (s.modDie k f).poison = s.poison := rfl
@[simp] theorem modDie_keySer (s : State) (k : Nat) (f : DieSt → DieSt) : (s.modDie k f).keySer = s.keySer := rfl
@[simp] theorem modDie_net (s : State) (k : Nat) (f : DieSt → DieSt) : (s.modDie k f).net = s.net := rfl
@[simp] theorem modDie_rnet (s : State) (k : Nat) (f : DieSt → DieSt) : (s.modDie k f).rnet = s.rnet := rfl
@[simp] theorem modDie_agentQ (s : State) (k : Nat) (f : DieSt → DieSt) : (s.modDie k f).agentQ = s.agentQ := rfl
@[simp] theorem modDie_farQ (s : State) (k : Nat) (f : DieSt → DieSt) : (s.modDie k f).farQ = s.farQ := rfl
@[simp] theorem modDie_watches (s : State) (k : Nat) (f : DieSt → DieSt) : (s.modDie k f).watches = s.watches := rfl
@[simp] theorem modDie_reports (s : State) (k : Nat) (f : DieSt → DieSt) : (s.modDie k f).reports = s.reports := rfl
@[simp] theorem modDie_ports (s : State) (k : Nat) (f : DieSt → DieSt) : (s.modDie k f).ports = s.ports := rfl
@[simp] theorem modDie_clock (s : State) (k : Nat) (f : DieSt → DieSt) : (s.modDie k f).clock = s.clock := rfl
@[simp] theorem modDie_fresh (s : State) (k : Nat) (f : DieSt → DieSt) : (s.modDie k f).fresh = s.fresh := rfl
@[simp] theorem modDie_cur (s : State) (k : Nat) (f : DieSt → DieSt) : (s.modDie k f).cur = s.cur := rfl
@[simp] theorem modDie_sched (s : State) (k : Nat) (f : DieSt → DieSt) : (s.modDie k f).sched = s.sched := rfl
@[simp] theorem modDie_fabid (s : State) (k : Nat) (f : DieSt → DieSt) : (s.modDie k f).fabid = s.fabid := rfl

/-! ### modOctet -/

@[simp] theorem modOctet_slots (s : State) (k : Nat) (f : OctetSt → OctetSt) : (s.modOctet k f).slots = s.slots := rfl
@[simp] theorem modOctet_frames (s : State) (k : Nat) (f : OctetSt → OctetSt) : (s.modOctet k f).frames = s.frames := rfl
@[simp] theorem modOctet_xregs (s : State) (k : Nat) (f : OctetSt → OctetSt) : (s.modOctet k f).xregs = s.xregs := rfl
@[simp] theorem modOctet_fregs (s : State) (k : Nat) (f : OctetSt → OctetSt) : (s.modOctet k f).fregs = s.fregs := rfl
@[simp] theorem modOctet_pregs (s : State) (k : Nat) (f : OctetSt → OctetSt) : (s.modOctet k f).pregs = s.pregs := rfl
@[simp] theorem modOctet_vregs (s : State) (k : Nat) (f : OctetSt → OctetSt) : (s.modOctet k f).vregs = s.vregs := rfl
@[simp] theorem modOctet_counters (s : State) (k : Nat) (f : OctetSt → OctetSt) : (s.modOctet k f).counters = s.counters := rfl
@[simp] theorem modOctet_cdescs (s : State) (k : Nat) (f : OctetSt → OctetSt) : (s.modOctet k f).cdescs = s.cdescs := rfl
@[simp] theorem modOctet_cores (s : State) (k : Nat) (f : OctetSt → OctetSt) : (s.modOctet k f).cores = s.cores := rfl
@[simp] theorem modOctet_clusters (s : State) (k : Nat) (f : OctetSt → OctetSt) : (s.modOctet k f).clusters = s.clusters := rfl
@[simp] theorem modOctet_dies (s : State) (k : Nat) (f : OctetSt → OctetSt) : (s.modOctet k f).dies = s.dies := rfl
@[simp] theorem modOctet_groups (s : State) (k : Nat) (f : OctetSt → OctetSt) : (s.modOctet k f).groups = s.groups := rfl
@[simp] theorem modOctet_realms (s : State) (k : Nat) (f : OctetSt → OctetSt) : (s.modOctet k f).realms = s.realms := rfl
@[simp] theorem modOctet_mem (s : State) (k : Nat) (f : OctetSt → OctetSt) : (s.modOctet k f).mem = s.mem := rfl
@[simp] theorem modOctet_poison (s : State) (k : Nat) (f : OctetSt → OctetSt) : (s.modOctet k f).poison = s.poison := rfl
@[simp] theorem modOctet_keySer (s : State) (k : Nat) (f : OctetSt → OctetSt) : (s.modOctet k f).keySer = s.keySer := rfl
@[simp] theorem modOctet_net (s : State) (k : Nat) (f : OctetSt → OctetSt) : (s.modOctet k f).net = s.net := rfl
@[simp] theorem modOctet_rnet (s : State) (k : Nat) (f : OctetSt → OctetSt) : (s.modOctet k f).rnet = s.rnet := rfl
@[simp] theorem modOctet_agentQ (s : State) (k : Nat) (f : OctetSt → OctetSt) : (s.modOctet k f).agentQ = s.agentQ := rfl
@[simp] theorem modOctet_farQ (s : State) (k : Nat) (f : OctetSt → OctetSt) : (s.modOctet k f).farQ = s.farQ := rfl
@[simp] theorem modOctet_watches (s : State) (k : Nat) (f : OctetSt → OctetSt) : (s.modOctet k f).watches = s.watches := rfl
@[simp] theorem modOctet_reports (s : State) (k : Nat) (f : OctetSt → OctetSt) : (s.modOctet k f).reports = s.reports := rfl
@[simp] theorem modOctet_ports (s : State) (k : Nat) (f : OctetSt → OctetSt) : (s.modOctet k f).ports = s.ports := rfl
@[simp] theorem modOctet_clock (s : State) (k : Nat) (f : OctetSt → OctetSt) : (s.modOctet k f).clock = s.clock := rfl
@[simp] theorem modOctet_fresh (s : State) (k : Nat) (f : OctetSt → OctetSt) : (s.modOctet k f).fresh = s.fresh := rfl
@[simp] theorem modOctet_cur (s : State) (k : Nat) (f : OctetSt → OctetSt) : (s.modOctet k f).cur = s.cur := rfl
@[simp] theorem modOctet_sched (s : State) (k : Nat) (f : OctetSt → OctetSt) : (s.modOctet k f).sched = s.sched := rfl
@[simp] theorem modOctet_fabid (s : State) (k : Nat) (f : OctetSt → OctetSt) : (s.modOctet k f).fabid = s.fabid := rfl

/-! ### modCluster -/

@[simp] theorem modCluster_slots (s : State) (k : Nat) (f : ClusterSt → ClusterSt) : (s.modCluster k f).slots = s.slots := rfl
@[simp] theorem modCluster_frames (s : State) (k : Nat) (f : ClusterSt → ClusterSt) : (s.modCluster k f).frames = s.frames := rfl
@[simp] theorem modCluster_xregs (s : State) (k : Nat) (f : ClusterSt → ClusterSt) : (s.modCluster k f).xregs = s.xregs := rfl
@[simp] theorem modCluster_fregs (s : State) (k : Nat) (f : ClusterSt → ClusterSt) : (s.modCluster k f).fregs = s.fregs := rfl
@[simp] theorem modCluster_pregs (s : State) (k : Nat) (f : ClusterSt → ClusterSt) : (s.modCluster k f).pregs = s.pregs := rfl
@[simp] theorem modCluster_vregs (s : State) (k : Nat) (f : ClusterSt → ClusterSt) : (s.modCluster k f).vregs = s.vregs := rfl
@[simp] theorem modCluster_counters (s : State) (k : Nat) (f : ClusterSt → ClusterSt) : (s.modCluster k f).counters = s.counters := rfl
@[simp] theorem modCluster_cdescs (s : State) (k : Nat) (f : ClusterSt → ClusterSt) : (s.modCluster k f).cdescs = s.cdescs := rfl
@[simp] theorem modCluster_cores (s : State) (k : Nat) (f : ClusterSt → ClusterSt) : (s.modCluster k f).cores = s.cores := rfl
@[simp] theorem modCluster_octets (s : State) (k : Nat) (f : ClusterSt → ClusterSt) : (s.modCluster k f).octets = s.octets := rfl
@[simp] theorem modCluster_dies (s : State) (k : Nat) (f : ClusterSt → ClusterSt) : (s.modCluster k f).dies = s.dies := rfl
@[simp] theorem modCluster_groups (s : State) (k : Nat) (f : ClusterSt → ClusterSt) : (s.modCluster k f).groups = s.groups := rfl
@[simp] theorem modCluster_realms (s : State) (k : Nat) (f : ClusterSt → ClusterSt) : (s.modCluster k f).realms = s.realms := rfl
@[simp] theorem modCluster_mem (s : State) (k : Nat) (f : ClusterSt → ClusterSt) : (s.modCluster k f).mem = s.mem := rfl
@[simp] theorem modCluster_poison (s : State) (k : Nat) (f : ClusterSt → ClusterSt) : (s.modCluster k f).poison = s.poison := rfl
@[simp] theorem modCluster_keySer (s : State) (k : Nat) (f : ClusterSt → ClusterSt) : (s.modCluster k f).keySer = s.keySer := rfl
@[simp] theorem modCluster_net (s : State) (k : Nat) (f : ClusterSt → ClusterSt) : (s.modCluster k f).net = s.net := rfl
@[simp] theorem modCluster_rnet (s : State) (k : Nat) (f : ClusterSt → ClusterSt) : (s.modCluster k f).rnet = s.rnet := rfl
@[simp] theorem modCluster_agentQ (s : State) (k : Nat) (f : ClusterSt → ClusterSt) : (s.modCluster k f).agentQ = s.agentQ := rfl
@[simp] theorem modCluster_farQ (s : State) (k : Nat) (f : ClusterSt → ClusterSt) : (s.modCluster k f).farQ = s.farQ := rfl
@[simp] theorem modCluster_watches (s : State) (k : Nat) (f : ClusterSt → ClusterSt) : (s.modCluster k f).watches = s.watches := rfl
@[simp] theorem modCluster_reports (s : State) (k : Nat) (f : ClusterSt → ClusterSt) : (s.modCluster k f).reports = s.reports := rfl
@[simp] theorem modCluster_ports (s : State) (k : Nat) (f : ClusterSt → ClusterSt) : (s.modCluster k f).ports = s.ports := rfl
@[simp] theorem modCluster_clock (s : State) (k : Nat) (f : ClusterSt → ClusterSt) : (s.modCluster k f).clock = s.clock := rfl
@[simp] theorem modCluster_fresh (s : State) (k : Nat) (f : ClusterSt → ClusterSt) : (s.modCluster k f).fresh = s.fresh := rfl
@[simp] theorem modCluster_cur (s : State) (k : Nat) (f : ClusterSt → ClusterSt) : (s.modCluster k f).cur = s.cur := rfl
@[simp] theorem modCluster_sched (s : State) (k : Nat) (f : ClusterSt → ClusterSt) : (s.modCluster k f).sched = s.sched := rfl
@[simp] theorem modCluster_fabid (s : State) (k : Nat) (f : ClusterSt → ClusterSt) : (s.modCluster k f).fabid = s.fabid := rfl

/-! ### modRealm -/

@[simp] theorem modRealm_slots (s : State) (k : Nat) (f : RealmSt → RealmSt) : (s.modRealm k f).slots = s.slots := rfl
@[simp] theorem modRealm_frames (s : State) (k : Nat) (f : RealmSt → RealmSt) : (s.modRealm k f).frames = s.frames := rfl
@[simp] theorem modRealm_xregs (s : State) (k : Nat) (f : RealmSt → RealmSt) : (s.modRealm k f).xregs = s.xregs := rfl
@[simp] theorem modRealm_fregs (s : State) (k : Nat) (f : RealmSt → RealmSt) : (s.modRealm k f).fregs = s.fregs := rfl
@[simp] theorem modRealm_pregs (s : State) (k : Nat) (f : RealmSt → RealmSt) : (s.modRealm k f).pregs = s.pregs := rfl
@[simp] theorem modRealm_vregs (s : State) (k : Nat) (f : RealmSt → RealmSt) : (s.modRealm k f).vregs = s.vregs := rfl
@[simp] theorem modRealm_counters (s : State) (k : Nat) (f : RealmSt → RealmSt) : (s.modRealm k f).counters = s.counters := rfl
@[simp] theorem modRealm_cdescs (s : State) (k : Nat) (f : RealmSt → RealmSt) : (s.modRealm k f).cdescs = s.cdescs := rfl
@[simp] theorem modRealm_cores (s : State) (k : Nat) (f : RealmSt → RealmSt) : (s.modRealm k f).cores = s.cores := rfl
@[simp] theorem modRealm_octets (s : State) (k : Nat) (f : RealmSt → RealmSt) : (s.modRealm k f).octets = s.octets := rfl
@[simp] theorem modRealm_clusters (s : State) (k : Nat) (f : RealmSt → RealmSt) : (s.modRealm k f).clusters = s.clusters := rfl
@[simp] theorem modRealm_dies (s : State) (k : Nat) (f : RealmSt → RealmSt) : (s.modRealm k f).dies = s.dies := rfl
@[simp] theorem modRealm_groups (s : State) (k : Nat) (f : RealmSt → RealmSt) : (s.modRealm k f).groups = s.groups := rfl
@[simp] theorem modRealm_mem (s : State) (k : Nat) (f : RealmSt → RealmSt) : (s.modRealm k f).mem = s.mem := rfl
@[simp] theorem modRealm_poison (s : State) (k : Nat) (f : RealmSt → RealmSt) : (s.modRealm k f).poison = s.poison := rfl
@[simp] theorem modRealm_keySer (s : State) (k : Nat) (f : RealmSt → RealmSt) : (s.modRealm k f).keySer = s.keySer := rfl
@[simp] theorem modRealm_net (s : State) (k : Nat) (f : RealmSt → RealmSt) : (s.modRealm k f).net = s.net := rfl
@[simp] theorem modRealm_rnet (s : State) (k : Nat) (f : RealmSt → RealmSt) : (s.modRealm k f).rnet = s.rnet := rfl
@[simp] theorem modRealm_agentQ (s : State) (k : Nat) (f : RealmSt → RealmSt) : (s.modRealm k f).agentQ = s.agentQ := rfl
@[simp] theorem modRealm_farQ (s : State) (k : Nat) (f : RealmSt → RealmSt) : (s.modRealm k f).farQ = s.farQ := rfl
@[simp] theorem modRealm_watches (s : State) (k : Nat) (f : RealmSt → RealmSt) : (s.modRealm k f).watches = s.watches := rfl
@[simp] theorem modRealm_reports (s : State) (k : Nat) (f : RealmSt → RealmSt) : (s.modRealm k f).reports = s.reports := rfl
@[simp] theorem modRealm_ports (s : State) (k : Nat) (f : RealmSt → RealmSt) : (s.modRealm k f).ports = s.ports := rfl
@[simp] theorem modRealm_clock (s : State) (k : Nat) (f : RealmSt → RealmSt) : (s.modRealm k f).clock = s.clock := rfl
@[simp] theorem modRealm_fresh (s : State) (k : Nat) (f : RealmSt → RealmSt) : (s.modRealm k f).fresh = s.fresh := rfl
@[simp] theorem modRealm_cur (s : State) (k : Nat) (f : RealmSt → RealmSt) : (s.modRealm k f).cur = s.cur := rfl
@[simp] theorem modRealm_sched (s : State) (k : Nat) (f : RealmSt → RealmSt) : (s.modRealm k f).sched = s.sched := rfl
@[simp] theorem modRealm_fabid (s : State) (k : Nat) (f : RealmSt → RealmSt) : (s.modRealm k f).fabid = s.fabid := rfl

/-! ### modPort -/

@[simp] theorem modPort_slots (s : State) (k : Nat) (f : PortSt → PortSt) : (s.modPort k f).slots = s.slots := rfl
@[simp] theorem modPort_frames (s : State) (k : Nat) (f : PortSt → PortSt) : (s.modPort k f).frames = s.frames := rfl
@[simp] theorem modPort_xregs (s : State) (k : Nat) (f : PortSt → PortSt) : (s.modPort k f).xregs = s.xregs := rfl
@[simp] theorem modPort_fregs (s : State) (k : Nat) (f : PortSt → PortSt) : (s.modPort k f).fregs = s.fregs := rfl
@[simp] theorem modPort_pregs (s : State) (k : Nat) (f : PortSt → PortSt) : (s.modPort k f).pregs = s.pregs := rfl
@[simp] theorem modPort_vregs (s : State) (k : Nat) (f : PortSt → PortSt) : (s.modPort k f).vregs = s.vregs := rfl
@[simp] theorem modPort_counters (s : State) (k : Nat) (f : PortSt → PortSt) : (s.modPort k f).counters = s.counters := rfl
@[simp] theorem modPort_cdescs (s : State) (k : Nat) (f : PortSt → PortSt) : (s.modPort k f).cdescs = s.cdescs := rfl
@[simp] theorem modPort_cores (s : State) (k : Nat) (f : PortSt → PortSt) : (s.modPort k f).cores = s.cores := rfl
@[simp] theorem modPort_octets (s : State) (k : Nat) (f : PortSt → PortSt) : (s.modPort k f).octets = s.octets := rfl
@[simp] theorem modPort_clusters (s : State) (k : Nat) (f : PortSt → PortSt) : (s.modPort k f).clusters = s.clusters := rfl
@[simp] theorem modPort_dies (s : State) (k : Nat) (f : PortSt → PortSt) : (s.modPort k f).dies = s.dies := rfl
@[simp] theorem modPort_groups (s : State) (k : Nat) (f : PortSt → PortSt) : (s.modPort k f).groups = s.groups := rfl
@[simp] theorem modPort_realms (s : State) (k : Nat) (f : PortSt → PortSt) : (s.modPort k f).realms = s.realms := rfl
@[simp] theorem modPort_mem (s : State) (k : Nat) (f : PortSt → PortSt) : (s.modPort k f).mem = s.mem := rfl
@[simp] theorem modPort_poison (s : State) (k : Nat) (f : PortSt → PortSt) : (s.modPort k f).poison = s.poison := rfl
@[simp] theorem modPort_keySer (s : State) (k : Nat) (f : PortSt → PortSt) : (s.modPort k f).keySer = s.keySer := rfl
@[simp] theorem modPort_net (s : State) (k : Nat) (f : PortSt → PortSt) : (s.modPort k f).net = s.net := rfl
@[simp] theorem modPort_rnet (s : State) (k : Nat) (f : PortSt → PortSt) : (s.modPort k f).rnet = s.rnet := rfl
@[simp] theorem modPort_agentQ (s : State) (k : Nat) (f : PortSt → PortSt) : (s.modPort k f).agentQ = s.agentQ := rfl
@[simp] theorem modPort_farQ (s : State) (k : Nat) (f : PortSt → PortSt) : (s.modPort k f).farQ = s.farQ := rfl
@[simp] theorem modPort_watches (s : State) (k : Nat) (f : PortSt → PortSt) : (s.modPort k f).watches = s.watches := rfl
@[simp] theorem modPort_reports (s : State) (k : Nat) (f : PortSt → PortSt) : (s.modPort k f).reports = s.reports := rfl
@[simp] theorem modPort_clock (s : State) (k : Nat) (f : PortSt → PortSt) : (s.modPort k f).clock = s.clock := rfl
@[simp] theorem modPort_fresh (s : State) (k : Nat) (f : PortSt → PortSt) : (s.modPort k f).fresh = s.fresh := rfl
@[simp] theorem modPort_cur (s : State) (k : Nat) (f : PortSt → PortSt) : (s.modPort k f).cur = s.cur := rfl
@[simp] theorem modPort_sched (s : State) (k : Nat) (f : PortSt → PortSt) : (s.modPort k f).sched = s.sched := rfl
@[simp] theorem modPort_fabid (s : State) (k : Nat) (f : PortSt → PortSt) : (s.modPort k f).fabid = s.fabid := rfl

/-! ### wrByte -/

@[simp] theorem wrByte_slots (s : State) (a : Nat) (b : Byte) : (s.wrByte a b).slots = s.slots := rfl
@[simp] theorem wrByte_frames (s : State) (a : Nat) (b : Byte) : (s.wrByte a b).frames = s.frames := rfl
@[simp] theorem wrByte_xregs (s : State) (a : Nat) (b : Byte) : (s.wrByte a b).xregs = s.xregs := rfl
@[simp] theorem wrByte_fregs (s : State) (a : Nat) (b : Byte) : (s.wrByte a b).fregs = s.fregs := rfl
@[simp] theorem wrByte_pregs (s : State) (a : Nat) (b : Byte) : (s.wrByte a b).pregs = s.pregs := rfl
@[simp] theorem wrByte_vregs (s : State) (a : Nat) (b : Byte) : (s.wrByte a b).vregs = s.vregs := rfl
@[simp] theorem wrByte_counters (s : State) (a : Nat) (b : Byte) : (s.wrByte a b).counters = s.counters := rfl
@[simp] theorem wrByte_cdescs (s : State) (a : Nat) (b : Byte) : (s.wrByte a b).cdescs = s.cdescs := rfl
@[simp] theorem wrByte_cores (s : State) (a : Nat) (b : Byte) : (s.wrByte a b).cores = s.cores := rfl
@[simp] theorem wrByte_octets (s : State) (a : Nat) (b : Byte) : (s.wrByte a b).octets = s.octets := rfl
@[simp] theorem wrByte_clusters (s : State) (a : Nat) (b : Byte) : (s.wrByte a b).clusters = s.clusters := rfl
@[simp] theorem wrByte_dies (s : State) (a : Nat) (b : Byte) : (s.wrByte a b).dies = s.dies := rfl
@[simp] theorem wrByte_groups (s : State) (a : Nat) (b : Byte) : (s.wrByte a b).groups = s.groups := rfl
@[simp] theorem wrByte_realms (s : State) (a : Nat) (b : Byte) : (s.wrByte a b).realms = s.realms := rfl
@[simp] theorem wrByte_poison (s : State) (a : Nat) (b : Byte) : (s.wrByte a b).poison = s.poison := rfl
@[simp] theorem wrByte_keySer (s : State) (a : Nat) (b : Byte) : (s.wrByte a b).keySer = s.keySer := rfl
@[simp] theorem wrByte_net (s : State) (a : Nat) (b : Byte) : (s.wrByte a b).net = s.net := rfl
@[simp] theorem wrByte_rnet (s : State) (a : Nat) (b : Byte) : (s.wrByte a b).rnet = s.rnet := rfl
@[simp] theorem wrByte_agentQ (s : State) (a : Nat) (b : Byte) : (s.wrByte a b).agentQ = s.agentQ := rfl
@[simp] theorem wrByte_farQ (s : State) (a : Nat) (b : Byte) : (s.wrByte a b).farQ = s.farQ := rfl
@[simp] theorem wrByte_watches (s : State) (a : Nat) (b : Byte) : (s.wrByte a b).watches = s.watches := rfl
@[simp] theorem wrByte_reports (s : State) (a : Nat) (b : Byte) : (s.wrByte a b).reports = s.reports := rfl
@[simp] theorem wrByte_ports (s : State) (a : Nat) (b : Byte) : (s.wrByte a b).ports = s.ports := rfl
@[simp] theorem wrByte_clock (s : State) (a : Nat) (b : Byte) : (s.wrByte a b).clock = s.clock := rfl
@[simp] theorem wrByte_fresh (s : State) (a : Nat) (b : Byte) : (s.wrByte a b).fresh = s.fresh := rfl
@[simp] theorem wrByte_cur (s : State) (a : Nat) (b : Byte) : (s.wrByte a b).cur = s.cur := rfl
@[simp] theorem wrByte_sched (s : State) (a : Nat) (b : Byte) : (s.wrByte a b).sched = s.sched := rfl
@[simp] theorem wrByte_fabid (s : State) (a : Nat) (b : Byte) : (s.wrByte a b).fabid = s.fabid := rfl

/-! ### retire -/

@[simp] theorem retire_frames (s : State) (n : Nat) : (s.retire n).frames = s.frames := rfl
@[simp] theorem retire_xregs (s : State) (n : Nat) : (s.retire n).xregs = s.xregs := rfl
@[simp] theorem retire_fregs (s : State) (n : Nat) : (s.retire n).fregs = s.fregs := rfl
@[simp] theorem retire_pregs (s : State) (n : Nat) : (s.retire n).pregs = s.pregs := rfl
@[simp] theorem retire_vregs (s : State) (n : Nat) : (s.retire n).vregs = s.vregs := rfl
@[simp] theorem retire_counters (s : State) (n : Nat) : (s.retire n).counters = s.counters := rfl
@[simp] theorem retire_cdescs (s : State) (n : Nat) : (s.retire n).cdescs = s.cdescs := rfl
@[simp] theorem retire_octets (s : State) (n : Nat) : (s.retire n).octets = s.octets := rfl
@[simp] theorem retire_clusters (s : State) (n : Nat) : (s.retire n).clusters = s.clusters := rfl
@[simp] theorem retire_dies (s : State) (n : Nat) : (s.retire n).dies = s.dies := rfl
@[simp] theorem retire_groups (s : State) (n : Nat) : (s.retire n).groups = s.groups := rfl
@[simp] theorem retire_realms (s : State) (n : Nat) : (s.retire n).realms = s.realms := rfl
@[simp] theorem retire_mem (s : State) (n : Nat) : (s.retire n).mem = s.mem := rfl
@[simp] theorem retire_poison (s : State) (n : Nat) : (s.retire n).poison = s.poison := rfl
@[simp] theorem retire_keySer (s : State) (n : Nat) : (s.retire n).keySer = s.keySer := rfl
@[simp] theorem retire_net (s : State) (n : Nat) : (s.retire n).net = s.net := rfl
@[simp] theorem retire_rnet (s : State) (n : Nat) : (s.retire n).rnet = s.rnet := rfl
@[simp] theorem retire_agentQ (s : State) (n : Nat) : (s.retire n).agentQ = s.agentQ := rfl
@[simp] theorem retire_farQ (s : State) (n : Nat) : (s.retire n).farQ = s.farQ := rfl
@[simp] theorem retire_watches (s : State) (n : Nat) : (s.retire n).watches = s.watches := rfl
@[simp] theorem retire_reports (s : State) (n : Nat) : (s.retire n).reports = s.reports := rfl
@[simp] theorem retire_ports (s : State) (n : Nat) : (s.retire n).ports = s.ports := rfl
@[simp] theorem retire_clock (s : State) (n : Nat) : (s.retire n).clock = s.clock := rfl
@[simp] theorem retire_fresh (s : State) (n : Nat) : (s.retire n).fresh = s.fresh := rfl
@[simp] theorem retire_cur (s : State) (n : Nat) : (s.retire n).cur = s.cur := rfl
@[simp] theorem retire_sched (s : State) (n : Nat) : (s.retire n).sched = s.sched := rfl
@[simp] theorem retire_fabid (s : State) (n : Nat) : (s.retire n).fabid = s.fabid := rfl

/-! ### retireTo -/

@[simp] theorem retireTo_frames (s : State) (t : Word) : (s.retireTo t).frames = s.frames := rfl
@[simp] theorem retireTo_xregs (s : State) (t : Word) : (s.retireTo t).xregs = s.xregs := rfl
@[simp] theorem retireTo_fregs (s : State) (t : Word) : (s.retireTo t).fregs = s.fregs := rfl
@[simp] theorem retireTo_pregs (s : State) (t : Word) : (s.retireTo t).pregs = s.pregs := rfl
@[simp] theorem retireTo_vregs (s : State) (t : Word) : (s.retireTo t).vregs = s.vregs := rfl
@[simp] theorem retireTo_counters (s : State) (t : Word) : (s.retireTo t).counters = s.counters := rfl
@[simp] theorem retireTo_cdescs (s : State) (t : Word) : (s.retireTo t).cdescs = s.cdescs := rfl
@[simp] theorem retireTo_octets (s : State) (t : Word) : (s.retireTo t).octets = s.octets := rfl
@[simp] theorem retireTo_clusters (s : State) (t : Word) : (s.retireTo t).clusters = s.clusters := rfl
@[simp] theorem retireTo_dies (s : State) (t : Word) : (s.retireTo t).dies = s.dies := rfl
@[simp] theorem retireTo_groups (s : State) (t : Word) : (s.retireTo t).groups = s.groups := rfl
@[simp] theorem retireTo_realms (s : State) (t : Word) : (s.retireTo t).realms = s.realms := rfl
@[simp] theorem retireTo_mem (s : State) (t : Word) : (s.retireTo t).mem = s.mem := rfl
@[simp] theorem retireTo_poison (s : State) (t : Word) : (s.retireTo t).poison = s.poison := rfl
@[simp] theorem retireTo_keySer (s : State) (t : Word) : (s.retireTo t).keySer = s.keySer := rfl
@[simp] theorem retireTo_net (s : State) (t : Word) : (s.retireTo t).net = s.net := rfl
@[simp] theorem retireTo_rnet (s : State) (t : Word) : (s.retireTo t).rnet = s.rnet := rfl
@[simp] theorem retireTo_agentQ (s : State) (t : Word) : (s.retireTo t).agentQ = s.agentQ := rfl
@[simp] theorem retireTo_farQ (s : State) (t : Word) : (s.retireTo t).farQ = s.farQ := rfl
@[simp] theorem retireTo_watches (s : State) (t : Word) : (s.retireTo t).watches = s.watches := rfl
@[simp] theorem retireTo_reports (s : State) (t : Word) : (s.retireTo t).reports = s.reports := rfl
@[simp] theorem retireTo_ports (s : State) (t : Word) : (s.retireTo t).ports = s.ports := rfl
@[simp] theorem retireTo_clock (s : State) (t : Word) : (s.retireTo t).clock = s.clock := rfl
@[simp] theorem retireTo_fresh (s : State) (t : Word) : (s.retireTo t).fresh = s.fresh := rfl
@[simp] theorem retireTo_cur (s : State) (t : Word) : (s.retireTo t).cur = s.cur := rfl
@[simp] theorem retireTo_sched (s : State) (t : Word) : (s.retireTo t).sched = s.sched := rfl
@[simp] theorem retireTo_fabid (s : State) (t : Word) : (s.retireTo t).fabid = s.fabid := rfl

/-! ### retireSafe -/

@[simp] theorem retireSafe_frames (s : State) (n : Nat) : (s.retireSafe n).frames = s.frames := rfl
@[simp] theorem retireSafe_xregs (s : State) (n : Nat) : (s.retireSafe n).xregs = s.xregs := rfl
@[simp] theorem retireSafe_fregs (s : State) (n : Nat) : (s.retireSafe n).fregs = s.fregs := rfl
@[simp] theorem retireSafe_pregs (s : State) (n : Nat) : (s.retireSafe n).pregs = s.pregs := rfl
@[simp] theorem retireSafe_vregs (s : State) (n : Nat) : (s.retireSafe n).vregs = s.vregs := rfl
@[simp] theorem retireSafe_counters (s : State) (n : Nat) : (s.retireSafe n).counters = s.counters := rfl
@[simp] theorem retireSafe_cdescs (s : State) (n : Nat) : (s.retireSafe n).cdescs = s.cdescs := rfl
@[simp] theorem retireSafe_octets (s : State) (n : Nat) : (s.retireSafe n).octets = s.octets := rfl
@[simp] theorem retireSafe_clusters (s : State) (n : Nat) : (s.retireSafe n).clusters = s.clusters := rfl
@[simp] theorem retireSafe_groups (s : State) (n : Nat) : (s.retireSafe n).groups = s.groups := rfl
@[simp] theorem retireSafe_realms (s : State) (n : Nat) : (s.retireSafe n).realms = s.realms := rfl
@[simp] theorem retireSafe_mem (s : State) (n : Nat) : (s.retireSafe n).mem = s.mem := rfl
@[simp] theorem retireSafe_poison (s : State) (n : Nat) : (s.retireSafe n).poison = s.poison := rfl
@[simp] theorem retireSafe_keySer (s : State) (n : Nat) : (s.retireSafe n).keySer = s.keySer := rfl
@[simp] theorem retireSafe_net (s : State) (n : Nat) : (s.retireSafe n).net = s.net := rfl
@[simp] theorem retireSafe_rnet (s : State) (n : Nat) : (s.retireSafe n).rnet = s.rnet := rfl
@[simp] theorem retireSafe_agentQ (s : State) (n : Nat) : (s.retireSafe n).agentQ = s.agentQ := rfl
@[simp] theorem retireSafe_farQ (s : State) (n : Nat) : (s.retireSafe n).farQ = s.farQ := rfl
@[simp] theorem retireSafe_watches (s : State) (n : Nat) : (s.retireSafe n).watches = s.watches := rfl
@[simp] theorem retireSafe_reports (s : State) (n : Nat) : (s.retireSafe n).reports = s.reports := rfl
@[simp] theorem retireSafe_ports (s : State) (n : Nat) : (s.retireSafe n).ports = s.ports := rfl
@[simp] theorem retireSafe_clock (s : State) (n : Nat) : (s.retireSafe n).clock = s.clock := rfl
@[simp] theorem retireSafe_fresh (s : State) (n : Nat) : (s.retireSafe n).fresh = s.fresh := rfl
@[simp] theorem retireSafe_cur (s : State) (n : Nat) : (s.retireSafe n).cur = s.cur := rfl
@[simp] theorem retireSafe_sched (s : State) (n : Nat) : (s.retireSafe n).sched = s.sched := rfl
@[simp] theorem retireSafe_fabid (s : State) (n : Nat) : (s.retireSafe n).fabid = s.fabid := rfl

/-! ### orFlags -/

@[simp] theorem orFlags_frames (s : State) (fl : Flags) (lat : Nat) : (s.orFlags fl lat).frames = s.frames := rfl
@[simp] theorem orFlags_xregs (s : State) (fl : Flags) (lat : Nat) : (s.orFlags fl lat).xregs = s.xregs := rfl
@[simp] theorem orFlags_fregs (s : State) (fl : Flags) (lat : Nat) : (s.orFlags fl lat).fregs = s.fregs := rfl
@[simp] theorem orFlags_pregs (s : State) (fl : Flags) (lat : Nat) : (s.orFlags fl lat).pregs = s.pregs := rfl
@[simp] theorem orFlags_vregs (s : State) (fl : Flags) (lat : Nat) : (s.orFlags fl lat).vregs = s.vregs := rfl
@[simp] theorem orFlags_counters (s : State) (fl : Flags) (lat : Nat) : (s.orFlags fl lat).counters = s.counters := rfl
@[simp] theorem orFlags_cdescs (s : State) (fl : Flags) (lat : Nat) : (s.orFlags fl lat).cdescs = s.cdescs := rfl
@[simp] theorem orFlags_cores (s : State) (fl : Flags) (lat : Nat) : (s.orFlags fl lat).cores = s.cores := rfl
@[simp] theorem orFlags_octets (s : State) (fl : Flags) (lat : Nat) : (s.orFlags fl lat).octets = s.octets := rfl
@[simp] theorem orFlags_clusters (s : State) (fl : Flags) (lat : Nat) : (s.orFlags fl lat).clusters = s.clusters := rfl
@[simp] theorem orFlags_dies (s : State) (fl : Flags) (lat : Nat) : (s.orFlags fl lat).dies = s.dies := rfl
@[simp] theorem orFlags_groups (s : State) (fl : Flags) (lat : Nat) : (s.orFlags fl lat).groups = s.groups := rfl
@[simp] theorem orFlags_realms (s : State) (fl : Flags) (lat : Nat) : (s.orFlags fl lat).realms = s.realms := rfl
@[simp] theorem orFlags_mem (s : State) (fl : Flags) (lat : Nat) : (s.orFlags fl lat).mem = s.mem := rfl
@[simp] theorem orFlags_poison (s : State) (fl : Flags) (lat : Nat) : (s.orFlags fl lat).poison = s.poison := rfl
@[simp] theorem orFlags_keySer (s : State) (fl : Flags) (lat : Nat) : (s.orFlags fl lat).keySer = s.keySer := rfl
@[simp] theorem orFlags_net (s : State) (fl : Flags) (lat : Nat) : (s.orFlags fl lat).net = s.net := rfl
@[simp] theorem orFlags_rnet (s : State) (fl : Flags) (lat : Nat) : (s.orFlags fl lat).rnet = s.rnet := rfl
@[simp] theorem orFlags_agentQ (s : State) (fl : Flags) (lat : Nat) : (s.orFlags fl lat).agentQ = s.agentQ := rfl
@[simp] theorem orFlags_farQ (s : State) (fl : Flags) (lat : Nat) : (s.orFlags fl lat).farQ = s.farQ := rfl
@[simp] theorem orFlags_watches (s : State) (fl : Flags) (lat : Nat) : (s.orFlags fl lat).watches = s.watches := rfl
@[simp] theorem orFlags_reports (s : State) (fl : Flags) (lat : Nat) : (s.orFlags fl lat).reports = s.reports := rfl
@[simp] theorem orFlags_ports (s : State) (fl : Flags) (lat : Nat) : (s.orFlags fl lat).ports = s.ports := rfl
@[simp] theorem orFlags_clock (s : State) (fl : Flags) (lat : Nat) : (s.orFlags fl lat).clock = s.clock := rfl
@[simp] theorem orFlags_fresh (s : State) (fl : Flags) (lat : Nat) : (s.orFlags fl lat).fresh = s.fresh := rfl
@[simp] theorem orFlags_cur (s : State) (fl : Flags) (lat : Nat) : (s.orFlags fl lat).cur = s.cur := rfl
@[simp] theorem orFlags_sched (s : State) (fl : Flags) (lat : Nat) : (s.orFlags fl lat).sched = s.sched := rfl
@[simp] theorem orFlags_fabid (s : State) (fl : Flags) (lat : Nat) : (s.orFlags fl lat).fabid = s.fabid := rfl

/-! ### waitFor -/

@[simp] theorem waitFor_frames (s : State) (w : Wait) : (s.waitFor w).frames = s.frames := rfl
@[simp] theorem waitFor_xregs (s : State) (w : Wait) : (s.waitFor w).xregs = s.xregs := rfl
@[simp] theorem waitFor_fregs (s : State) (w : Wait) : (s.waitFor w).fregs = s.fregs := rfl
@[simp] theorem waitFor_pregs (s : State) (w : Wait) : (s.waitFor w).pregs = s.pregs := rfl
@[simp] theorem waitFor_vregs (s : State) (w : Wait) : (s.waitFor w).vregs = s.vregs := rfl
@[simp] theorem waitFor_counters (s : State) (w : Wait) : (s.waitFor w).counters = s.counters := rfl
@[simp] theorem waitFor_cdescs (s : State) (w : Wait) : (s.waitFor w).cdescs = s.cdescs := rfl
@[simp] theorem waitFor_cores (s : State) (w : Wait) : (s.waitFor w).cores = s.cores := rfl
@[simp] theorem waitFor_octets (s : State) (w : Wait) : (s.waitFor w).octets = s.octets := rfl
@[simp] theorem waitFor_clusters (s : State) (w : Wait) : (s.waitFor w).clusters = s.clusters := rfl
@[simp] theorem waitFor_dies (s : State) (w : Wait) : (s.waitFor w).dies = s.dies := rfl
@[simp] theorem waitFor_groups (s : State) (w : Wait) : (s.waitFor w).groups = s.groups := rfl
@[simp] theorem waitFor_realms (s : State) (w : Wait) : (s.waitFor w).realms = s.realms := rfl
@[simp] theorem waitFor_mem (s : State) (w : Wait) : (s.waitFor w).mem = s.mem := rfl
@[simp] theorem waitFor_poison (s : State) (w : Wait) : (s.waitFor w).poison = s.poison := rfl
@[simp] theorem waitFor_keySer (s : State) (w : Wait) : (s.waitFor w).keySer = s.keySer := rfl
@[simp] theorem waitFor_net (s : State) (w : Wait) : (s.waitFor w).net = s.net := rfl
@[simp] theorem waitFor_rnet (s : State) (w : Wait) : (s.waitFor w).rnet = s.rnet := rfl
@[simp] theorem waitFor_agentQ (s : State) (w : Wait) : (s.waitFor w).agentQ = s.agentQ := rfl
@[simp] theorem waitFor_farQ (s : State) (w : Wait) : (s.waitFor w).farQ = s.farQ := rfl
@[simp] theorem waitFor_watches (s : State) (w : Wait) : (s.waitFor w).watches = s.watches := rfl
@[simp] theorem waitFor_reports (s : State) (w : Wait) : (s.waitFor w).reports = s.reports := rfl
@[simp] theorem waitFor_ports (s : State) (w : Wait) : (s.waitFor w).ports = s.ports := rfl
@[simp] theorem waitFor_clock (s : State) (w : Wait) : (s.waitFor w).clock = s.clock := rfl
@[simp] theorem waitFor_fresh (s : State) (w : Wait) : (s.waitFor w).fresh = s.fresh := rfl
@[simp] theorem waitFor_cur (s : State) (w : Wait) : (s.waitFor w).cur = s.cur := rfl
@[simp] theorem waitFor_sched (s : State) (w : Wait) : (s.waitFor w).sched = s.sched := rfl
@[simp] theorem waitFor_fabid (s : State) (w : Wait) : (s.waitFor w).fabid = s.fabid := rfl

/-! ### progress -/

@[simp] theorem progress_slots (s : State) (k : Nat) : (s.progress k).slots = s.slots := rfl
@[simp] theorem progress_frames (s : State) (k : Nat) : (s.progress k).frames = s.frames := rfl
@[simp] theorem progress_xregs (s : State) (k : Nat) : (s.progress k).xregs = s.xregs := rfl
@[simp] theorem progress_fregs (s : State) (k : Nat) : (s.progress k).fregs = s.fregs := rfl
@[simp] theorem progress_pregs (s : State) (k : Nat) : (s.progress k).pregs = s.pregs := rfl
@[simp] theorem progress_vregs (s : State) (k : Nat) : (s.progress k).vregs = s.vregs := rfl
@[simp] theorem progress_counters (s : State) (k : Nat) : (s.progress k).counters = s.counters := rfl
@[simp] theorem progress_cdescs (s : State) (k : Nat) : (s.progress k).cdescs = s.cdescs := rfl
@[simp] theorem progress_cores (s : State) (k : Nat) : (s.progress k).cores = s.cores := rfl
@[simp] theorem progress_octets (s : State) (k : Nat) : (s.progress k).octets = s.octets := rfl
@[simp] theorem progress_clusters (s : State) (k : Nat) : (s.progress k).clusters = s.clusters := rfl
@[simp] theorem progress_groups (s : State) (k : Nat) : (s.progress k).groups = s.groups := rfl
@[simp] theorem progress_realms (s : State) (k : Nat) : (s.progress k).realms = s.realms := rfl
@[simp] theorem progress_mem (s : State) (k : Nat) : (s.progress k).mem = s.mem := rfl
@[simp] theorem progress_poison (s : State) (k : Nat) : (s.progress k).poison = s.poison := rfl
@[simp] theorem progress_keySer (s : State) (k : Nat) : (s.progress k).keySer = s.keySer := rfl
@[simp] theorem progress_net (s : State) (k : Nat) : (s.progress k).net = s.net := rfl
@[simp] theorem progress_rnet (s : State) (k : Nat) : (s.progress k).rnet = s.rnet := rfl
@[simp] theorem progress_agentQ (s : State) (k : Nat) : (s.progress k).agentQ = s.agentQ := rfl
@[simp] theorem progress_farQ (s : State) (k : Nat) : (s.progress k).farQ = s.farQ := rfl
@[simp] theorem progress_watches (s : State) (k : Nat) : (s.progress k).watches = s.watches := rfl
@[simp] theorem progress_reports (s : State) (k : Nat) : (s.progress k).reports = s.reports := rfl
@[simp] theorem progress_ports (s : State) (k : Nat) : (s.progress k).ports = s.ports := rfl
@[simp] theorem progress_clock (s : State) (k : Nat) : (s.progress k).clock = s.clock := rfl
@[simp] theorem progress_fresh (s : State) (k : Nat) : (s.progress k).fresh = s.fresh := rfl
@[simp] theorem progress_cur (s : State) (k : Nat) : (s.progress k).cur = s.cur := rfl
@[simp] theorem progress_sched (s : State) (k : Nat) : (s.progress k).sched = s.sched := rfl
@[simp] theorem progress_fabid (s : State) (k : Nat) : (s.progress k).fabid = s.fabid := rfl

/-! ### What the accessors read after an update -/

theorem modSlot_slotSt_eq (s : State) (k : Nat) (f : Slot → Slot) (j : Nat) : (s.modSlot k f).slotSt j = if j = k then f (s.slotSt k) else s.slotSt j := by
  unfold modSlot slotSt; exact Tab.get_set _ _ _ _ _
@[simp] theorem modSlot_slotSt_same (s : State) (k : Nat) (f : Slot → Slot) : (s.modSlot k f).slotSt k = f (s.slotSt k) := by
  unfold modSlot slotSt; exact Tab.get_set_same _ _ _ _
theorem modFrame_frameSt_eq (s : State) (k : Nat) (f : Frame → Frame) (j : Nat) : (s.modFrame k f).frameSt j = if j = k then f (s.frameSt k) else s.frameSt j := by
  unfold modFrame frameSt; exact Tab.get_set _ _ _ _ _
@[simp] theorem modFrame_frameSt_same (s : State) (k : Nat) (f : Frame → Frame) : (s.modFrame k f).frameSt k = f (s.frameSt k) := by
  unfold modFrame frameSt; exact Tab.get_set_same _ _ _ _
theorem modCore_coreSt_eq (s : State) (k : Nat) (f : CoreSt → CoreSt) (j : Nat) : (s.modCore k f).coreSt j = if j = k then f (s.coreSt k) else s.coreSt j := by
  unfold modCore coreSt; exact Tab.get_set _ _ _ _ _
@[simp] theorem modCore_coreSt_same (s : State) (k : Nat) (f : CoreSt → CoreSt) : (s.modCore k f).coreSt k = f (s.coreSt k) := by
  unfold modCore coreSt; exact Tab.get_set_same _ _ _ _
theorem modDie_dieSt_eq (s : State) (k : Nat) (f : DieSt → DieSt) (j : Nat) : (s.modDie k f).dieSt j = if j = k then f (s.dieSt k) else s.dieSt j := by
  unfold modDie dieSt; exact Tab.get_set _ _ _ _ _
@[simp] theorem modDie_dieSt_same (s : State) (k : Nat) (f : DieSt → DieSt) : (s.modDie k f).dieSt k = f (s.dieSt k) := by
  unfold modDie dieSt; exact Tab.get_set_same _ _ _ _
theorem modOctet_octetSt_eq (s : State) (k : Nat) (f : OctetSt → OctetSt) (j : Nat) : (s.modOctet k f).octetSt j = if j = k then f (s.octetSt k) else s.octetSt j := by
  unfold modOctet octetSt; exact Tab.get_set _ _ _ _ _
@[simp] theorem modOctet_octetSt_same (s : State) (k : Nat) (f : OctetSt → OctetSt) : (s.modOctet k f).octetSt k = f (s.octetSt k) := by
  unfold modOctet octetSt; exact Tab.get_set_same _ _ _ _
theorem modCluster_clusterSt_eq (s : State) (k : Nat) (f : ClusterSt → ClusterSt) (j : Nat) : (s.modCluster k f).clusterSt j = if j = k then f (s.clusterSt k) else s.clusterSt j := by
  unfold modCluster clusterSt; exact Tab.get_set _ _ _ _ _
@[simp] theorem modCluster_clusterSt_same (s : State) (k : Nat) (f : ClusterSt → ClusterSt) : (s.modCluster k f).clusterSt k = f (s.clusterSt k) := by
  unfold modCluster clusterSt; exact Tab.get_set_same _ _ _ _
theorem modRealm_realm_eq (s : State) (k : Nat) (f : RealmSt → RealmSt) (j : Nat) : (s.modRealm k f).realm j = if j = k then f (s.realm k) else s.realm j := by
  unfold modRealm realm; exact Tab.get_set _ _ _ _ _
@[simp] theorem modRealm_realm_same (s : State) (k : Nat) (f : RealmSt → RealmSt) : (s.modRealm k f).realm k = f (s.realm k) := by
  unfold modRealm realm; exact Tab.get_set_same _ _ _ _
theorem modPort_port_eq (s : State) (k : Nat) (f : PortSt → PortSt) (j : Nat) : (s.modPort k f).port j = if j = k then f (s.port k) else s.port j := by
  unfold modPort port; exact Tab.get_set _ _ _ _ _
@[simp] theorem modPort_port_same (s : State) (k : Nat) (f : PortSt → PortSt) : (s.modPort k f).port k = f (s.port k) := by
  unfold modPort port; exact Tab.get_set_same _ _ _ _
@[simp] theorem wx_slotSt (s : State) (r : BitVec 5) (v : Word) (i : Nat) : (s.wx r v).slotSt i = s.slotSt i := by unfold State.wx; split <;> rfl
@[simp] theorem wx_frameSt (s : State) (r : BitVec 5) (v : Word) (i : Nat) : (s.wx r v).frameSt i = s.frameSt i := by unfold State.wx; split <;> rfl
@[simp] theorem wx_coreSt (s : State) (r : BitVec 5) (v : Word) (i : Nat) : (s.wx r v).coreSt i = s.coreSt i := by unfold State.wx; split <;> rfl
@[simp] theorem wx_dieSt (s : State) (r : BitVec 5) (v : Word) (i : Nat) : (s.wx r v).dieSt i = s.dieSt i := by unfold State.wx; split <;> rfl
@[simp] theorem wx_octetSt (s : State) (r : BitVec 5) (v : Word) (i : Nat) : (s.wx r v).octetSt i = s.octetSt i := by unfold State.wx; split <;> rfl
@[simp] theorem wx_clusterSt (s : State) (r : BitVec 5) (v : Word) (i : Nat) : (s.wx r v).clusterSt i = s.clusterSt i := by unfold State.wx; split <;> rfl
@[simp] theorem wx_realm (s : State) (r : BitVec 5) (v : Word) (i : Nat) : (s.wx r v).realm i = s.realm i := by unfold State.wx; split <;> rfl
@[simp] theorem wx_port (s : State) (r : BitVec 5) (v : Word) (i : Nat) : (s.wx r v).port i = s.port i := by unfold State.wx; split <;> rfl
@[simp] theorem wrf_slotSt (s : State) (r : BitVec 5) (v : Word32) (i : Nat) : (s.wrf r v).slotSt i = s.slotSt i := by rfl
@[simp] theorem wrf_frameSt (s : State) (r : BitVec 5) (v : Word32) (i : Nat) : (s.wrf r v).frameSt i = s.frameSt i := by rfl
@[simp] theorem wrf_coreSt (s : State) (r : BitVec 5) (v : Word32) (i : Nat) : (s.wrf r v).coreSt i = s.coreSt i := by rfl
@[simp] theorem wrf_dieSt (s : State) (r : BitVec 5) (v : Word32) (i : Nat) : (s.wrf r v).dieSt i = s.dieSt i := by rfl
@[simp] theorem wrf_octetSt (s : State) (r : BitVec 5) (v : Word32) (i : Nat) : (s.wrf r v).octetSt i = s.octetSt i := by rfl
@[simp] theorem wrf_clusterSt (s : State) (r : BitVec 5) (v : Word32) (i : Nat) : (s.wrf r v).clusterSt i = s.clusterSt i := by rfl
@[simp] theorem wrf_realm (s : State) (r : BitVec 5) (v : Word32) (i : Nat) : (s.wrf r v).realm i = s.realm i := by rfl
@[simp] theorem wrf_port (s : State) (r : BitVec 5) (v : Word32) (i : Nat) : (s.wrf r v).port i = s.port i := by rfl
@[simp] theorem wp_slotSt (s : State) (r : Nat) (v : Word) (i : Nat) : (s.wp r v).slotSt i = s.slotSt i := by unfold State.wp; split <;> rfl
@[simp] theorem wp_frameSt (s : State) (r : Nat) (v : Word) (i : Nat) : (s.wp r v).frameSt i = s.frameSt i := by unfold State.wp; split <;> rfl
@[simp] theorem wp_coreSt (s : State) (r : Nat) (v : Word) (i : Nat) : (s.wp r v).coreSt i = s.coreSt i := by unfold State.wp; split <;> rfl
@[simp] theorem wp_dieSt (s : State) (r : Nat) (v : Word) (i : Nat) : (s.wp r v).dieSt i = s.dieSt i := by unfold State.wp; split <;> rfl
@[simp] theorem wp_octetSt (s : State) (r : Nat) (v : Word) (i : Nat) : (s.wp r v).octetSt i = s.octetSt i := by unfold State.wp; split <;> rfl
@[simp] theorem wp_clusterSt (s : State) (r : Nat) (v : Word) (i : Nat) : (s.wp r v).clusterSt i = s.clusterSt i := by unfold State.wp; split <;> rfl
@[simp] theorem wp_realm (s : State) (r : Nat) (v : Word) (i : Nat) : (s.wp r v).realm i = s.realm i := by unfold State.wp; split <;> rfl
@[simp] theorem wp_port (s : State) (r : Nat) (v : Word) (i : Nat) : (s.wp r v).port i = s.port i := by unfold State.wp; split <;> rfl
@[simp] theorem wvAt_slotSt (s : State) (k r j : Nat) (v : Word32) (i : Nat) : (s.wvAt k r j v).slotSt i = s.slotSt i := by rfl
@[simp] theorem wvAt_frameSt (s : State) (k r j : Nat) (v : Word32) (i : Nat) : (s.wvAt k r j v).frameSt i = s.frameSt i := by rfl
@[simp] theorem wvAt_coreSt (s : State) (k r j : Nat) (v : Word32) (i : Nat) : (s.wvAt k r j v).coreSt i = s.coreSt i := by rfl
@[simp] theorem wvAt_dieSt (s : State) (k r j : Nat) (v : Word32) (i : Nat) : (s.wvAt k r j v).dieSt i = s.dieSt i := by rfl
@[simp] theorem wvAt_octetSt (s : State) (k r j : Nat) (v : Word32) (i : Nat) : (s.wvAt k r j v).octetSt i = s.octetSt i := by rfl
@[simp] theorem wvAt_clusterSt (s : State) (k r j : Nat) (v : Word32) (i : Nat) : (s.wvAt k r j v).clusterSt i = s.clusterSt i := by rfl
@[simp] theorem wvAt_realm (s : State) (k r j : Nat) (v : Word32) (i : Nat) : (s.wvAt k r j v).realm i = s.realm i := by rfl
@[simp] theorem wvAt_port (s : State) (k r j : Nat) (v : Word32) (i : Nat) : (s.wvAt k r j v).port i = s.port i := by rfl
@[simp] theorem modSlot_frameSt (s : State) (k : Nat) (f : Slot → Slot) (i : Nat) : (s.modSlot k f).frameSt i = s.frameSt i := by rfl
@[simp] theorem modSlot_coreSt (s : State) (k : Nat) (f : Slot → Slot) (i : Nat) : (s.modSlot k f).coreSt i = s.coreSt i := by rfl
@[simp] theorem modSlot_dieSt (s : State) (k : Nat) (f : Slot → Slot) (i : Nat) : (s.modSlot k f).dieSt i = s.dieSt i := by rfl
@[simp] theorem modSlot_octetSt (s : State) (k : Nat) (f : Slot → Slot) (i : Nat) : (s.modSlot k f).octetSt i = s.octetSt i := by rfl
@[simp] theorem modSlot_clusterSt (s : State) (k : Nat) (f : Slot → Slot) (i : Nat) : (s.modSlot k f).clusterSt i = s.clusterSt i := by rfl
@[simp] theorem modSlot_realm (s : State) (k : Nat) (f : Slot → Slot) (i : Nat) : (s.modSlot k f).realm i = s.realm i := by rfl
@[simp] theorem modSlot_port (s : State) (k : Nat) (f : Slot → Slot) (i : Nat) : (s.modSlot k f).port i = s.port i := by rfl
@[simp] theorem modFrame_slotSt (s : State) (k : Nat) (f : Frame → Frame) (i : Nat) : (s.modFrame k f).slotSt i = s.slotSt i := by rfl
@[simp] theorem modFrame_coreSt (s : State) (k : Nat) (f : Frame → Frame) (i : Nat) : (s.modFrame k f).coreSt i = s.coreSt i := by rfl
@[simp] theorem modFrame_dieSt (s : State) (k : Nat) (f : Frame → Frame) (i : Nat) : (s.modFrame k f).dieSt i = s.dieSt i := by rfl
@[simp] theorem modFrame_octetSt (s : State) (k : Nat) (f : Frame → Frame) (i : Nat) : (s.modFrame k f).octetSt i = s.octetSt i := by rfl
@[simp] theorem modFrame_clusterSt (s : State) (k : Nat) (f : Frame → Frame) (i : Nat) : (s.modFrame k f).clusterSt i = s.clusterSt i := by rfl
@[simp] theorem modFrame_realm (s : State) (k : Nat) (f : Frame → Frame) (i : Nat) : (s.modFrame k f).realm i = s.realm i := by rfl
@[simp] theorem modFrame_port (s : State) (k : Nat) (f : Frame → Frame) (i : Nat) : (s.modFrame k f).port i = s.port i := by rfl
@[simp] theorem modCore_slotSt (s : State) (k : Nat) (f : CoreSt → CoreSt) (i : Nat) : (s.modCore k f).slotSt i = s.slotSt i := by rfl
@[simp] theorem modCore_frameSt (s : State) (k : Nat) (f : CoreSt → CoreSt) (i : Nat) : (s.modCore k f).frameSt i = s.frameSt i := by rfl
@[simp] theorem modCore_dieSt (s : State) (k : Nat) (f : CoreSt → CoreSt) (i : Nat) : (s.modCore k f).dieSt i = s.dieSt i := by rfl
@[simp] theorem modCore_octetSt (s : State) (k : Nat) (f : CoreSt → CoreSt) (i : Nat) : (s.modCore k f).octetSt i = s.octetSt i := by rfl
@[simp] theorem modCore_clusterSt (s : State) (k : Nat) (f : CoreSt → CoreSt) (i : Nat) : (s.modCore k f).clusterSt i = s.clusterSt i := by rfl
@[simp] theorem modCore_realm (s : State) (k : Nat) (f : CoreSt → CoreSt) (i : Nat) : (s.modCore k f).realm i = s.realm i := by rfl
@[simp] theorem modCore_port (s : State) (k : Nat) (f : CoreSt → CoreSt) (i : Nat) : (s.modCore k f).port i = s.port i := by rfl
@[simp] theorem modDie_slotSt (s : State) (k : Nat) (f : DieSt → DieSt) (i : Nat) : (s.modDie k f).slotSt i = s.slotSt i := by rfl
@[simp] theorem modDie_frameSt (s : State) (k : Nat) (f : DieSt → DieSt) (i : Nat) : (s.modDie k f).frameSt i = s.frameSt i := by rfl
@[simp] theorem modDie_coreSt (s : State) (k : Nat) (f : DieSt → DieSt) (i : Nat) : (s.modDie k f).coreSt i = s.coreSt i := by rfl
@[simp] theorem modDie_octetSt (s : State) (k : Nat) (f : DieSt → DieSt) (i : Nat) : (s.modDie k f).octetSt i = s.octetSt i := by rfl
@[simp] theorem modDie_clusterSt (s : State) (k : Nat) (f : DieSt → DieSt) (i : Nat) : (s.modDie k f).clusterSt i = s.clusterSt i := by rfl
@[simp] theorem modDie_realm (s : State) (k : Nat) (f : DieSt → DieSt) (i : Nat) : (s.modDie k f).realm i = s.realm i := by rfl
@[simp] theorem modDie_port (s : State) (k : Nat) (f : DieSt → DieSt) (i : Nat) : (s.modDie k f).port i = s.port i := by rfl
@[simp] theorem modOctet_slotSt (s : State) (k : Nat) (f : OctetSt → OctetSt) (i : Nat) : (s.modOctet k f).slotSt i = s.slotSt i := by rfl
@[simp] theorem modOctet_frameSt (s : State) (k : Nat) (f : OctetSt → OctetSt) (i : Nat) : (s.modOctet k f).frameSt i = s.frameSt i := by rfl
@[simp] theorem modOctet_coreSt (s : State) (k : Nat) (f : OctetSt → OctetSt) (i : Nat) : (s.modOctet k f).coreSt i = s.coreSt i := by rfl
@[simp] theorem modOctet_dieSt (s : State) (k : Nat) (f : OctetSt → OctetSt) (i : Nat) : (s.modOctet k f).dieSt i = s.dieSt i := by rfl
@[simp] theorem modOctet_clusterSt (s : State) (k : Nat) (f : OctetSt → OctetSt) (i : Nat) : (s.modOctet k f).clusterSt i = s.clusterSt i := by rfl
@[simp] theorem modOctet_realm (s : State) (k : Nat) (f : OctetSt → OctetSt) (i : Nat) : (s.modOctet k f).realm i = s.realm i := by rfl
@[simp] theorem modOctet_port (s : State) (k : Nat) (f : OctetSt → OctetSt) (i : Nat) : (s.modOctet k f).port i = s.port i := by rfl
@[simp] theorem modCluster_slotSt (s : State) (k : Nat) (f : ClusterSt → ClusterSt) (i : Nat) : (s.modCluster k f).slotSt i = s.slotSt i := by rfl
@[simp] theorem modCluster_frameSt (s : State) (k : Nat) (f : ClusterSt → ClusterSt) (i : Nat) : (s.modCluster k f).frameSt i = s.frameSt i := by rfl
@[simp] theorem modCluster_coreSt (s : State) (k : Nat) (f : ClusterSt → ClusterSt) (i : Nat) : (s.modCluster k f).coreSt i = s.coreSt i := by rfl
@[simp] theorem modCluster_dieSt (s : State) (k : Nat) (f : ClusterSt → ClusterSt) (i : Nat) : (s.modCluster k f).dieSt i = s.dieSt i := by rfl
@[simp] theorem modCluster_octetSt (s : State) (k : Nat) (f : ClusterSt → ClusterSt) (i : Nat) : (s.modCluster k f).octetSt i = s.octetSt i := by rfl
@[simp] theorem modCluster_realm (s : State) (k : Nat) (f : ClusterSt → ClusterSt) (i : Nat) : (s.modCluster k f).realm i = s.realm i := by rfl
@[simp] theorem modCluster_port (s : State) (k : Nat) (f : ClusterSt → ClusterSt) (i : Nat) : (s.modCluster k f).port i = s.port i := by rfl
@[simp] theorem modRealm_slotSt (s : State) (k : Nat) (f : RealmSt → RealmSt) (i : Nat) : (s.modRealm k f).slotSt i = s.slotSt i := by rfl
@[simp] theorem modRealm_frameSt (s : State) (k : Nat) (f : RealmSt → RealmSt) (i : Nat) : (s.modRealm k f).frameSt i = s.frameSt i := by rfl
@[simp] theorem modRealm_coreSt (s : State) (k : Nat) (f : RealmSt → RealmSt) (i : Nat) : (s.modRealm k f).coreSt i = s.coreSt i := by rfl
@[simp] theorem modRealm_dieSt (s : State) (k : Nat) (f : RealmSt → RealmSt) (i : Nat) : (s.modRealm k f).dieSt i = s.dieSt i := by rfl
@[simp] theorem modRealm_octetSt (s : State) (k : Nat) (f : RealmSt → RealmSt) (i : Nat) : (s.modRealm k f).octetSt i = s.octetSt i := by rfl
@[simp] theorem modRealm_clusterSt (s : State) (k : Nat) (f : RealmSt → RealmSt) (i : Nat) : (s.modRealm k f).clusterSt i = s.clusterSt i := by rfl
@[simp] theorem modRealm_port (s : State) (k : Nat) (f : RealmSt → RealmSt) (i : Nat) : (s.modRealm k f).port i = s.port i := by rfl
@[simp] theorem modPort_slotSt (s : State) (k : Nat) (f : PortSt → PortSt) (i : Nat) : (s.modPort k f).slotSt i = s.slotSt i := by rfl
@[simp] theorem modPort_frameSt (s : State) (k : Nat) (f : PortSt → PortSt) (i : Nat) : (s.modPort k f).frameSt i = s.frameSt i := by rfl
@[simp] theorem modPort_coreSt (s : State) (k : Nat) (f : PortSt → PortSt) (i : Nat) : (s.modPort k f).coreSt i = s.coreSt i := by rfl
@[simp] theorem modPort_dieSt (s : State) (k : Nat) (f : PortSt → PortSt) (i : Nat) : (s.modPort k f).dieSt i = s.dieSt i := by rfl
@[simp] theorem modPort_octetSt (s : State) (k : Nat) (f : PortSt → PortSt) (i : Nat) : (s.modPort k f).octetSt i = s.octetSt i := by rfl
@[simp] theorem modPort_clusterSt (s : State) (k : Nat) (f : PortSt → PortSt) (i : Nat) : (s.modPort k f).clusterSt i = s.clusterSt i := by rfl
@[simp] theorem modPort_realm (s : State) (k : Nat) (f : PortSt → PortSt) (i : Nat) : (s.modPort k f).realm i = s.realm i := by rfl
@[simp] theorem wrByte_slotSt (s : State) (a : Nat) (b : Byte) (i : Nat) : (s.wrByte a b).slotSt i = s.slotSt i := by rfl
@[simp] theorem wrByte_frameSt (s : State) (a : Nat) (b : Byte) (i : Nat) : (s.wrByte a b).frameSt i = s.frameSt i := by rfl
@[simp] theorem wrByte_coreSt (s : State) (a : Nat) (b : Byte) (i : Nat) : (s.wrByte a b).coreSt i = s.coreSt i := by rfl
@[simp] theorem wrByte_dieSt (s : State) (a : Nat) (b : Byte) (i : Nat) : (s.wrByte a b).dieSt i = s.dieSt i := by rfl
@[simp] theorem wrByte_octetSt (s : State) (a : Nat) (b : Byte) (i : Nat) : (s.wrByte a b).octetSt i = s.octetSt i := by rfl
@[simp] theorem wrByte_clusterSt (s : State) (a : Nat) (b : Byte) (i : Nat) : (s.wrByte a b).clusterSt i = s.clusterSt i := by rfl
@[simp] theorem wrByte_realm (s : State) (a : Nat) (b : Byte) (i : Nat) : (s.wrByte a b).realm i = s.realm i := by rfl
@[simp] theorem wrByte_port (s : State) (a : Nat) (b : Byte) (i : Nat) : (s.wrByte a b).port i = s.port i := by rfl
@[simp] theorem retire_frameSt (s : State) (n : Nat) (i : Nat) : (s.retire n).frameSt i = s.frameSt i := by rfl
@[simp] theorem retire_dieSt (s : State) (n : Nat) (i : Nat) : (s.retire n).dieSt i = s.dieSt i := by rfl
@[simp] theorem retire_octetSt (s : State) (n : Nat) (i : Nat) : (s.retire n).octetSt i = s.octetSt i := by rfl
@[simp] theorem retire_clusterSt (s : State) (n : Nat) (i : Nat) : (s.retire n).clusterSt i = s.clusterSt i := by rfl
@[simp] theorem retire_realm (s : State) (n : Nat) (i : Nat) : (s.retire n).realm i = s.realm i := by rfl
@[simp] theorem retire_port (s : State) (n : Nat) (i : Nat) : (s.retire n).port i = s.port i := by rfl
@[simp] theorem retireTo_frameSt (s : State) (t : Word) (i : Nat) : (s.retireTo t).frameSt i = s.frameSt i := by rfl
@[simp] theorem retireTo_dieSt (s : State) (t : Word) (i : Nat) : (s.retireTo t).dieSt i = s.dieSt i := by rfl
@[simp] theorem retireTo_octetSt (s : State) (t : Word) (i : Nat) : (s.retireTo t).octetSt i = s.octetSt i := by rfl
@[simp] theorem retireTo_clusterSt (s : State) (t : Word) (i : Nat) : (s.retireTo t).clusterSt i = s.clusterSt i := by rfl
@[simp] theorem retireTo_realm (s : State) (t : Word) (i : Nat) : (s.retireTo t).realm i = s.realm i := by rfl
@[simp] theorem retireTo_port (s : State) (t : Word) (i : Nat) : (s.retireTo t).port i = s.port i := by rfl
@[simp] theorem retireSafe_frameSt (s : State) (n : Nat) (i : Nat) : (s.retireSafe n).frameSt i = s.frameSt i := by rfl
@[simp] theorem retireSafe_octetSt (s : State) (n : Nat) (i : Nat) : (s.retireSafe n).octetSt i = s.octetSt i := by rfl
@[simp] theorem retireSafe_clusterSt (s : State) (n : Nat) (i : Nat) : (s.retireSafe n).clusterSt i = s.clusterSt i := by rfl
@[simp] theorem retireSafe_realm (s : State) (n : Nat) (i : Nat) : (s.retireSafe n).realm i = s.realm i := by rfl
@[simp] theorem retireSafe_port (s : State) (n : Nat) (i : Nat) : (s.retireSafe n).port i = s.port i := by rfl
@[simp] theorem orFlags_frameSt (s : State) (fl : Flags) (lat i : Nat) : (s.orFlags fl lat).frameSt i = s.frameSt i := by rfl
@[simp] theorem orFlags_coreSt (s : State) (fl : Flags) (lat i : Nat) : (s.orFlags fl lat).coreSt i = s.coreSt i := by rfl
@[simp] theorem orFlags_dieSt (s : State) (fl : Flags) (lat i : Nat) : (s.orFlags fl lat).dieSt i = s.dieSt i := by rfl
@[simp] theorem orFlags_octetSt (s : State) (fl : Flags) (lat i : Nat) : (s.orFlags fl lat).octetSt i = s.octetSt i := by rfl
@[simp] theorem orFlags_clusterSt (s : State) (fl : Flags) (lat i : Nat) : (s.orFlags fl lat).clusterSt i = s.clusterSt i := by rfl
@[simp] theorem orFlags_realm (s : State) (fl : Flags) (lat i : Nat) : (s.orFlags fl lat).realm i = s.realm i := by rfl
@[simp] theorem orFlags_port (s : State) (fl : Flags) (lat i : Nat) : (s.orFlags fl lat).port i = s.port i := by rfl
@[simp] theorem waitFor_frameSt (s : State) (w : Wait) (i : Nat) : (s.waitFor w).frameSt i = s.frameSt i := by rfl
@[simp] theorem waitFor_coreSt (s : State) (w : Wait) (i : Nat) : (s.waitFor w).coreSt i = s.coreSt i := by rfl
@[simp] theorem waitFor_dieSt (s : State) (w : Wait) (i : Nat) : (s.waitFor w).dieSt i = s.dieSt i := by rfl
@[simp] theorem waitFor_octetSt (s : State) (w : Wait) (i : Nat) : (s.waitFor w).octetSt i = s.octetSt i := by rfl
@[simp] theorem waitFor_clusterSt (s : State) (w : Wait) (i : Nat) : (s.waitFor w).clusterSt i = s.clusterSt i := by rfl
@[simp] theorem waitFor_realm (s : State) (w : Wait) (i : Nat) : (s.waitFor w).realm i = s.realm i := by rfl
@[simp] theorem waitFor_port (s : State) (w : Wait) (i : Nat) : (s.waitFor w).port i = s.port i := by rfl
@[simp] theorem progress_slotSt (s : State) (k : Nat) (i : Nat) : (s.progress k).slotSt i = s.slotSt i := by rfl
@[simp] theorem progress_frameSt (s : State) (k : Nat) (i : Nat) : (s.progress k).frameSt i = s.frameSt i := by rfl
@[simp] theorem progress_coreSt (s : State) (k : Nat) (i : Nat) : (s.progress k).coreSt i = s.coreSt i := by rfl
@[simp] theorem progress_octetSt (s : State) (k : Nat) (i : Nat) : (s.progress k).octetSt i = s.octetSt i := by rfl
@[simp] theorem progress_clusterSt (s : State) (k : Nat) (i : Nat) : (s.progress k).clusterSt i = s.clusterSt i := by rfl
@[simp] theorem progress_realm (s : State) (k : Nat) (i : Nat) : (s.progress k).realm i = s.realm i := by rfl
@[simp] theorem progress_port (s : State) (k : Nat) (i : Nat) : (s.progress k).port i = s.port i := by rfl

/-! ### The names of the issuing slot's keys depend on the turn and on the frame alone -/

theorem ck_of_cur {s t : State} (h : t.cur = s.cur) : t.ck = s.ck := by simp only [ck, h]
theorem sk_of_cur {s t : State} (h : t.cur = s.cur) : t.sk = s.sk := by simp only [sk, h]
theorem dk_of_cur {s t : State} (h : t.cur = s.cur) : t.dk = s.dk := by simp only [dk, h]
theorem clk_of_cur {s t : State} (h : t.cur = s.cur) : t.clk = s.clk := by simp only [clk, h]
theorem octk_of_cur {s t : State} (h : t.cur = s.cur) : t.octk = s.octk := by simp only [octk, h]


@[simp] theorem wx_ck (s : State) (r : BitVec 5) (v : Word) : (s.wx r v).ck = s.ck := ck_of_cur (by simp)
@[simp] theorem wx_sk (s : State) (r : BitVec 5) (v : Word) : (s.wx r v).sk = s.sk := sk_of_cur (by simp)
@[simp] theorem wx_dk (s : State) (r : BitVec 5) (v : Word) : (s.wx r v).dk = s.dk := dk_of_cur (by simp)
@[simp] theorem wx_clk (s : State) (r : BitVec 5) (v : Word) : (s.wx r v).clk = s.clk := clk_of_cur (by simp)
@[simp] theorem wx_octk (s : State) (r : BitVec 5) (v : Word) : (s.wx r v).octk = s.octk := octk_of_cur (by simp)
@[simp] theorem wrf_ck (s : State) (r : BitVec 5) (v : Word32) : (s.wrf r v).ck = s.ck := ck_of_cur (by simp)
@[simp] theorem wrf_sk (s : State) (r : BitVec 5) (v : Word32) : (s.wrf r v).sk = s.sk := sk_of_cur (by simp)
@[simp] theorem wrf_dk (s : State) (r : BitVec 5) (v : Word32) : (s.wrf r v).dk = s.dk := dk_of_cur (by simp)
@[simp] theorem wrf_clk (s : State) (r : BitVec 5) (v : Word32) : (s.wrf r v).clk = s.clk := clk_of_cur (by simp)
@[simp] theorem wrf_octk (s : State) (r : BitVec 5) (v : Word32) : (s.wrf r v).octk = s.octk := octk_of_cur (by simp)
@[simp] theorem wp_ck (s : State) (r : Nat) (v : Word) : (s.wp r v).ck = s.ck := ck_of_cur (by simp)
@[simp] theorem wp_sk (s : State) (r : Nat) (v : Word) : (s.wp r v).sk = s.sk := sk_of_cur (by simp)
@[simp] theorem wp_dk (s : State) (r : Nat) (v : Word) : (s.wp r v).dk = s.dk := dk_of_cur (by simp)
@[simp] theorem wp_clk (s : State) (r : Nat) (v : Word) : (s.wp r v).clk = s.clk := clk_of_cur (by simp)
@[simp] theorem wp_octk (s : State) (r : Nat) (v : Word) : (s.wp r v).octk = s.octk := octk_of_cur (by simp)
@[simp] theorem wvAt_ck (s : State) (k r j : Nat) (v : Word32) : (s.wvAt k r j v).ck = s.ck := ck_of_cur (by simp)
@[simp] theorem wvAt_sk (s : State) (k r j : Nat) (v : Word32) : (s.wvAt k r j v).sk = s.sk := sk_of_cur (by simp)
@[simp] theorem wvAt_dk (s : State) (k r j : Nat) (v : Word32) : (s.wvAt k r j v).dk = s.dk := dk_of_cur (by simp)
@[simp] theorem wvAt_clk (s : State) (k r j : Nat) (v : Word32) : (s.wvAt k r j v).clk = s.clk := clk_of_cur (by simp)
@[simp] theorem wvAt_octk (s : State) (k r j : Nat) (v : Word32) : (s.wvAt k r j v).octk = s.octk := octk_of_cur (by simp)
@[simp] theorem modSlot_ck (s : State) (k : Nat) (f : Slot → Slot) : (s.modSlot k f).ck = s.ck := ck_of_cur (by simp)
@[simp] theorem modSlot_sk (s : State) (k : Nat) (f : Slot → Slot) : (s.modSlot k f).sk = s.sk := sk_of_cur (by simp)
@[simp] theorem modSlot_dk (s : State) (k : Nat) (f : Slot → Slot) : (s.modSlot k f).dk = s.dk := dk_of_cur (by simp)
@[simp] theorem modSlot_clk (s : State) (k : Nat) (f : Slot → Slot) : (s.modSlot k f).clk = s.clk := clk_of_cur (by simp)
@[simp] theorem modSlot_octk (s : State) (k : Nat) (f : Slot → Slot) : (s.modSlot k f).octk = s.octk := octk_of_cur (by simp)
@[simp] theorem modFrame_ck (s : State) (k : Nat) (f : Frame → Frame) : (s.modFrame k f).ck = s.ck := ck_of_cur (by simp)
@[simp] theorem modFrame_sk (s : State) (k : Nat) (f : Frame → Frame) : (s.modFrame k f).sk = s.sk := sk_of_cur (by simp)
@[simp] theorem modFrame_dk (s : State) (k : Nat) (f : Frame → Frame) : (s.modFrame k f).dk = s.dk := dk_of_cur (by simp)
@[simp] theorem modFrame_clk (s : State) (k : Nat) (f : Frame → Frame) : (s.modFrame k f).clk = s.clk := clk_of_cur (by simp)
@[simp] theorem modFrame_octk (s : State) (k : Nat) (f : Frame → Frame) : (s.modFrame k f).octk = s.octk := octk_of_cur (by simp)
@[simp] theorem modCore_ck (s : State) (k : Nat) (f : CoreSt → CoreSt) : (s.modCore k f).ck = s.ck := ck_of_cur (by simp)
@[simp] theorem modCore_sk (s : State) (k : Nat) (f : CoreSt → CoreSt) : (s.modCore k f).sk = s.sk := sk_of_cur (by simp)
@[simp] theorem modCore_dk (s : State) (k : Nat) (f : CoreSt → CoreSt) : (s.modCore k f).dk = s.dk := dk_of_cur (by simp)
@[simp] theorem modCore_clk (s : State) (k : Nat) (f : CoreSt → CoreSt) : (s.modCore k f).clk = s.clk := clk_of_cur (by simp)
@[simp] theorem modCore_octk (s : State) (k : Nat) (f : CoreSt → CoreSt) : (s.modCore k f).octk = s.octk := octk_of_cur (by simp)
@[simp] theorem modDie_ck (s : State) (k : Nat) (f : DieSt → DieSt) : (s.modDie k f).ck = s.ck := ck_of_cur (by simp)
@[simp] theorem modDie_sk (s : State) (k : Nat) (f : DieSt → DieSt) : (s.modDie k f).sk = s.sk := sk_of_cur (by simp)
@[simp] theorem modDie_dk (s : State) (k : Nat) (f : DieSt → DieSt) : (s.modDie k f).dk = s.dk := dk_of_cur (by simp)
@[simp] theorem modDie_clk (s : State) (k : Nat) (f : DieSt → DieSt) : (s.modDie k f).clk = s.clk := clk_of_cur (by simp)
@[simp] theorem modDie_octk (s : State) (k : Nat) (f : DieSt → DieSt) : (s.modDie k f).octk = s.octk := octk_of_cur (by simp)
@[simp] theorem modOctet_ck (s : State) (k : Nat) (f : OctetSt → OctetSt) : (s.modOctet k f).ck = s.ck := ck_of_cur (by simp)
@[simp] theorem modOctet_sk (s : State) (k : Nat) (f : OctetSt → OctetSt) : (s.modOctet k f).sk = s.sk := sk_of_cur (by simp)
@[simp] theorem modOctet_dk (s : State) (k : Nat) (f : OctetSt → OctetSt) : (s.modOctet k f).dk = s.dk := dk_of_cur (by simp)
@[simp] theorem modOctet_clk (s : State) (k : Nat) (f : OctetSt → OctetSt) : (s.modOctet k f).clk = s.clk := clk_of_cur (by simp)
@[simp] theorem modOctet_octk (s : State) (k : Nat) (f : OctetSt → OctetSt) : (s.modOctet k f).octk = s.octk := octk_of_cur (by simp)
@[simp] theorem modCluster_ck (s : State) (k : Nat) (f : ClusterSt → ClusterSt) : (s.modCluster k f).ck = s.ck := ck_of_cur (by simp)
@[simp] theorem modCluster_sk (s : State) (k : Nat) (f : ClusterSt → ClusterSt) : (s.modCluster k f).sk = s.sk := sk_of_cur (by simp)
@[simp] theorem modCluster_dk (s : State) (k : Nat) (f : ClusterSt → ClusterSt) : (s.modCluster k f).dk = s.dk := dk_of_cur (by simp)
@[simp] theorem modCluster_clk (s : State) (k : Nat) (f : ClusterSt → ClusterSt) : (s.modCluster k f).clk = s.clk := clk_of_cur (by simp)
@[simp] theorem modCluster_octk (s : State) (k : Nat) (f : ClusterSt → ClusterSt) : (s.modCluster k f).octk = s.octk := octk_of_cur (by simp)
@[simp] theorem modRealm_ck (s : State) (k : Nat) (f : RealmSt → RealmSt) : (s.modRealm k f).ck = s.ck := ck_of_cur (by simp)
@[simp] theorem modRealm_sk (s : State) (k : Nat) (f : RealmSt → RealmSt) : (s.modRealm k f).sk = s.sk := sk_of_cur (by simp)
@[simp] theorem modRealm_dk (s : State) (k : Nat) (f : RealmSt → RealmSt) : (s.modRealm k f).dk = s.dk := dk_of_cur (by simp)
@[simp] theorem modRealm_clk (s : State) (k : Nat) (f : RealmSt → RealmSt) : (s.modRealm k f).clk = s.clk := clk_of_cur (by simp)
@[simp] theorem modRealm_octk (s : State) (k : Nat) (f : RealmSt → RealmSt) : (s.modRealm k f).octk = s.octk := octk_of_cur (by simp)
@[simp] theorem modPort_ck (s : State) (k : Nat) (f : PortSt → PortSt) : (s.modPort k f).ck = s.ck := ck_of_cur (by simp)
@[simp] theorem modPort_sk (s : State) (k : Nat) (f : PortSt → PortSt) : (s.modPort k f).sk = s.sk := sk_of_cur (by simp)
@[simp] theorem modPort_dk (s : State) (k : Nat) (f : PortSt → PortSt) : (s.modPort k f).dk = s.dk := dk_of_cur (by simp)
@[simp] theorem modPort_clk (s : State) (k : Nat) (f : PortSt → PortSt) : (s.modPort k f).clk = s.clk := clk_of_cur (by simp)
@[simp] theorem modPort_octk (s : State) (k : Nat) (f : PortSt → PortSt) : (s.modPort k f).octk = s.octk := octk_of_cur (by simp)
@[simp] theorem wrByte_ck (s : State) (a : Nat) (b : Byte) : (s.wrByte a b).ck = s.ck := ck_of_cur (by simp)
@[simp] theorem wrByte_sk (s : State) (a : Nat) (b : Byte) : (s.wrByte a b).sk = s.sk := sk_of_cur (by simp)
@[simp] theorem wrByte_dk (s : State) (a : Nat) (b : Byte) : (s.wrByte a b).dk = s.dk := dk_of_cur (by simp)
@[simp] theorem wrByte_clk (s : State) (a : Nat) (b : Byte) : (s.wrByte a b).clk = s.clk := clk_of_cur (by simp)
@[simp] theorem wrByte_octk (s : State) (a : Nat) (b : Byte) : (s.wrByte a b).octk = s.octk := octk_of_cur (by simp)
@[simp] theorem retire_ck (s : State) (n : Nat) : (s.retire n).ck = s.ck := ck_of_cur (by simp)
@[simp] theorem retire_sk (s : State) (n : Nat) : (s.retire n).sk = s.sk := sk_of_cur (by simp)
@[simp] theorem retire_dk (s : State) (n : Nat) : (s.retire n).dk = s.dk := dk_of_cur (by simp)
@[simp] theorem retire_clk (s : State) (n : Nat) : (s.retire n).clk = s.clk := clk_of_cur (by simp)
@[simp] theorem retire_octk (s : State) (n : Nat) : (s.retire n).octk = s.octk := octk_of_cur (by simp)
@[simp] theorem retireTo_ck (s : State) (t : Word) : (s.retireTo t).ck = s.ck := ck_of_cur (by simp)
@[simp] theorem retireTo_sk (s : State) (t : Word) : (s.retireTo t).sk = s.sk := sk_of_cur (by simp)
@[simp] theorem retireTo_dk (s : State) (t : Word) : (s.retireTo t).dk = s.dk := dk_of_cur (by simp)
@[simp] theorem retireTo_clk (s : State) (t : Word) : (s.retireTo t).clk = s.clk := clk_of_cur (by simp)
@[simp] theorem retireTo_octk (s : State) (t : Word) : (s.retireTo t).octk = s.octk := octk_of_cur (by simp)
@[simp] theorem retireSafe_ck (s : State) (n : Nat) : (s.retireSafe n).ck = s.ck := ck_of_cur (by simp)
@[simp] theorem retireSafe_sk (s : State) (n : Nat) : (s.retireSafe n).sk = s.sk := sk_of_cur (by simp)
@[simp] theorem retireSafe_dk (s : State) (n : Nat) : (s.retireSafe n).dk = s.dk := dk_of_cur (by simp)
@[simp] theorem retireSafe_clk (s : State) (n : Nat) : (s.retireSafe n).clk = s.clk := clk_of_cur (by simp)
@[simp] theorem retireSafe_octk (s : State) (n : Nat) : (s.retireSafe n).octk = s.octk := octk_of_cur (by simp)
@[simp] theorem orFlags_ck (s : State) (fl : Flags) (lat : Nat) : (s.orFlags fl lat).ck = s.ck := ck_of_cur (by simp)
@[simp] theorem orFlags_sk (s : State) (fl : Flags) (lat : Nat) : (s.orFlags fl lat).sk = s.sk := sk_of_cur (by simp)
@[simp] theorem orFlags_dk (s : State) (fl : Flags) (lat : Nat) : (s.orFlags fl lat).dk = s.dk := dk_of_cur (by simp)
@[simp] theorem orFlags_clk (s : State) (fl : Flags) (lat : Nat) : (s.orFlags fl lat).clk = s.clk := clk_of_cur (by simp)
@[simp] theorem orFlags_octk (s : State) (fl : Flags) (lat : Nat) : (s.orFlags fl lat).octk = s.octk := octk_of_cur (by simp)
@[simp] theorem waitFor_ck (s : State) (w : Wait) : (s.waitFor w).ck = s.ck := ck_of_cur (by simp)
@[simp] theorem waitFor_sk (s : State) (w : Wait) : (s.waitFor w).sk = s.sk := sk_of_cur (by simp)
@[simp] theorem waitFor_dk (s : State) (w : Wait) : (s.waitFor w).dk = s.dk := dk_of_cur (by simp)
@[simp] theorem waitFor_clk (s : State) (w : Wait) : (s.waitFor w).clk = s.clk := clk_of_cur (by simp)
@[simp] theorem waitFor_octk (s : State) (w : Wait) : (s.waitFor w).octk = s.octk := octk_of_cur (by simp)
@[simp] theorem progress_ck (s : State) (k : Nat) : (s.progress k).ck = s.ck := ck_of_cur (by simp)
@[simp] theorem progress_sk (s : State) (k : Nat) : (s.progress k).sk = s.sk := sk_of_cur (by simp)
@[simp] theorem progress_dk (s : State) (k : Nat) : (s.progress k).dk = s.dk := dk_of_cur (by simp)
@[simp] theorem progress_clk (s : State) (k : Nat) : (s.progress k).clk = s.clk := clk_of_cur (by simp)
@[simp] theorem progress_octk (s : State) (k : Nat) : (s.progress k).octk = s.octk := octk_of_cur (by simp)

/-! ### Registers (R191, R192, R265) -/

/-- x0 reads as zero in every state (R192). -/
@[simp] theorem rx_zero (s : State) : s.rx 0#5 = 0#64 := by simp [rx]

/-- A write of x[r] changes the cell of x[r] of the issuing slot alone, and nothing for x0 (R192). -/
theorem wx_cell (s : State) (r : BitVec 5) (v : Word) (k : Nat) :
    (s.wx r v).xregs.get 0#64 k = if r ≠ 0#5 ∧ k = s.sk * 32 + r.toNat then v else s.xregs.get 0#64 k := by
  unfold wx
  by_cases h : r = 0#5
  · rw [if_pos h, if_neg (fun e => e.1 h)]
  · rw [if_neg h]
    rw [Tab.get_set]
    by_cases e : k = s.sk * 32 + r.toNat
    · rw [if_pos e, if_pos ⟨h, e⟩]
    · rw [if_neg e, if_neg (fun x => e x.2)]

/-- Reading x[q] after a write of x[r] (R192). -/
theorem rx_wx (s : State) (r q : BitVec 5) (v : Word) :
    (s.wx r v).rx q = if q = r ∧ q ≠ 0#5 then v else s.rx q := by
  unfold rx
  rw [wx_cell, wx_sk]
  by_cases hq : q = 0#5
  · rw [if_pos hq, if_neg (fun e => e.2 hq), if_pos hq]
  · rw [if_neg hq, if_neg hq]
    by_cases hr : q = r
    · rw [if_pos ⟨fun e => hq (hr.trans e), by rw [hr]⟩, if_pos ⟨hr, hq⟩]
    · rw [if_neg (fun e => hr (BitVec.eq_of_toNat_eq (by omega))), if_neg (fun e => hr e.1)]

theorem wrf_cell (s : State) (r : BitVec 5) (v : Word32) (k : Nat) :
    (s.wrf r v).fregs.get 0#32 k = if k = s.sk * 32 + r.toNat then v else s.fregs.get 0#32 k := by
  unfold wrf; rw [Tab.get_set]

theorem wp_cell (s : State) (r : Nat) (v : Word) (k : Nat) :
    (s.wp r v).pregs.get 0#64 k = if r ≠ 0 ∧ k = s.sk * 8 + r then v else s.pregs.get 0#64 k := by
  unfold wp
  by_cases h : r = 0
  · rw [if_pos h, if_neg (fun e => e.1 h)]
  · rw [if_neg h]
    rw [Tab.get_set]
    by_cases e : k = s.sk * 8 + r
    · rw [if_pos e, if_pos ⟨h, e⟩]
    · rw [if_neg e, if_neg (fun x => e x.2)]

theorem wvAt_cell (s : State) (q r j : Nat) (v : Word32) (k : Nat) :
    (s.wvAt q r j v).vregs.get 0#32 k = if k = (q * 32 + r) * 64 + j then v else s.vregs.get 0#32 k := by
  unfold wvAt; rw [Tab.get_set]

/-- p0 is all-true in every state (R265). -/
@[simp] theorem rp_zero (s : State) : s.rp 0 = BitVec.allOnes 64 := by simp [rp]

/-! ### Completion (R48, R193) -/

theorem retire_slot (s : State) (n k : Nat) : (s.retire n).slotSt k =
    if k = s.sk then { s.me with pc := s.me.pc + BitVec.ofNat 64 n, safecnt := s.me.safecnt + 1, wait := .none }
    else s.slotSt k := by
  unfold retire; rw [modCore_slotSt, modSlot_slotSt_eq]; rfl

theorem retireTo_slot (s : State) (t : Word) (k : Nat) : (s.retireTo t).slotSt k =
    if k = s.sk then { s.me with pc := t, safecnt := s.me.safecnt + 1, wait := .none } else s.slotSt k := by
  unfold retireTo; rw [modCore_slotSt, modSlot_slotSt_eq]; rfl

theorem retire_core (s : State) (n k : Nat) : (s.retire n).coreSt k =
    if k = s.ck then { s.coreSt s.ck with instret := (s.coreSt s.ck).instret + 1 } else s.coreSt k := by
  unfold retire; rw [modCore_coreSt_eq]; rfl

theorem retireTo_core (s : State) (t : Word) (k : Nat) : (s.retireTo t).coreSt k =
    if k = s.ck then { s.coreSt s.ck with instret := (s.coreSt s.ck).instret + 1 } else s.coreSt k := by
  unfold retireTo; rw [modCore_coreSt_eq]; rfl

end Sys2Proof.Machine.State
end

