-- ==== Sys2Proof/Laws/Complete.lean ====
section
/-! SUPPORT. The ways in which an instruction completes, each proved once in the words of Safety.lean: a result in a register
and the program counter moved on. -/

namespace Sys2Proof
open Machine

/-- A slot whose next content is given, with the flags in flight that it then has. -/
theorem SlotMoves.intro {s t : State} {pc : Word} {sc : Nat} {fl : BitVec 5} {late : List (Nat × BitVec 5 × BitVec 5)}
    (h : ∀ k, t.slotSt k = if k = s.sk then
      { s.me with pc := pc, safecnt := sc, wait := .none, fflags := s.me.fflags ||| fl, late := late } else s.slotSt k)
    (hl : late = [] ∨ ∃ lat, late = (s.me.addFlags s.clock lat fl).late) : SlotMoves s t pc sc fl := by
  have hs : (t.slotSt s.sk).late = late := by rw [h, if_pos rfl]
  exact ⟨fun k => by rw [hs]; exact h k, by rw [hs]; exact hl⟩

theorem SlotMoves.of_retire {s u : State} (n : Nat) (hc : u.cur = s.cur) (hs : u.slots = s.slots) :
    SlotMoves s (u.retire n) (s.pc + BitVec.ofNat 64 n) (s.me.safecnt + 1) 0#5 := by
  refine .intro (late := s.me.late) (fun k => ?_) (.inr ⟨0, rfl⟩)
  have hk : u.sk = s.sk := State.sk_of_cur hc
  have hg : ∀ j, u.slotSt j = s.slotSt j := fun j => by simp only [State.slotSt, hs]
  have hm : u.me = s.me := by simp only [State.me, hk, hg]
  rw [State.retire_slot, hk, hm, hg]
  simp only [BitVec.or_zero, State.pc]

theorem SlotMoves.of_retireTo {s u : State} (p : Word) (hc : u.cur = s.cur) (hs : u.slots = s.slots) :
    SlotMoves s (u.retireTo p) p (s.me.safecnt + 1) 0#5 := by
  refine .intro (late := s.me.late) (fun k => ?_) (.inr ⟨0, rfl⟩)
  have hk : u.sk = s.sk := State.sk_of_cur hc
  have hg : ∀ j, u.slotSt j = s.slotSt j := fun j => by simp only [State.slotSt, hs]
  have hm : u.me = s.me := by simp only [State.me, hk, hg]
  rw [State.retireTo_slot, hk, hm, hg]
  simp only [BitVec.or_zero]

theorem Slot.addFlags_fflags (t : Slot) (clock lat : Nat) (fl : BitVec 5) : (t.addFlags clock lat fl).fflags = t.fflags ||| fl := by
  unfold Slot.addFlags; split
  · next h => rw [h, BitVec.or_zero]
  · rfl
/-- Only FFLAGS and what is in flight of it change. -/
theorem Slot.addFlags_eq (t : Slot) (clock lat : Nat) (fl : BitVec 5) :
    t.addFlags clock lat fl = { t with fflags := t.fflags ||| fl, late := (t.addFlags clock lat fl).late } := by
  unfold Slot.addFlags; split
  · next h => rw [h, BitVec.or_zero]
  · rfl

theorem SlotMoves.of_orFlags {s u : State} (n lat : Nat) (fl : BitVec 5) (hc : u.cur = s.cur) (hs : u.slots = s.slots)
    (ht : u.clock = s.clock) :
    SlotMoves s ((u.orFlags fl lat).retire n) (s.pc + BitVec.ofNat 64 n) (s.me.safecnt + 1) fl := by
  refine .intro (late := (s.me.addFlags s.clock lat fl).late) (fun k => ?_) (.inr ⟨lat, rfl⟩)
  have hk : u.sk = s.sk := State.sk_of_cur hc
  have hg : ∀ j, u.slotSt j = s.slotSt j := fun j => by simp only [State.slotSt, hs]
  have hf : ∀ j, (u.orFlags fl lat).slotSt j = if j = s.sk then s.me.addFlags s.clock lat fl else s.slotSt j := by
    intro j; unfold State.orFlags; rw [State.modSlot_slotSt_eq, hk, hg, hg, ht]; rfl
  have hm : (u.orFlags fl lat).me = s.me.addFlags s.clock lat fl := by
    unfold State.me; rw [State.orFlags_sk, hk, hf, if_pos rfl]
    rfl
  rw [State.retire_slot, State.orFlags_sk, hk, hm, hf]
  by_cases h : k = s.sk
  · rw [if_pos h, if_pos h, Slot.addFlags_eq]; rfl
  · rw [if_neg h, if_neg h, if_neg h]

theorem CoreCounts.of_retire {s u : State} (n : Nat) (hc : u.cur = s.cur) (hs : u.cores = s.cores) :
    CoreCounts s (u.retire n) := by
  intro k
  have hk : u.ck = s.ck := State.ck_of_cur hc
  have hg : ∀ j, u.coreSt j = s.coreSt j := fun j => by simp only [State.coreSt, hs]
  rw [State.retire_core, hk, hg, hg]

theorem CoreCounts.of_retireTo {s u : State} (p : Word) (hc : u.cur = s.cur) (hs : u.cores = s.cores) :
    CoreCounts s (u.retireTo p) := by
  intro k
  have hk : u.ck = s.ck := State.ck_of_cur hc
  have hg : ∀ j, u.coreSt j = s.coreSt j := fun j => by simp only [State.coreSt, hs]
  rw [State.retireTo_core, hk, hg, hg]

/-- A result in x[d], and the program counter moved on by n. -/
theorem wroteX_retire (s : State) (d : BitVec 5) (v : Word) (n : Nat) :
    WroteX s ((s.wx d v).retire n) d v (s.pc + BitVec.ofNat 64 n) 0#5 :=
  ⟨fun k => by rw [State.retire_xregs, State.wx_cell], .of_retire n (by simp) (by simp), .of_retire n (by simp) (by simp), by
    unfold State.wx; split <;> rfl⟩

/-- A result in x[d], and the program counter at a target. -/
theorem wroteX_retireTo (s : State) (d : BitVec 5) (v p : Word) : WroteX s ((s.wx d v).retireTo p) d v p 0#5 :=
  ⟨fun k => by rw [State.retireTo_xregs, State.wx_cell], .of_retireTo p (by simp) (by simp), .of_retireTo p (by simp) (by simp), by
    unfold State.wx; split <;> rfl⟩

/-- A result in x[d] with flags. -/
theorem wroteX_putX (s : State) (lat : Nat) (d : BitVec 5) (v : Word) (fl : BitVec 5) (n : Nat) :
    WroteX s ((s.putX lat d v fl).retire n) d v (s.pc + BitVec.ofNat 64 n) fl :=
  ⟨fun k => by unfold State.putX; rw [State.retire_xregs, State.orFlags_xregs, State.wx_cell],
    .of_orFlags n lat fl (by simp) (by simp) (by simp), .of_retire n (by simp [State.putX]) (by simp [State.putX]), by
    unfold State.putX State.wx; split <;> rfl⟩

/-- A result in f[d]. -/
theorem wroteF_retire (s : State) (d : BitVec 5) (v : Word32) (n : Nat) :
    WroteF s ((s.wrf d v).retire n) d v (s.pc + BitVec.ofNat 64 n) 0#5 :=
  ⟨fun k => by rw [State.retire_fregs, State.wrf_cell], .of_retire n (by simp) (by simp), .of_retire n (by simp) (by simp), rfl⟩

/-- A result in f[d] with flags. -/
theorem wroteF_putF (s : State) (lat : Nat) (d : BitVec 5) (r : Nat × BitVec 5) (n : Nat) :
    WroteF s ((s.putF lat d r).retire n) d (BitVec.ofNat 32 r.1) (s.pc + BitVec.ofNat 64 n) r.2 :=
  ⟨fun k => by unfold State.putF; rw [State.retire_fregs, State.orFlags_fregs, State.wrf_cell],
    .of_orFlags n lat r.2 (by simp) (by simp) (by simp), .of_retire n (by simp [State.putF]) (by simp [State.putF]), rfl⟩

/-- A result in p[d]. -/
theorem wroteP_retire (s : State) (d : BitVec 3) (v : Word) (n : Nat) :
    WroteP s ((s.wp d.toNat v).retire n) d v (s.pc + BitVec.ofNat 64 n) :=
  ⟨fun k => by
      rw [State.retire_pregs, State.wp_cell]
      by_cases h : d = 0#3
      · rw [if_neg (fun e => e.1 (congrArg BitVec.toNat h)), if_neg (fun e => e.1 h)]
      · by_cases e : k = s.sk * 8 + d.toNat
        · rw [if_pos ⟨fun z => h (BitVec.eq_of_toNat_eq z), e⟩, if_pos ⟨h, e⟩]
        · rw [if_neg (fun z => e z.2), if_neg (fun z => e z.2)], .of_retire n (by simp) (by simp), .of_retire n (by simp) (by simp), by
    unfold State.wp; split <;> rfl⟩

/-- Nothing but the program counter, moved on by n. -/
theorem moved_retire (s : State) (n : Nat) : Moved s (s.retire n) (s.pc + BitVec.ofNat 64 n) :=
  ⟨.of_retire n rfl rfl, .of_retire n rfl rfl, rfl⟩

/-- Nothing but the program counter, at a target. -/
theorem moved_retireTo (s : State) (p : Word) : Moved s (s.retireTo p) p :=
  ⟨.of_retireTo p rfl rfl, .of_retireTo p rfl rfl, rfl⟩

end Sys2Proof
end

