-- ==== Sys2Proof/Laws/Mem.lean ====
section
/-! SUPPORT. Memory: what a read gives after each write (R4), that every operation on memory keeps its canonical form, and that
the writes leave every register and task alone. -/

namespace Sys2Proof.Machine

/-- A projection that a step keeps is kept by a fold of the step. -/
theorem foldl_keep {α β : Type} {f : State → β} {g : State → α → State} (h : ∀ t p, f (g t p) = f t) (l : List α) (s : State) :
    f (l.foldl g s) = f s := by
  induction l generalizing s with
  | nil => rfl
  | cons p l ih => rw [List.foldl_cons, ih, h]

/-- An invariant that a step keeps is kept by a fold of the step. -/
theorem foldl_inv {α : Type} {P : State → Prop} {g : State → α → State} (h : ∀ t p, P t → P (g t p)) (l : List α) {s : State} (hs : P s) :
    P (l.foldl g s) := by
  induction l generalizing s with
  | nil => exact hs
  | cons p l ih => exact ih (h s p hs)

/-! ### Bytes and numbers (R4) -/

theorem length_toBytes (n v : Nat) : (toBytes n v).length = n := by
  induction n generalizing v with
  | zero => rfl
  | succ n ih => simp [toBytes, ih]

theorem ofBytes_toBytes (n v : Nat) : ofBytes (toBytes n v) = v % 256 ^ n := by
  induction n generalizing v with
  | zero => simp [toBytes, ofBytes, Nat.mod_one]
  | succ n ih =>
    rw [toBytes, ofBytes, ih, BitVec.toNat_ofNat, Nat.pow_succ 256 n, Nat.mul_comm (256 ^ n) 256, Nat.mod_mul]

theorem ofBytes_lt (bs : List Byte) : ofBytes bs < 256 ^ bs.length := by
  induction bs with
  | nil => simp [ofBytes]
  | cons b bs ih =>
    have hb := b.isLt
    simp only [ofBytes, List.length_cons, Nat.pow_succ]
    omega

theorem getElem?_toBytes (n v i : Nat) : (toBytes n v)[i]? = if i < n then some (BitVec.ofNat 8 (v / 256 ^ i)) else none := by
  induction n generalizing v i with
  | zero => simp [toBytes]
  | succ n ih =>
    cases i with
    | zero => simp [toBytes]
    | succ i =>
      simp only [toBytes, List.getElem?_cons_succ, ih, Nat.add_lt_add_iff_right]
      rw [Nat.div_div_eq_div_mul, Nat.pow_succ, Nat.mul_comm 256]

/-! ### Writing bytes -/

namespace State

theorem wrByte_get (s : State) (a : Nat) (b : Byte) (j : Nat) :
    (s.wrByte a b).mem.get memDefault j = if j = a then b else s.mem.get memDefault j := Tab.get_set ..

/-- A byte outside the written ones reads as before. -/
theorem wrRaw_get_of_ne (s : State) (a : Nat) (bs : List (Nat × Byte)) (j : Nat) (h : ∀ p ∈ bs, j ≠ a + p.1) :
    (s.wrRaw a bs).mem.get memDefault j = s.mem.get memDefault j := by
  unfold wrRaw
  induction bs generalizing s with
  | nil => rfl
  | cons p bs ih =>
    rw [List.foldl_cons, ih _ fun q hq => h q (by simp [hq]), wrByte_get, if_neg (h p (by simp))]

/-- Consecutive bytes from a on read as what has been written, and every other byte as before. -/
theorem wrRaw_enum_get (s : State) (a i : Nat) (bs : List Byte) (j : Nat) :
    (s.wrRaw a (enumBytes i bs)).mem.get memDefault j =
      if a + i ≤ j ∧ j < a + i + bs.length then bs.getD (j - (a + i)) 0#8 else s.mem.get memDefault j := by
  induction bs generalizing s i with
  | nil => rw [if_neg (by simp)]; rfl
  | cons b bs ih =>
    have hstep : s.wrRaw a (enumBytes i (b :: bs)) = (s.wrByte (a + i) b).wrRaw a (enumBytes (i + 1) bs) := rfl
    rw [hstep, ih, wrByte_get]
    simp only [List.length_cons]
    by_cases hj : j = a + i
    · subst hj
      rw [if_neg (by omega), if_pos rfl, if_pos (by omega)]
      simp
    · by_cases h : a + i ≤ j ∧ j < a + i + (bs.length + 1)
      · rw [if_pos (by omega), if_pos h]
        obtain ⟨k, rfl⟩ : ∃ k, j = a + i + k + 1 := ⟨j - (a + i) - 1, by omega⟩
        rw [show a + i + k + 1 - (a + (i + 1)) = k by omega, show a + i + k + 1 - (a + i) = k + 1 by omega]
        simp
      · rw [if_neg (by omega), if_neg hj, if_neg h]

/-- What is read from consecutive addresses is what stands there. -/
theorem rdBytes_plain (s : State) (a n : Nat) :
    s.rdBytes a 0 n = (List.range n).map fun i => s.mem.get memDefault (a + i) := by
  induction n generalizing a with
  | zero => rfl
  | succ n ih =>
    have h : (List.range n).map (fun i => s.mem.get memDefault (a + 1 + i)) =
        (List.range n).map ((fun i => s.mem.get memDefault (a + i)) ∘ Nat.succ) :=
      List.map_congr_left fun i _ => by simp only [Function.comp, Nat.succ_eq_add_one, Nat.add_assoc, Nat.add_comm 1]
    rw [rdBytes, ih, List.range_succ_eq_map, List.map_cons, List.map_map, h]
    rfl

/-! ### Bytes under a key (R67, R360) -/

theorem pow_bytes (n m : Nat) (h : m = 8 * n) : (256 : Nat) ^ n = 2 ^ m := by
  rw [h, Nat.pow_mul]

theorem toBytes_ofBytes (bs : List Byte) : toBytes bs.length (ofBytes bs) = bs := by
  induction bs with
  | nil => rfl
  | cons b bs ih =>
    have hb := b.isLt
    simp only [List.length_cons, toBytes, ofBytes]
    rw [show (b.toNat + 256 * ofBytes bs) / 256 = ofBytes bs by omega, ih]
    congr 1
    apply BitVec.eq_of_toNat_eq
    rw [BitVec.toNat_ofNat]
    omega

theorem length_plainBlock (s : State) (a key : Nat) : (s.plainBlock a key).length = 16 := length_toBytes _ _

/-- The block of an address depends on the block's bytes alone. -/
theorem plainBlock_congr {s t : State} {a b key : Nat} (hl : a / 16 = b / 16)
    (h : ∀ i < 16, t.mem.get memDefault (a / 16 * 16 + i) = s.mem.get memDefault (a / 16 * 16 + i)) :
    t.plainBlock a key = s.plainBlock b key := by
  have hm : t.blockAt a = s.blockAt a := by
    unfold blockAt
    rw [List.map_congr_left (l := List.range 16) fun i hi => h i (List.mem_range.mp hi)]
  have hb : s.blockAt b = s.blockAt a := by unfold blockAt; rw [hl]
  have hk : tweak b key = tweak a key := by unfold tweak; rw [hl]
  unfold plainBlock
  rw [hm, hb, hk]

/-- What a keyed write of one byte leaves stored. -/
theorem wrKeyed_get (s : State) (a key : Nat) (b : Byte) (hk : key ≠ 0) (j : Nat) :
    (s.wrKeyed a key b).mem.get memDefault j =
      if j / 16 = a / 16 then
        (toBytes 16 ((Config.blockCipher (key / 64) (tweak a key)).enc
          (BitVec.ofNat 128 (ofBytes ((s.plainBlock a key).set (a % 16) b)))).toNat).getD (j % 16) 0#8
      else s.mem.get memDefault j := by
  unfold wrKeyed
  rw [if_neg hk]
  dsimp only
  rw [wrRaw_enum_get, length_toBytes]
  by_cases h : j / 16 = a / 16
  · rw [if_pos (by omega), if_pos h, show j - (a / 16 * 16 + 0) = j % 16 by omega]
  · rw [if_neg (by omega), if_neg h]

/-- The block of a keyed write, decrypted: the written byte at its place, every other byte as before. -/
theorem plainBlock_wrKeyed (s : State) (a key : Nat) (b : Byte) (hk : key ≠ 0) :
    (s.wrKeyed a key b).plainBlock a key = (s.plainBlock a key).set (a % 16) b := by
  have hlt : ofBytes ((s.plainBlock a key).set (a % 16) b) < 2 ^ 128 := by
    have h := ofBytes_lt ((s.plainBlock a key).set (a % 16) b)
    rw [List.length_set, length_plainBlock, pow_bytes 16 128 rfl] at h
    exact h
  have hblock : (s.wrKeyed a key b).blockAt a = (Config.blockCipher (key / 64) (tweak a key)).enc
      (BitVec.ofNat 128 (ofBytes ((s.plainBlock a key).set (a % 16) b))) := by
    unfold blockAt
    generalize hx : (Config.blockCipher (key / 64) (tweak a key)).enc
      (BitVec.ofNat 128 (ofBytes ((s.plainBlock a key).set (a % 16) b))) = x
    have hl : (List.range 16).map (fun i => (s.wrKeyed a key b).mem.get memDefault (a / 16 * 16 + i)) = toBytes 16 x.toNat := by
      apply List.ext_getElem?
      intro i
      rw [List.getElem?_map]
      by_cases hi : i < 16
      · rw [List.getElem?_range hi, Option.map_some, wrKeyed_get s a key b hk, if_pos (by omega), hx,
          show (a / 16 * 16 + i) % 16 = i by omega, List.getD, getElem?_toBytes, if_pos hi]
        rfl
      · rw [List.getElem?_eq_none (by simpa using hi), List.getElem?_eq_none (by rw [length_toBytes]; omega)]
        rfl
    rw [hl]
    apply BitVec.eq_of_toNat_eq
    rw [BitVec.toNat_ofNat, ofBytes_toBytes, pow_bytes 16 128 rfl, Nat.mod_mod, Nat.mod_eq_of_lt x.isLt]
  unfold plainBlock
  rw [hblock, (Config.blockCipher (key / 64) (tweak a key)).dec_enc, BitVec.toNat_ofNat, Nat.mod_eq_of_lt hlt]
  have h := toBytes_ofBytes ((s.plainBlock a key).set (a % 16) b)
  rw [List.length_set, length_plainBlock] at h
  exact h

/-- A byte written under a key reads back under it, and every other byte reads under it as before (R67, R360). -/
theorem rdByte_wrKeyed (s : State) (a key j : Nat) (b : Byte) :
    (s.wrKeyed a key b).rdByte j key = if j = a then b else s.rdByte j key := by
  by_cases hk : key = 0
  · unfold wrKeyed rdByte
    rw [if_pos hk, if_pos hk, if_pos hk, wrByte_get]
  · unfold rdByte
    rw [if_neg hk, if_neg hk]
    by_cases hl : j / 16 = a / 16
    · rw [plainBlock_congr (s := s.wrKeyed a key b) (t := s.wrKeyed a key b) (b := a) hl fun _ _ => rfl,
        plainBlock_wrKeyed s a key b hk, plainBlock_congr (s := s) (t := s) (b := a) hl fun _ _ => rfl]
      have hlen := length_plainBlock s a key
      by_cases hj : j = a
      · subst hj
        rw [if_pos rfl, List.getD, List.getElem?_set_self (by rw [hlen]; omega)]
        rfl
      · rw [if_neg hj, List.getD, List.getElem?_set_ne (by omega), List.getD]
    · rw [if_neg fun h => hl (by rw [h])]
      rw [plainBlock_congr (s := s) (t := s.wrKeyed a key b) (b := j) rfl fun i hi => by
        rw [wrKeyed_get s a key b hk, if_neg (by omega)]]

/-- Bytes written under a key from a on read back under it, and every other byte reads as before. -/
theorem rdByte_wrBytes (s : State) (a key i j : Nat) (bs : List Byte) :
    (s.wrBytes a key (enumBytes i bs)).rdByte j key =
      if a + i ≤ j ∧ j < a + i + bs.length then bs.getD (j - (a + i)) 0#8 else s.rdByte j key := by
  induction bs generalizing s i with
  | nil => rw [if_neg (by simp)]; rfl
  | cons b bs ih =>
    have hstep : s.wrBytes a key (enumBytes i (b :: bs)) = (s.wrKeyed (a + i) key b).wrBytes a key (enumBytes (i + 1) bs) := rfl
    rw [hstep, ih, rdByte_wrKeyed]
    simp only [List.length_cons]
    by_cases hj : j = a + i
    · subst hj
      rw [if_neg (by omega), if_pos rfl, if_pos (by omega)]
      simp
    · by_cases h : a + i ≤ j ∧ j < a + i + (bs.length + 1)
      · rw [if_pos (by omega), if_pos h]
        obtain ⟨k, rfl⟩ : ∃ k, j = a + i + k + 1 := ⟨j - (a + i) - 1, by omega⟩
        rw [show a + i + k + 1 - (a + (i + 1)) = k by omega, show a + i + k + 1 - (a + i) = k + 1 by omega]
        simp
      · rw [if_neg (by omega), if_neg hj, if_neg h]

theorem noteMaster_mem (s : State) (a : Nat) (bs : List (Nat × Byte)) : (s.noteMaster a bs).mem = s.mem := by
  unfold noteMaster
  refine foldl_keep (f := State.mem) (fun t q => ?_) _ s
  dsimp only
  split
  · rfl
  · exact foldl_keep (f := State.mem) (fun u j => by split <;> rfl) _ t

theorem clearPoison_mem (s : State) (a : Nat) (bs : List (Nat × Byte)) : (s.clearPoison a bs).mem = s.mem := rfl
theorem noteWrite_mem (s : State) (a : Nat) (bs : List (Nat × Byte)) : (s.noteWrite a bs).mem = s.mem := rfl
theorem wrLoc_mem (s : State) (rid : Nat) (l : Loc) (bs : List (Nat × Byte)) :
    (s.wrLoc rid l bs).mem = (s.wrBytes (locAddr rid l) (locKey l) bs).mem := by
  unfold wrLoc
  rw [noteWrite_mem, noteMaster_mem, clearPoison_mem]

/-- Without a key, bytes are stored as they are. -/
theorem wrBytes_plain (s : State) (a : Nat) (bs : List (Nat × Byte)) : s.wrBytes a 0 bs = s.wrRaw a bs := rfl

/-- A write to a location without a key: its bytes read as what has been written, and every other byte as before. -/
theorem wrLoc_get (s : State) (rid : Nat) (l : Loc) (hk : locKey l = 0) (bs : List Byte) (a j : Nat) (ha : locAddr rid l = a) :
    (s.wrLoc rid l (enumBytes 0 bs)).mem.get memDefault j =
      if a ≤ j ∧ j < a + bs.length then bs.getD (j - a) 0#8 else s.mem.get memDefault j := by
  rw [wrLoc_mem, hk, ha, wrBytes_plain, wrRaw_enum_get]
  simp only [Nat.add_zero]

/-- A write to a location, read under the location's key: its bytes are what has been written, every other byte is as before. -/
theorem rdByte_wrLoc (s : State) (rid : Nat) (l : Loc) (bs : List Byte) (j : Nat) :
    (s.wrLoc rid l (enumBytes 0 bs)).rdByte j (locKey l) =
      if locAddr rid l ≤ j ∧ j < locAddr rid l + bs.length then bs.getD (j - locAddr rid l) 0#8 else s.rdByte j (locKey l) := by
  have h := rdByte_wrBytes s (locAddr rid l) (locKey l) 0 j bs
  simp only [Nat.add_zero] at h
  rw [← h]
  unfold rdByte plainBlock blockAt
  rw [wrLoc_mem]

/-- A write to LM: its bytes read as what has been written, and every other byte of memory as before. -/
theorem wrLm_get (s : State) (rid core off : Nat) (bs : List Byte) (j : Nat) :
    (s.wrLm rid core off bs).mem.get memDefault j =
      if lmAddr rid core off ≤ j ∧ j < lmAddr rid core off + bs.length then bs.getD (j - lmAddr rid core off) 0#8
      else s.mem.get memDefault j := wrLoc_get s rid (.lm core off) rfl bs _ j rfl

/-- Bytes written to LM read back (R19). -/
theorem rdLm_wrLm (s : State) (rid core off : Nat) (bs : List Byte) : (s.wrLm rid core off bs).rdLm rid core off bs.length = bs := by
  unfold rdLm
  rw [rdBytes_plain]
  apply List.ext_getElem?
  intro i
  rw [List.getElem?_map]
  by_cases hi : i < bs.length
  · rw [List.getElem?_range hi, Option.map_some, wrLm_get, if_pos (by omega), Nat.add_sub_cancel_left]
    simp [List.getD, hi]
  · rw [List.getElem?_eq_none (by simpa using hi), List.getElem?_eq_none (by omega)]
    rfl

/-! ### The canonical form -/

theorem wf_wrByte {s : State} (h : MemInv s) (a : Nat) (b : Byte) : MemInv (s.wrByte a b) := Tab.wf_set h a b
theorem wf_wrRaw (s : State) (a : Nat) (bs : List (Nat × Byte)) (h : MemInv s) : MemInv (s.wrRaw a bs) :=
  foldl_inv (P := MemInv) (fun _ p ht => wf_wrByte ht (a + p.1) p.2) bs h

theorem wf_of_mem {s t : State} (e : t.mem = s.mem) (h : MemInv s) : MemInv t := by
  unfold MemInv at *
  rw [e]
  exact h

theorem wf_wrKeyed {s : State} (h : MemInv s) (a key : Nat) (b : Byte) : MemInv (s.wrKeyed a key b) := by
  unfold wrKeyed
  split
  · exact wf_wrByte h a b
  · exact wf_wrRaw _ _ _ h
theorem wf_wrBytes (s : State) (a key : Nat) (bs : List (Nat × Byte)) (h : MemInv s) : MemInv (s.wrBytes a key bs) :=
  foldl_inv (P := MemInv) (fun _ p ht => wf_wrKeyed ht (a + p.1) key p.2) bs h

/-- The one operation that changes memory keeps its canonical form. -/
theorem wf_wrLoc (s : State) (rid : Nat) (l : Loc) (bs : List (Nat × Byte)) (h : MemInv s) : MemInv (s.wrLoc rid l bs) :=
  wf_of_mem (wrLoc_mem s rid l bs) (wf_wrBytes _ _ _ _ h)

theorem wf_wrNum (s : State) (rid : Nat) (l : Loc) (n v : Nat) (h : MemInv s) : MemInv (s.wrNum rid l n v) := wf_wrLoc s rid l _ h
theorem wf_wrLm (s : State) (rid core off : Nat) (bs : List Byte) (h : MemInv s) : MemInv (s.wrLm rid core off bs) := wf_wrLoc s rid _ _ h

theorem modOwnerDie_mem (s : State) (p : Nat) (f : DieSt → DieSt) : (s.modOwnerDie p f).mem = s.mem := by
  unfold modOwnerDie
  split <;> rfl

theorem countWrite_mem (s : State) (l : Loc) : (s.countWrite l).mem = s.mem := by
  unfold countWrite
  split
  · exact modOwnerDie_mem ..
  · rfl

theorem countRead_mem (s : State) (dk : Nat) (l : Loc) : (s.countRead dk l).mem = s.mem := by
  unfold countRead
  split
  · rfl
  · rfl
  · exact modOwnerDie_mem ..

theorem wf_orPte (s : State) (a : Nat) (m : Word) (h : MemInv s) : MemInv (s.orPte a m) := by
  unfold orPte
  refine wf_wrNum _ _ _ _ _ (wf_of_mem ?_ h)
  rw [countWrite_mem, modOwnerDie_mem]

theorem toHost_mem (s : State) (o : HostOut) : (s.toHost o).mem = s.mem := by
  unfold toHost
  split <;> split <;> rfl

theorem dirtyLog_mem (s : State) (rid : Nat) (e : TlbEnt) (va : Nat) : (s.dirtyLog rid e va).mem = s.mem := by
  unfold dirtyLog
  dsimp only
  split
  · rfl
  · split
    · rfl
    · exact toHost_mem ..

theorem wf_markLeaf (s : State) (rid : Nat) (e : TlbEnt) (va : Nat) (w : Bool) (h : MemInv s) : MemInv (s.markLeaf rid e va w).2 := by
  unfold markLeaf
  dsimp only
  have hd : MemInv (if (w && !e.dset.contains (partOf e va) && !(s.rdPte (e.pte + 8 * partOf e va)).getLsbD 6) then s.dirtyLog rid e va else s) := by
    split
    · exact wf_of_mem (dirtyLog_mem ..) h
    · exact h
  split
  · exact wf_orPte _ _ _ hd
  · exact hd

theorem wf_tlbInstall (s : State) (rid ck : Nat) (e : TlbEnt) (va : Nat) (h : MemInv s) : MemInv (s.tlbInstall rid ck e va) := by
  unfold tlbInstall
  split
  · exact h
  · exact wf_markLeaf s rid e va false h

theorem wf_tlbUse (s : State) (rid ck : Nat) (e : TlbEnt) (va : Nat) (w : Bool) (h : MemInv s) : MemInv (s.tlbUse rid ck e va w) := by
  unfold tlbUse
  dsimp only
  split
  · exact wf_markLeaf s rid e va w h
  · exact wf_markLeaf s rid e va w h

theorem pageWalk_mem (s : State) (rid die va : Nat) : (s.pageWalk rid die va).2.mem = s.mem :=
  foldl_keep (f := State.mem) (fun _ _ => countRead_mem ..) _ s

theorem nextWalk_mem (s : State) (dk : Nat) : (s.nextWalk dk).mem = s.mem := rfl

theorem readWalk_mem (s : State) (rid die i : Nat) (w : Walk) : (s.readWalk rid die i w).2.mem = s.mem := by
  unfold readWalk
  split
  · rfl
  · exact pageWalk_mem ..

theorem readWalks_mem (s : State) (rid die n : Nat) : (s.readWalks rid die n).mem = s.mem := by
  induction n generalizing s with
  | zero => rfl
  | succ n ih =>
    unfold readWalks
    dsimp only
    split
    · rw [ih, readWalk_mem]
    · rfl

/-- A unit's walk writes no memory: A and D are set where the access marks the leaf (R65). -/
theorem unitLeaf_mem (s : State) (rid die va : Nat) : (s.unitLeaf rid die va).2.mem = s.mem := by
  unfold unitLeaf
  dsimp only
  split
  · next i _ =>
    have hw := readWalk_mem (s.readWalks rid die (walksAhead (s.dieSt (dieKey rid die)) (va / 4096))) rid die i
      (((s.readWalks rid die (walksAhead (s.dieSt (dieKey rid die)) (va / 4096))).dieSt (dieKey rid die)).walks.getD i
        { page := va / 4096, clusters := [] })
    rw [readWalks_mem] at hw
    split
    · next heq => rw [heq] at hw; exact hw
    · exact hw
  · rw [pageWalk_mem, readWalks_mem]

theorem endWalkWaits_mem (s : State) (rid die page cl : Nat) (f : Option Flt) : (s.endWalkWaits rid die page cl f).mem = s.mem := by
  unfold endWalkWaits
  dsimp only
  iterate 3
    refine Eq.trans (foldl_keep (f := State.mem) ?_ _ _) ?_
    · intros; rfl
  rfl

/-- The end of a walk keeps the canonical form: it writes memory only where it sets A (R65, R72). -/
theorem wf_endWalk (s : State) (rid die i : Nat) (w : Walk) (split : Bool) (h : MemInv s) : MemInv (s.endWalk rid die i w split) := by
  have hr : MemInv (s.readWalk rid die i w).2 := wf_of_mem (readWalk_mem ..) h
  unfold endWalk
  split
  next r t heq =>
  rw [heq] at hr
  dsimp only
  split
  · exact foldl_inv (P := MemInv) (fun _ _ hu => wf_of_mem (endWalkWaits_mem ..) hu) _ (wf_of_mem rfl hr)
  · refine foldl_inv (P := MemInv) (fun u cl hu => ?_) _ (wf_of_mem rfl hr)
    unfold endWalkOk
    dsimp only
    split
    · exact wf_of_mem (endWalkWaits_mem ..) hu
    · exact wf_of_mem (endWalkWaits_mem ..) (wf_tlbInstall _ _ _ _ _ hu)

theorem wf_unitXlate (s : State) (rid die va size maj : Nat) (w : Bool) (h : MemInv s) :
    MemInv (s.unitXlate rid die va size maj w).2 := by
  have hp : MemInv (s.unitLeaf rid die va).2 := wf_of_mem (unitLeaf_mem s rid die va) h
  unfold unitXlate
  split
  · exact h
  · split
    · exact h
    · split
      · next heq => rw [heq] at hp; exact hp
      · next heq =>
        rw [heq] at hp
        split
        · exact hp
        · exact wf_markLeaf _ _ _ _ _ hp

/-- What a realm leaves behind keeps the canonical form (R347, R348). -/
theorem wf_purge (s : State) (rid : Nat) (h : MemInv s) : MemInv (s.purge rid) := by
  unfold purge
  dsimp only
  refine foldl_inv (P := MemInv) ?_ _ ?_
  · intro t p ht
    exact wf_of_mem rfl ht
  exact Tab.wf_clear h (lmFirst rid) (lmFirst rid + lmSpan)

theorem forgetPorts_mem (s : State) (rid : Nat) : (s.forgetPorts rid).mem = s.mem := rfl
theorem modDcq_mem (s : State) (k : Nat) (f : DcqSt → DcqSt) : (s.modDcq k f).mem = s.mem := rfl

theorem wf_loadImage (s : State) (rid : Nat) (img : Image) (h : MemInv s) : MemInv (s.loadImage rid img) := by
  unfold loadImage
  dsimp only
  refine foldl_inv (P := MemInv) ?_ _ (foldl_inv (P := MemInv) ?_ _ (foldl_inv (P := MemInv) ?_ _ ?_))
  iterate 3 exact fun _ _ ht => wf_of_mem rfl ht
  have hp := wf_purge s rid h
  generalize s.purge rid = u at hp ⊢
  exact Tab.wf_setAll hp _

theorem wf_freeRealm (s : State) (rid : Nat) (h : MemInv s) : MemInv (s.freeRealm rid) := wf_purge (s.eraseKeys rid) rid h

theorem wf_moduleReset (s : State) (h : MemInv s) : MemInv s.moduleReset := Tab.wf_clear h _ _

/-- Memory at reset lists nothing. -/
theorem wf_reset : MemInv State.reset := rfl

end State
end Sys2Proof.Machine
end

