-- ==== Sys2Proof/Laws/PerInstr.lean ====
section
/-! SUPPORT. The length bit of every instruction (R180): the lowest bit of a 32-bit instruction's first halfword is 1 and that of a compact
instruction is 0, and an operation of a unit has no halfword. Stated per instruction. -/

namespace Sys2Proof.Laws.LengthBit

/-- What R180 says of the length bit of an instruction's encoding. -/
def Statement (i : Instr) : Prop :=
  match i.form with
  | .word => ∃ lo hi : Half, encode i = [lo, hi] ∧ lo.getLsbD 0 = true
  | .compact => ∃ h : Half, encode i = [h] ∧ h.getLsbD 0 = false
  | .unit => encode i = []

theorem of_word {i : Instr} (hf : i.form = .word) (hb : (encodeWord i).getLsbD 0 = true) : Statement i := by
  unfold Statement encode
  rw [hf]
  exact ⟨_, _, rfl, by simpa using hb⟩
theorem of_compact {i : Instr} (hf : i.form = .compact) (hb : (encodeCompact i).getLsbD 0 = false) : Statement i := by
  unfold Statement encode
  rw [hf]
  exact ⟨_, rfl, hb⟩
theorem of_unit {i : Instr} (hf : i.form = .unit) : Statement i := by
  unfold Statement encode
  rw [hf]
theorem mkR_low (fn c b a d : BitVec 5) (maj : BitVec 6) : (mkR fn c b a d maj).getLsbD 0 = true := by
  unfold mkR; rw [BitVec.getLsbD_append, BitVec.getLsbD_append]; rfl
theorem mkC_low (top : BitVec 11) (cm : BitVec 4) : (mkC top cm).getLsbD 0 = false := by
  unfold mkC; rw [BitVec.getLsbD_append, BitVec.getLsbD_append]; rfl

theorem add (d a b : BitVec 5) : Statement (.add d a b) := of_word rfl (mkR_low ..)
theorem sub (d a b : BitVec 5) : Statement (.sub d a b) := of_word rfl (mkR_low ..)
theorem and (d a b : BitVec 5) : Statement (.and d a b) := of_word rfl (mkR_low ..)
theorem or (d a b : BitVec 5) : Statement (.or d a b) := of_word rfl (mkR_low ..)
theorem xor (d a b : BitVec 5) : Statement (.xor d a b) := of_word rfl (mkR_low ..)
theorem andn (d a b : BitVec 5) : Statement (.andn d a b) := of_word rfl (mkR_low ..)
theorem orn (d a b : BitVec 5) : Statement (.orn d a b) := of_word rfl (mkR_low ..)
theorem xnor (d a b : BitVec 5) : Statement (.xnor d a b) := of_word rfl (mkR_low ..)
theorem sll (d a b : BitVec 5) : Statement (.sll d a b) := of_word rfl (mkR_low ..)
theorem srl (d a b : BitVec 5) : Statement (.srl d a b) := of_word rfl (mkR_low ..)
theorem sra (d a b : BitVec 5) : Statement (.sra d a b) := of_word rfl (mkR_low ..)
theorem rol (d a b : BitVec 5) : Statement (.rol d a b) := of_word rfl (mkR_low ..)
theorem ror (d a b : BitVec 5) : Statement (.ror d a b) := of_word rfl (mkR_low ..)
theorem slt (d a b : BitVec 5) : Statement (.slt d a b) := of_word rfl (mkR_low ..)
theorem sltz (d a b : BitVec 5) : Statement (.sltz d a b) := of_word rfl (mkR_low ..)
theorem min (d a b : BitVec 5) : Statement (.min d a b) := of_word rfl (mkR_low ..)
theorem max (d a b : BitVec 5) : Statement (.max d a b) := of_word rfl (mkR_low ..)
theorem minz (d a b : BitVec 5) : Statement (.minz d a b) := of_word rfl (mkR_low ..)
theorem maxz (d a b : BitVec 5) : Statement (.maxz d a b) := of_word rfl (mkR_low ..)
theorem addSat (d a b : BitVec 5) : Statement (.addSat d a b) := of_word rfl (mkR_low ..)
theorem subSat (d a b : BitVec 5) : Statement (.subSat d a b) := of_word rfl (mkR_low ..)
theorem addzSat (d a b : BitVec 5) : Statement (.addzSat d a b) := of_word rfl (mkR_low ..)
theorem subzSat (d a b : BitVec 5) : Statement (.subzSat d a b) := of_word rfl (mkR_low ..)
theorem clz (d a : BitVec 5) : Statement (.clz d a) := of_word rfl (mkR_low ..)
theorem ctz (d a : BitVec 5) : Statement (.ctz d a) := of_word rfl (mkR_low ..)
theorem cpop (d a : BitVec 5) : Statement (.cpop d a) := of_word rfl (mkR_low ..)
theorem rev8 (d a : BitVec 5) : Statement (.rev8 d a) := of_word rfl (mkR_low ..)
theorem bfxS (d a b : BitVec 5) : Statement (.bfxS d a b) := of_word rfl (mkR_low ..)
theorem bfxZ (d a b : BitVec 5) : Statement (.bfxZ d a b) := of_word rfl (mkR_low ..)
theorem bfi (d a b : BitVec 5) : Statement (.bfi d a b) := of_word rfl (mkR_low ..)
theorem sel (d a b c : BitVec 5) : Statement (.sel d a b c) := of_word rfl (mkR_low ..)
theorem addi (d a : BitVec 5) (i : BitVec 15) : Statement (.addi d a i) := of_word rfl (mkR_low ..)
theorem andi (d a : BitVec 5) (i : BitVec 15) : Statement (.andi d a i) := of_word rfl (mkR_low ..)
theorem ori (d a : BitVec 5) (i : BitVec 15) : Statement (.ori d a i) := of_word rfl (mkR_low ..)
theorem xori (d a : BitVec 5) (i : BitVec 15) : Statement (.xori d a i) := of_word rfl (mkR_low ..)
theorem slti (d a : BitVec 5) (i : BitVec 15) : Statement (.slti d a i) := of_word rfl (mkR_low ..)
theorem shiSll (d a : BitVec 5) (n : BitVec 6) : Statement (.shiSll d a n) := of_word rfl (mkR_low ..)
theorem shiSrl (d a : BitVec 5) (n : BitVec 6) : Statement (.shiSrl d a n) := of_word rfl (mkR_low ..)
theorem shiSra (d a : BitVec 5) (n : BitVec 6) : Statement (.shiSra d a n) := of_word rfl (mkR_low ..)
theorem shiRor (d a : BitVec 5) (n : BitVec 6) : Statement (.shiRor d a n) := of_word rfl (mkR_low ..)
theorem mul (d a b : BitVec 5) : Statement (.mul d a b) := of_word rfl (mkR_low ..)
theorem mulh (d a b : BitVec 5) : Statement (.mulh d a b) := of_word rfl (mkR_low ..)
theorem mulhz (d a b : BitVec 5) : Statement (.mulhz d a b) := of_word rfl (mkR_low ..)
theorem mulhsz (d a b : BitVec 5) : Statement (.mulhsz d a b) := of_word rfl (mkR_low ..)
theorem div (d a b : BitVec 5) : Statement (.div d a b) := of_word rfl (mkR_low ..)
theorem divz (d a b : BitVec 5) : Statement (.divz d a b) := of_word rfl (mkR_low ..)
theorem rem (d a b : BitVec 5) : Statement (.rem d a b) := of_word rfl (mkR_low ..)
theorem remz (d a b : BitVec 5) : Statement (.remz d a b) := of_word rfl (mkR_low ..)
theorem lui (d : BitVec 5) (i : BitVec 20) : Statement (.lui d i) := of_word rfl (mkR_low ..)
theorem addpc (d : BitVec 5) (i : BitVec 20) : Statement (.addpc d i) := of_word rfl (mkR_low ..)
theorem jal (d : BitVec 5) (i : BitVec 20) : Statement (.jal d i) := of_word rfl (mkR_low ..)
theorem jalr (d a : BitVec 5) (i : BitVec 15) : Statement (.jalr d a i) := of_word rfl (mkR_low ..)
theorem beq (a b : BitVec 5) (o : BitVec 10) (p : BitVec 5) : Statement (.beq a b o p) := of_word rfl (mkR_low ..)
theorem bne (a b : BitVec 5) (o : BitVec 10) (p : BitVec 5) : Statement (.bne a b o p) := of_word rfl (mkR_low ..)
theorem blt (a b : BitVec 5) (o : BitVec 10) (p : BitVec 5) : Statement (.blt a b o p) := of_word rfl (mkR_low ..)
theorem bge (a b : BitVec 5) (o : BitVec 10) (p : BitVec 5) : Statement (.bge a b o p) := of_word rfl (mkR_low ..)
theorem bltz (a b : BitVec 5) (o : BitVec 10) (p : BitVec 5) : Statement (.bltz a b o p) := of_word rfl (mkR_low ..)
theorem bgez (a b : BitVec 5) (o : BitVec 10) (p : BitVec 5) : Statement (.bgez a b o p) := of_word rfl (mkR_low ..)
theorem fadd (d a b : BitVec 5) (r : BitVec 3) : Statement (.fadd d a b r) := of_word rfl (mkR_low ..)
theorem fsub (d a b : BitVec 5) (r : BitVec 3) : Statement (.fsub d a b r) := of_word rfl (mkR_low ..)
theorem fmul (d a b : BitVec 5) (r : BitVec 3) : Statement (.fmul d a b r) := of_word rfl (mkR_low ..)
theorem fdiv (d a b : BitVec 5) (r : BitVec 3) : Statement (.fdiv d a b r) := of_word rfl (mkR_low ..)
theorem fsqrt (d a : BitVec 5) (r : BitVec 3) : Statement (.fsqrt d a r) := of_word rfl (mkR_low ..)
theorem fmin (d a b : BitVec 5) : Statement (.fmin d a b) := of_word rfl (mkR_low ..)
theorem fmax (d a b : BitVec 5) : Statement (.fmax d a b) := of_word rfl (mkR_low ..)
theorem fcpsgn (d a b : BitVec 5) : Statement (.fcpsgn d a b) := of_word rfl (mkR_low ..)
theorem fcpsgnn (d a b : BitVec 5) : Statement (.fcpsgnn d a b) := of_word rfl (mkR_low ..)
theorem fcpsgnx (d a b : BitVec 5) : Statement (.fcpsgnx d a b) := of_word rfl (mkR_low ..)
theorem feq (d a b : BitVec 5) : Statement (.feq d a b) := of_word rfl (mkR_low ..)
theorem flt (d a b : BitVec 5) : Statement (.flt d a b) := of_word rfl (mkR_low ..)
theorem fle (d a b : BitVec 5) : Statement (.fle d a b) := of_word rfl (mkR_low ..)
theorem fclass (d a : BitVec 5) : Statement (.fclass d a) := of_word rfl (mkR_low ..)
theorem fcvtF32Ty (d a : BitVec 5) (t : BitVec 2) (r : BitVec 3) : Statement (.fcvtF32Ty d a t r) := of_word rfl (mkR_low ..)
theorem fcvtTyF32 (d a : BitVec 5) (t : BitVec 2) (r : BitVec 3) : Statement (.fcvtTyF32 d a t r) := of_word rfl (mkR_low ..)
theorem fmvXF (d a : BitVec 5) : Statement (.fmvXF d a) := of_word rfl (mkR_low ..)
theorem fmvFX (d a : BitVec 5) : Statement (.fmvFX d a) := of_word rfl (mkR_low ..)
theorem fcvtF32Nfmt (d a : BitVec 5) (r : BitVec 3) (s : BitVec 1) (n : BitVec 3) : Statement (.fcvtF32Nfmt d a r s n) := of_word rfl (mkR_low ..)
theorem fcvtNfmtF32 (d a : BitVec 5) (n : BitVec 3) : Statement (.fcvtNfmtF32 d a n) := of_word rfl (mkR_low ..)
theorem ffma (d a b c : BitVec 5) (r : BitVec 3) : Statement (.ffma d a b c r) := of_word rfl (mkR_low ..)
theorem ffms (d a b c : BitVec 5) (r : BitVec 3) : Statement (.ffms d a b c r) := of_word rfl (mkR_low ..)
theorem fnma (d a b c : BitVec 5) (r : BitVec 3) : Statement (.fnma d a b c r) := of_word rfl (mkR_low ..)
theorem fnms (d a b c : BitVec 5) (r : BitVec 3) : Statement (.fnms d a b c r) := of_word rfl (mkR_low ..)
theorem csrr (d : BitVec 5) (k : BitVec 12) : Statement (.csrr d k) := of_word rfl (mkR_low ..)
theorem csrw (d a : BitVec 5) (k : BitVec 12) : Statement (.csrw d a k) := of_word rfl (mkR_low ..)
theorem csrs (d a : BitVec 5) (k : BitVec 12) : Statement (.csrs d a k) := of_word rfl (mkR_low ..)
theorem csrc (d a : BitVec 5) (k : BitVec 12) : Statement (.csrc d a k) := of_word rfl (mkR_low ..)
theorem safe (n : BitVec 8) : Statement (.safe n) := of_word rfl (mkR_low ..)
theorem yield : Statement .yield := of_word rfl (mkR_low ..)
theorem done : Statement .done := of_word rfl (mkR_low ..)
theorem svc (n : BitVec 8) : Statement (.svc n) := of_word rfl (mkR_low ..)
theorem trap (n : BitVec 8) : Statement (.trap n) := of_word rfl (mkR_low ..)
theorem ld (d a : BitVec 5) (i : BitVec 12) (s : BitVec 3) : Statement (.ld d a i s) := of_word rfl (mkR_low ..)
theorem st (a b : BitVec 5) (i : BitVec 7) (s : BitVec 3) (j : BitVec 5) : Statement (.st a b i s j) := of_word rfl (mkR_low ..)
theorem fldW (d a : BitVec 5) (i : BitVec 12) : Statement (.fldW d a i) := of_word rfl (mkR_low ..)
theorem fstW (d a : BitVec 5) (i : BitVec 12) : Statement (.fstW d a i) := of_word rfl (mkR_low ..)
theorem lds (d a : BitVec 5) (s : BitVec 3) (o : BitVec 5) : Statement (.lds d a s o) := of_word rfl (mkR_low ..)
theorem sts (a b : BitVec 5) (s : BitVec 2) (o : BitVec 5) : Statement (.sts a b s o) := of_word rfl (mkR_low ..)
theorem amoSwap (d a b : BitVec 5) (z : BitVec 1) (o : BitVec 5) : Statement (.amoSwap d a b z o) := of_word rfl (mkR_low ..)
theorem amoAdd (d a b : BitVec 5) (z : BitVec 1) (o : BitVec 5) : Statement (.amoAdd d a b z o) := of_word rfl (mkR_low ..)
theorem amoAnd (d a b : BitVec 5) (z : BitVec 1) (o : BitVec 5) : Statement (.amoAnd d a b z o) := of_word rfl (mkR_low ..)
theorem amoOr (d a b : BitVec 5) (z : BitVec 1) (o : BitVec 5) : Statement (.amoOr d a b z o) := of_word rfl (mkR_low ..)
theorem amoXor (d a b : BitVec 5) (z : BitVec 1) (o : BitVec 5) : Statement (.amoXor d a b z o) := of_word rfl (mkR_low ..)
theorem amoMin (d a b : BitVec 5) (z : BitVec 1) (o : BitVec 5) : Statement (.amoMin d a b z o) := of_word rfl (mkR_low ..)
theorem amoMax (d a b : BitVec 5) (z : BitVec 1) (o : BitVec 5) : Statement (.amoMax d a b z o) := of_word rfl (mkR_low ..)
theorem amoMinz (d a b : BitVec 5) (z : BitVec 1) (o : BitVec 5) : Statement (.amoMinz d a b z o) := of_word rfl (mkR_low ..)
theorem amoMaxz (d a b : BitVec 5) (z : BitVec 1) (o : BitVec 5) : Statement (.amoMaxz d a b z o) := of_word rfl (mkR_low ..)
theorem amoFadd (d a b o : BitVec 5) : Statement (.amoFadd d a b o) := of_word rfl (mkR_low ..)
theorem amoFmin (d a b o : BitVec 5) : Statement (.amoFmin d a b o) := of_word rfl (mkR_low ..)
theorem amoFmax (d a b o : BitVec 5) : Statement (.amoFmax d a b o) := of_word rfl (mkR_low ..)
theorem amocas (d a b c o : BitVec 5) : Statement (.amocas d a b c o) := of_word rfl (mkR_low ..)
theorem fence (o : BitVec 5) : Statement (.fence o) := of_word rfl (mkR_low ..)
theorem tadd (a b : BitVec 5) (s : BitVec 3) : Statement (.tadd a b s) := of_word rfl (mkR_low ..)
theorem tread (d a : BitVec 5) (s : BitVec 3) : Statement (.tread d a s) := of_word rfl (mkR_low ..)
theorem waitge (a b : BitVec 5) (s : BitVec 3) : Statement (.waitge a b s) := of_word rfl (mkR_low ..)
theorem msend (a b c : BitVec 5) : Statement (.msend a b c) := of_word rfl (mkR_low ..)
theorem msendp (d a b c : BitVec 5) : Statement (.msendp d a b c) := of_word rfl (mkR_low ..)
theorem tarm (a b c : BitVec 5) : Statement (.tarm a b c) := of_word rfl (mkR_low ..)
theorem tarmRep (a b c : BitVec 5) : Statement (.tarmRep a b c) := of_word rfl (mkR_low ..)
theorem tbind (a b c : BitVec 5) : Statement (.tbind a b c) := of_word rfl (mkR_low ..)
theorem tunbind (a : BitVec 5) : Statement (.tunbind a) := of_word rfl (mkR_low ..)
theorem tdis (a : BitVec 5) : Statement (.tdis a) := of_word rfl (mkR_low ..)
theorem ten (a : BitVec 5) : Statement (.ten a) := of_word rfl (mkR_low ..)
theorem tdec (a : BitVec 5) : Statement (.tdec a) := of_word rfl (mkR_low ..)
theorem tstat (d a : BitVec 5) : Statement (.tstat d a) := of_word rfl (mkR_low ..)
theorem tfcnt (d a : BitVec 5) : Statement (.tfcnt d a) := of_word rfl (mkR_low ..)
theorem tclrf (a : BitVec 5) : Statement (.tclrf a) := of_word rfl (mkR_low ..)
theorem hbind (a b : BitVec 5) : Statement (.hbind a b) := of_word rfl (mkR_low ..)
theorem bar (a b : BitVec 5) (s : BitVec 3) : Statement (.bar a b s) := of_word rfl (mkR_low ..)
theorem bara (d a b : BitVec 5) (s : BitVec 3) : Statement (.bara d a b s) := of_word rfl (mkR_low ..)
theorem barw (a b : BitVec 5) (s : BitVec 3) : Statement (.barw a b s) := of_word rfl (mkR_low ..)
theorem elect (d a b : BitVec 5) (s : BitVec 3) : Statement (.elect d a b s) := of_word rfl (mkR_low ..)
theorem spawn (d a b c : BitVec 5) : Statement (.spawn d a b c) := of_word rfl (mkR_low ..)
theorem dqcnt (d : BitVec 5) : Statement (.dqcnt d) := of_word rfl (mkR_low ..)
theorem vclaim (d a : BitVec 5) : Statement (.vclaim d a) := of_word rfl (mkR_low ..)
theorem vclaimTry (d a : BitVec 5) : Statement (.vclaimTry d a) := of_word rfl (mkR_low ..)
theorem vrel : Statement .vrel := of_word rfl (mkR_low ..)
theorem vwaitm (b : BitVec 5) : Statement (.vwaitm b) := of_word rfl (mkR_low ..)
theorem vld (d a : BitVec 5) (p : BitVec 3) : Statement (.vld d a p) := of_word rfl (mkR_low ..)
theorem vlds (d a b : BitVec 5) (p : BitVec 3) : Statement (.vlds d a b p) := of_word rfl (mkR_low ..)
theorem vldg (d a b : BitVec 5) (p : BitVec 3) : Statement (.vldg d a b p) := of_word rfl (mkR_low ..)
theorem vldt (d a b : BitVec 5) (k : BitVec 2) (p : BitVec 3) : Statement (.vldt d a b k p) := of_word rfl (mkR_low ..)
theorem vst (d a : BitVec 5) (p : BitVec 3) : Statement (.vst d a p) := of_word rfl (mkR_low ..)
theorem vsts (d a b : BitVec 5) (p : BitVec 3) : Statement (.vsts d a b p) := of_word rfl (mkR_low ..)
theorem vstg (d a b : BitVec 5) (p : BitVec 3) : Statement (.vstg d a b p) := of_word rfl (mkR_low ..)
theorem vstt (d a b : BitVec 5) (k : BitVec 2) (p : BitVec 3) : Statement (.vstt d a b k p) := of_word rfl (mkR_low ..)
theorem vadd (d a b : BitVec 5) (w : BitVec 2) (p : BitVec 3) : Statement (.vadd d a b w p) := of_word rfl (mkR_low ..)
theorem vsub (d a b : BitVec 5) (w : BitVec 2) (p : BitVec 3) : Statement (.vsub d a b w p) := of_word rfl (mkR_low ..)
theorem vmul (d a b : BitVec 5) (w : BitVec 2) (p : BitVec 3) : Statement (.vmul d a b w p) := of_word rfl (mkR_low ..)
theorem vmulh (d a b : BitVec 5) (w : BitVec 2) (p : BitVec 3) : Statement (.vmulh d a b w p) := of_word rfl (mkR_low ..)
theorem vmulhz (d a b : BitVec 5) (w : BitVec 2) (p : BitVec 3) : Statement (.vmulhz d a b w p) := of_word rfl (mkR_low ..)
theorem vand (d a b : BitVec 5) (w : BitVec 2) (p : BitVec 3) : Statement (.vand d a b w p) := of_word rfl (mkR_low ..)
theorem vor (d a b : BitVec 5) (w : BitVec 2) (p : BitVec 3) : Statement (.vor d a b w p) := of_word rfl (mkR_low ..)
theorem vxor (d a b : BitVec 5) (w : BitVec 2) (p : BitVec 3) : Statement (.vxor d a b w p) := of_word rfl (mkR_low ..)
theorem vandn (d a b : BitVec 5) (w : BitVec 2) (p : BitVec 3) : Statement (.vandn d a b w p) := of_word rfl (mkR_low ..)
theorem vsll (d a b : BitVec 5) (w : BitVec 2) (p : BitVec 3) : Statement (.vsll d a b w p) := of_word rfl (mkR_low ..)
theorem vsrl (d a b : BitVec 5) (w : BitVec 2) (p : BitVec 3) : Statement (.vsrl d a b w p) := of_word rfl (mkR_low ..)
theorem vsra (d a b : BitVec 5) (w : BitVec 2) (p : BitVec 3) : Statement (.vsra d a b w p) := of_word rfl (mkR_low ..)
theorem vmin (d a b : BitVec 5) (w : BitVec 2) (p : BitVec 3) : Statement (.vmin d a b w p) := of_word rfl (mkR_low ..)
theorem vmax (d a b : BitVec 5) (w : BitVec 2) (p : BitVec 3) : Statement (.vmax d a b w p) := of_word rfl (mkR_low ..)
theorem vminz (d a b : BitVec 5) (w : BitVec 2) (p : BitVec 3) : Statement (.vminz d a b w p) := of_word rfl (mkR_low ..)
theorem vmaxz (d a b : BitVec 5) (w : BitVec 2) (p : BitVec 3) : Statement (.vmaxz d a b w p) := of_word rfl (mkR_low ..)
theorem vaddSat (d a b : BitVec 5) (w : BitVec 2) (p : BitVec 3) : Statement (.vaddSat d a b w p) := of_word rfl (mkR_low ..)
theorem vaddzSat (d a b : BitVec 5) (w : BitVec 2) (p : BitVec 3) : Statement (.vaddzSat d a b w p) := of_word rfl (mkR_low ..)
theorem vsubSat (d a b : BitVec 5) (w : BitVec 2) (p : BitVec 3) : Statement (.vsubSat d a b w p) := of_word rfl (mkR_low ..)
theorem vsubzSat (d a b : BitVec 5) (w : BitVec 2) (p : BitVec 3) : Statement (.vsubzSat d a b w p) := of_word rfl (mkR_low ..)
theorem vmac (d a b : BitVec 5) (w : BitVec 2) (p : BitVec 3) : Statement (.vmac d a b w p) := of_word rfl (mkR_low ..)
theorem vdot (d a b : BitVec 5) (w : BitVec 2) (p : BitVec 3) : Statement (.vdot d a b w p) := of_word rfl (mkR_low ..)
theorem vdotz (d a b : BitVec 5) (w : BitVec 2) (p : BitVec 3) : Statement (.vdotz d a b w p) := of_word rfl (mkR_low ..)
theorem vsel (d a b : BitVec 5) (w : BitVec 2) (p : BitVec 3) : Statement (.vsel d a b w p) := of_word rfl (mkR_low ..)
theorem vfadd (d a b : BitVec 5) (t : BitVec 2) (p : BitVec 3) : Statement (.vfadd d a b t p) := of_word rfl (mkR_low ..)
theorem vfsub (d a b : BitVec 5) (t : BitVec 2) (p : BitVec 3) : Statement (.vfsub d a b t p) := of_word rfl (mkR_low ..)
theorem vfmul (d a b : BitVec 5) (t : BitVec 2) (p : BitVec 3) : Statement (.vfmul d a b t p) := of_word rfl (mkR_low ..)
theorem vfma (d a b : BitVec 5) (t : BitVec 2) (p : BitVec 3) : Statement (.vfma d a b t p) := of_word rfl (mkR_low ..)
theorem vfnma (d a b : BitVec 5) (t : BitVec 2) (p : BitVec 3) : Statement (.vfnma d a b t p) := of_word rfl (mkR_low ..)
theorem vfmin (d a b : BitVec 5) (t : BitVec 2) (p : BitVec 3) : Statement (.vfmin d a b t p) := of_word rfl (mkR_low ..)
theorem vfmax (d a b : BitVec 5) (t : BitVec 2) (p : BitVec 3) : Statement (.vfmax d a b t p) := of_word rfl (mkR_low ..)
theorem vfcpsgn (d a b : BitVec 5) (t : BitVec 2) (p : BitVec 3) : Statement (.vfcpsgn d a b t p) := of_word rfl (mkR_low ..)
theorem vcmpeq (d : BitVec 3) (a b : BitVec 5) (p : BitVec 3) : Statement (.vcmpeq d a b p) := of_word rfl (mkR_low ..)
theorem vcmpne (d : BitVec 3) (a b : BitVec 5) (p : BitVec 3) : Statement (.vcmpne d a b p) := of_word rfl (mkR_low ..)
theorem vcmplt (d : BitVec 3) (a b : BitVec 5) (p : BitVec 3) : Statement (.vcmplt d a b p) := of_word rfl (mkR_low ..)
theorem vcmple (d : BitVec 3) (a b : BitVec 5) (p : BitVec 3) : Statement (.vcmple d a b p) := of_word rfl (mkR_low ..)
theorem vcmpltz (d : BitVec 3) (a b : BitVec 5) (p : BitVec 3) : Statement (.vcmpltz d a b p) := of_word rfl (mkR_low ..)
theorem vcmplez (d : BitVec 3) (a b : BitVec 5) (p : BitVec 3) : Statement (.vcmplez d a b p) := of_word rfl (mkR_low ..)
theorem vfcmpeq (d : BitVec 3) (a b : BitVec 5) (p : BitVec 3) : Statement (.vfcmpeq d a b p) := of_word rfl (mkR_low ..)
theorem vfcmplt (d : BitVec 3) (a b : BitVec 5) (p : BitVec 3) : Statement (.vfcmplt d a b p) := of_word rfl (mkR_low ..)
theorem vfcmple (d : BitVec 3) (a b : BitVec 5) (p : BitVec 3) : Statement (.vfcmple d a b p) := of_word rfl (mkR_low ..)
theorem vfcmpun (d : BitVec 3) (a b : BitVec 5) (p : BitVec 3) : Statement (.vfcmpun d a b p) := of_word rfl (mkR_low ..)
theorem pand (d a b : BitVec 3) : Statement (.pand d a b) := of_word rfl (mkR_low ..)
theorem por (d a b : BitVec 3) : Statement (.por d a b) := of_word rfl (mkR_low ..)
theorem pxor (d a b : BitVec 3) : Statement (.pxor d a b) := of_word rfl (mkR_low ..)
theorem pandn (d a b : BitVec 3) : Statement (.pandn d a b) := of_word rfl (mkR_low ..)
theorem pnot (d a : BitVec 3) : Statement (.pnot d a) := of_word rfl (mkR_low ..)
theorem pwhile (d : BitVec 3) (a : BitVec 5) : Statement (.pwhile d a) := of_word rfl (mkR_low ..)
theorem pcnt (d : BitVec 5) (a : BitVec 3) : Statement (.pcnt d a) := of_word rfl (mkR_low ..)
theorem vperm (d a b : BitVec 5) (p : BitVec 3) : Statement (.vperm d a b p) := of_word rfl (mkR_low ..)
theorem vslideUp (d a b : BitVec 5) (p : BitVec 3) : Statement (.vslideUp d a b p) := of_word rfl (mkR_low ..)
theorem vslideDn (d a b : BitVec 5) (p : BitVec 3) : Statement (.vslideDn d a b p) := of_word rfl (mkR_low ..)
theorem vbcast (d a : BitVec 5) (p : BitVec 3) : Statement (.vbcast d a p) := of_word rfl (mkR_low ..)
theorem vbcastE (d a b : BitVec 5) (p : BitVec 3) : Statement (.vbcastE d a b p) := of_word rfl (mkR_low ..)
theorem vins (d a b : BitVec 5) : Statement (.vins d a b) := of_word rfl (mkR_low ..)
theorem vext (d a b : BitVec 5) : Statement (.vext d a b) := of_word rfl (mkR_low ..)
theorem vredadd (d a : BitVec 5) (p : BitVec 3) : Statement (.vredadd d a p) := of_word rfl (mkR_low ..)
theorem vredmin (d a : BitVec 5) (p : BitVec 3) : Statement (.vredmin d a p) := of_word rfl (mkR_low ..)
theorem vredmax (d a : BitVec 5) (p : BitVec 3) : Statement (.vredmax d a p) := of_word rfl (mkR_low ..)
theorem vredminz (d a : BitVec 5) (p : BitVec 3) : Statement (.vredminz d a p) := of_word rfl (mkR_low ..)
theorem vredmaxz (d a : BitVec 5) (p : BitVec 3) : Statement (.vredmaxz d a p) := of_word rfl (mkR_low ..)
theorem vredand (d a : BitVec 5) (p : BitVec 3) : Statement (.vredand d a p) := of_word rfl (mkR_low ..)
theorem vredor (d a : BitVec 5) (p : BitVec 3) : Statement (.vredor d a p) := of_word rfl (mkR_low ..)
theorem vredxor (d a : BitVec 5) (p : BitVec 3) : Statement (.vredxor d a p) := of_word rfl (mkR_low ..)
theorem vfredadd (d a : BitVec 5) (p : BitVec 3) : Statement (.vfredadd d a p) := of_word rfl (mkR_low ..)
theorem vfredmin (d a : BitVec 5) (p : BitVec 3) : Statement (.vfredmin d a p) := of_word rfl (mkR_low ..)
theorem vfredmax (d a : BitVec 5) (p : BitVec 3) : Statement (.vfredmax d a p) := of_word rfl (mkR_low ..)
theorem vcvtF32Bf16 (d a b : BitVec 5) (s : BitVec 1) (r : BitVec 3) : Statement (.vcvtF32Bf16 d a b s r) := of_word rfl (mkR_low ..)
theorem vcvtF32F16 (d a b : BitVec 5) (s : BitVec 1) (r : BitVec 3) : Statement (.vcvtF32F16 d a b s r) := of_word rfl (mkR_low ..)
theorem vcvtF32E4m3 (d a b : BitVec 5) (s : BitVec 1) (r : BitVec 3) : Statement (.vcvtF32E4m3 d a b s r) := of_word rfl (mkR_low ..)
theorem vcvtF32E5m2 (d a b : BitVec 5) (s : BitVec 1) (r : BitVec 3) : Statement (.vcvtF32E5m2 d a b s r) := of_word rfl (mkR_low ..)
theorem vcvtF32E2m1 (d a b : BitVec 5) (s : BitVec 1) (r : BitVec 3) : Statement (.vcvtF32E2m1 d a b s r) := of_word rfl (mkR_low ..)
theorem vcvtBf16F32 (d a : BitVec 5) : Statement (.vcvtBf16F32 d a) := of_word rfl (mkR_low ..)
theorem vcvtF16F32 (d a : BitVec 5) : Statement (.vcvtF16F32 d a) := of_word rfl (mkR_low ..)
theorem vcvtE4m3F32 (d a : BitVec 5) : Statement (.vcvtE4m3F32 d a) := of_word rfl (mkR_low ..)
theorem vcvtE5m2F32 (d a : BitVec 5) : Statement (.vcvtE5m2F32 d a) := of_word rfl (mkR_low ..)
theorem vcvtE2m1F32 (d a : BitVec 5) : Statement (.vcvtE2m1F32 d a) := of_word rfl (mkR_low ..)
theorem vcvtS32F32 (d a : BitVec 5) (r : BitVec 3) : Statement (.vcvtS32F32 d a r) := of_word rfl (mkR_low ..)
theorem vcvtZ32F32 (d a : BitVec 5) (r : BitVec 3) : Statement (.vcvtZ32F32 d a r) := of_word rfl (mkR_low ..)
theorem vcvtF32S32 (d a : BitVec 5) (r : BitVec 3) : Statement (.vcvtF32S32 d a r) := of_word rfl (mkR_low ..)
theorem vcvtF32Z32 (d a : BitVec 5) (r : BitVec 3) : Statement (.vcvtF32Z32 d a r) := of_word rfl (mkR_low ..)
theorem vcvtS32S16x2 (d a : BitVec 5) (s : BitVec 1) : Statement (.vcvtS32S16x2 d a s) := of_word rfl (mkR_low ..)
theorem vcvtZ32Z16x2 (d a : BitVec 5) (s : BitVec 1) : Statement (.vcvtZ32Z16x2 d a s) := of_word rfl (mkR_low ..)
theorem vcvtS32S8x4 (d a : BitVec 5) (s : BitVec 1) : Statement (.vcvtS32S8x4 d a s) := of_word rfl (mkR_low ..)
theorem vcvtZ32Z8x4 (d a : BitVec 5) (s : BitVec 1) : Statement (.vcvtZ32Z8x4 d a s) := of_word rfl (mkR_low ..)
theorem vcvtS16x2S32 (d a : BitVec 5) : Statement (.vcvtS16x2S32 d a) := of_word rfl (mkR_low ..)
theorem vcvtZ16x2Z32 (d a : BitVec 5) : Statement (.vcvtZ16x2Z32 d a) := of_word rfl (mkR_low ..)
theorem vcvtS8x4S32 (d a : BitVec 5) : Statement (.vcvtS8x4S32 d a) := of_word rfl (mkR_low ..)
theorem vcvtZ8x4Z32 (d a : BitVec 5) : Statement (.vcvtZ8x4Z32 d a) := of_word rfl (mkR_low ..)
theorem vexp2 (d a : BitVec 5) (p : BitVec 3) : Statement (.vexp2 d a p) := of_word rfl (mkR_low ..)
theorem vlog2 (d a : BitVec 5) (p : BitVec 3) : Statement (.vlog2 d a p) := of_word rfl (mkR_low ..)
theorem vrcp (d a : BitVec 5) (p : BitVec 3) : Statement (.vrcp d a p) := of_word rfl (mkR_low ..)
theorem vrsqrt (d a : BitVec 5) (p : BitVec 3) : Statement (.vrsqrt d a p) := of_word rfl (mkR_low ..)
theorem vtanh (d a : BitVec 5) (p : BitVec 3) : Statement (.vtanh d a p) := of_word rfl (mkR_low ..)
theorem vsigm (d a : BitVec 5) (p : BitVec 3) : Statement (.vsigm d a p) := of_word rfl (mkR_low ..)
theorem vsin (d a : BitVec 5) (p : BitVec 3) : Statement (.vsin d a p) := of_word rfl (mkR_low ..)
theorem vcos (d a : BitVec 5) (p : BitVec 3) : Statement (.vcos d a p) := of_word rfl (mkR_low ..)
theorem mma (d a b c : BitVec 5) (q : BitVec 2) (p : BitVec 3) : Statement (.mma d a b c q p) := of_word rfl (mkR_low ..)
theorem mmab (d a b c : BitVec 5) (q : BitVec 2) (p : BitVec 3) : Statement (.mmab d a b c q p) := of_word rfl (mkR_low ..)
theorem zclr (d : BitVec 5) (f : BitVec 2) : Statement (.zclr d f) := of_word rfl (mkR_low ..)
theorem zld (d a : BitVec 5) (f : BitVec 2) : Statement (.zld d a f) := of_word rfl (mkR_low ..)
theorem zst (d a : BitVec 5) (r : BitVec 3) (f : BitVec 2) (s : BitVec 1) (t : BitVec 3) : Statement (.zst d a r f s t) := of_word rfl (mkR_low ..)
theorem mwait (a : BitVec 5) : Statement (.mwait a) := of_word rfl (mkR_low ..)
theorem wldPlain (d : BitVec 1) (a c : BitVec 5) : Statement (.wldPlain d a c) := of_word rfl (mkR_low ..)
theorem wldXpb4 (d : BitVec 1) (a b c : BitVec 5) : Statement (.wldXpb4 d a b c) := of_word rfl (mkR_low ..)
theorem wldXpb5 (d : BitVec 1) (a b c : BitVec 5) : Statement (.wldXpb5 d a b c) := of_word rfl (mkR_low ..)
theorem qpush (d a b c : BitVec 5) : Statement (.qpush d a b c) := of_word rfl (mkR_low ..)
theorem qtry (d a b c : BitVec 5) : Statement (.qtry d a b c) := of_word rfl (mkR_low ..)
theorem rset (d : BitVec 4) (a b : BitVec 5) : Statement (.rset d a b) := of_word rfl (mkR_low ..)
theorem rwaitf (d : BitVec 4) (a : BitVec 5) : Statement (.rwaitf d a) := of_word rfl (mkR_low ..)
theorem rwaite (d : BitVec 4) (a : BitVec 5) : Statement (.rwaite d a) := of_word rfl (mkR_low ..)
theorem radvp (d : BitVec 4) (a : BitVec 5) : Statement (.radvp d a) := of_word rfl (mkR_low ..)
theorem radvc (d : BitVec 4) (a : BitVec 5) : Statement (.radvc d a) := of_word rfl (mkR_low ..)
theorem rstat (d : BitVec 5) (a : BitVec 4) : Statement (.rstat d a) := of_word rfl (mkR_low ..)
theorem halo (a b : BitVec 5) : Statement (.halo a b) := of_word rfl (mkR_low ..)
theorem xreg (d a b : BitVec 5) : Statement (.xreg d a b) := of_word rfl (mkR_low ..)
theorem xroute (d a b c : BitVec 5) : Statement (.xroute d a b c) := of_word rfl (mkR_low ..)
theorem xgate (d a b : BitVec 5) (s : BitVec 3) : Statement (.xgate d a b s) := of_word rfl (mkR_low ..)
theorem xgrad (a b c : BitVec 5) : Statement (.xgrad a b c) := of_word rfl (mkR_low ..)
theorem xjoin (d a b : BitVec 5) : Statement (.xjoin d a b) := of_word rfl (mkR_low ..)
theorem xstat (d a b : BitVec 5) : Statement (.xstat d a b) := of_word rfl (mkR_low ..)
theorem xpol (d a b c : BitVec 5) : Statement (.xpol d a b c) := of_word rfl (mkR_low ..)
theorem xdrop (d a : BitVec 5) : Statement (.xdrop d a) := of_word rfl (mkR_low ..)
theorem vwdef (d a c : BitVec 5) : Statement (.vwdef d a c) := of_word rfl (mkR_low ..)
theorem vwdrop (d a : BitVec 5) : Statement (.vwdrop d a) := of_word rfl (mkR_low ..)
theorem vwrd (d a b c : BitVec 5) : Statement (.vwrd d a b c) := of_word rfl (mkR_low ..)
theorem vwtag (d a b : BitVec 5) : Statement (.vwtag d a b) := of_word rfl (mkR_low ..)
theorem vwpub (d a : BitVec 5) : Statement (.vwpub d a) := of_word rfl (mkR_low ..)
theorem vwpol (d a b c : BitVec 5) : Statement (.vwpol d a b c) := of_word rfl (mkR_low ..)
theorem vwsync (a b : BitVec 5) : Statement (.vwsync a b) := of_word rfl (mkR_low ..)
theorem stgdef (d a : BitVec 5) : Statement (.stgdef d a) := of_word rfl (mkR_low ..)
theorem stggo (d a : BitVec 5) : Statement (.stggo d a) := of_word rfl (mkR_low ..)
theorem stgstop (d : BitVec 5) : Statement (.stgstop d) := of_word rfl (mkR_low ..)
theorem stgpost (d a b c : BitVec 5) : Statement (.stgpost d a b c) := of_word rfl (mkR_low ..)
theorem stgstash (d a : BitVec 5) : Statement (.stgstash d a) := of_word rfl (mkR_low ..)
theorem stgbub (d a : BitVec 5) : Statement (.stgbub d a) := of_word rfl (mkR_low ..)
theorem launch (d a b : BitVec 5) : Statement (.launch d a b) := of_word rfl (mkR_low ..)
theorem cqpost (d a b : BitVec 5) : Statement (.cqpost d a b) := of_word rfl (mkR_low ..)
theorem cqwait (d a b : BitVec 5) : Statement (.cqwait d a b) := of_word rfl (mkR_low ..)
theorem cAddi (d : BitVec 5) (i : BitVec 6) : Statement (.cAddi d i) := of_compact rfl (mkC_low ..)
theorem cLi (d : BitVec 5) (i : BitVec 6) : Statement (.cLi d i) := of_compact rfl (mkC_low ..)
theorem cMv (d a : BitVec 5) : Statement (.cMv d a) := of_compact rfl (mkC_low ..)
theorem cAdd (d a : BitVec 5) : Statement (.cAdd d a) := of_compact rfl (mkC_low ..)
theorem cSub (d a : BitVec 5) : Statement (.cSub d a) := of_compact rfl (mkC_low ..)
theorem cAnd (d a : BitVec 5) : Statement (.cAnd d a) := of_compact rfl (mkC_low ..)
theorem cSlli (d : BitVec 5) (n : BitVec 6) : Statement (.cSlli d n) := of_compact rfl (mkC_low ..)
theorem cLdd (d : BitVec 5) (i : BitVec 6) : Statement (.cLdd d i) := of_compact rfl (mkC_low ..)
theorem cStd (b : BitVec 5) (i : BitVec 6) : Statement (.cStd b i) := of_compact rfl (mkC_low ..)
theorem cLdw (d a : BitVec 3) (u : BitVec 5) : Statement (.cLdw d a u) := of_compact rfl (mkC_low ..)
theorem cStw (a b : BitVec 3) (u : BitVec 5) : Statement (.cStw a b u) := of_compact rfl (mkC_low ..)
theorem cBeqz (a : BitVec 5) (i : BitVec 6) : Statement (.cBeqz a i) := of_compact rfl (mkC_low ..)
theorem cBnez (a : BitVec 5) (i : BitVec 6) : Statement (.cBnez a i) := of_compact rfl (mkC_low ..)
theorem cJ (o : BitVec 11) : Statement (.cJ o) := of_compact rfl (mkC_low ..)
theorem cJr (a : BitVec 5) : Statement (.cJr a) := of_compact rfl (mkC_low ..)
theorem cSafe (n : BitVec 8) : Statement (.cSafe n) := of_compact rfl (mkC_low ..)
theorem messageArrival : Statement .messageArrival := of_unit rfl
theorem heldDecrement : Statement .heldDecrement := of_unit rfl
theorem taskStart : Statement .taskStart := of_unit rfl
theorem creationHoldRelease : Statement .creationHoldRelease := of_unit rfl
theorem taskPromotion : Statement .taskPromotion := of_unit rfl
theorem evictedTaskReady : Statement .evictedTaskReady := of_unit rfl
theorem stealRequest : Statement .stealRequest := of_unit rfl
theorem stealBackoff : Statement .stealBackoff := of_unit rfl
theorem stealHandover : Statement .stealHandover := of_unit rfl
theorem remoteAccess : Statement .remoteAccess := of_unit rfl
theorem remoteReply : Statement .remoteReply := of_unit rfl
theorem combiningDrainTimeout : Statement .combiningDrainTimeout := of_unit rfl
theorem pageWalkComplete : Statement .pageWalkComplete := of_unit rfl
theorem memoryAgentRequest : Statement .memoryAgentRequest := of_unit rfl
theorem writeReport : Statement .writeReport := of_unit rfl
theorem waitTimeout : Statement .waitTimeout := of_unit rfl
theorem claimGrant : Statement .claimGrant := of_unit rfl
theorem vmemPerformed : Statement .vmemPerformed := of_unit rfl
theorem sfuResult : Statement .sfuResult := of_unit rfl
theorem matrixSelect : Statement .matrixSelect := of_unit rfl
theorem operandsConsumed : Statement .operandsConsumed := of_unit rfl
theorem matrixComplete : Statement .matrixComplete := of_unit rfl
theorem copyTurn : Statement .copyTurn := of_unit rfl
theorem copyRequestComplete : Statement .copyRequestComplete := of_unit rfl
theorem remoteWritePacket : Statement .remoteWritePacket := of_unit rfl
theorem writeAcknowledgement : Statement .writeAcknowledgement := of_unit rfl
theorem blockRegeneration : Statement .blockRegeneration := of_unit rfl
theorem regenerationComplete : Statement .regenerationComplete := of_unit rfl
theorem tokenDecision : Statement .tokenDecision := of_unit rfl
theorem heldTokenRedecision : Statement .heldTokenRedecision := of_unit rfl
theorem windowEnd : Statement .windowEnd := of_unit rfl
theorem versionChange : Statement .versionChange := of_unit rfl
theorem partialArrival : Statement .partialArrival := of_unit rfl
theorem dcqReservation : Statement .dcqReservation := of_unit rfl
theorem doorbell : Statement .doorbell := of_unit rfl
theorem hostQueueFetch : Statement .hostQueueFetch := of_unit rfl
theorem dcqNop : Statement .dcqNop := of_unit rfl
theorem dcqLaunch : Statement .dcqLaunch := of_unit rfl
theorem dcqTiles : Statement .dcqTiles := of_unit rfl
theorem dcqCollectiveStep : Statement .dcqCollectiveStep := of_unit rfl
theorem dcqWait : Statement .dcqWait := of_unit rfl
theorem dcqBranch : Statement .dcqBranch := of_unit rfl
theorem dcqSignal : Statement .dcqSignal := of_unit rfl
theorem dcqFence : Statement .dcqFence := of_unit rfl
theorem dcqReservedCommand : Statement .dcqReservedCommand := of_unit rfl
theorem commandTlcAdd : Statement .commandTlcAdd := of_unit rfl
theorem trailEntryStart : Statement .trailEntryStart := of_unit rfl
theorem trailEntryComplete : Statement .trailEntryComplete := of_unit rfl
theorem trailPostArrival : Statement .trailPostArrival := of_unit rfl
theorem slotReturn : Statement .slotReturn := of_unit rfl
theorem barrierArrival : Statement .barrierArrival := of_unit rfl
theorem barrierReply : Statement .barrierReply := of_unit rfl
theorem completionMulticast : Statement .completionMulticast := of_unit rfl
theorem barrierDoneFlit : Statement .barrierDoneFlit := of_unit rfl
theorem flitReceive : Statement .flitReceive := of_unit rfl
theorem ackReceive : Statement .ackReceive := of_unit rfl
theorem nakReceive : Statement .nakReceive := of_unit rfl
theorem ackTimer : Statement .ackTimer := of_unit rfl
theorem nakResendTimeout : Statement .nakResendTimeout := of_unit rfl
theorem replayTimeout : Statement .replayTimeout := of_unit rfl
theorem laneFailure : Statement .laneFailure := of_unit rfl
theorem retrainingEnd : Statement .retrainingEnd := of_unit rfl
theorem trainingRetry : Statement .trainingRetry := of_unit rfl
theorem retrain : Statement .retrain := of_unit rfl
theorem hold : Statement .hold := of_unit rfl
theorem fabricHopFailure : Statement .fabricHopFailure := of_unit rfl
theorem uncorrectableError : Statement .uncorrectableError := of_unit rfl
theorem apertureAccess : Statement .apertureAccess := of_unit rfl
theorem create : Statement .create := of_unit rfl
theorem halt : Statement .halt := of_unit rfl
theorem save : Statement .save := of_unit rfl
theorem restore : Statement .restore := of_unit rfl
theorem resume : Statement .resume := of_unit rfl
theorem destroy : Statement .destroy := of_unit rfl
theorem realmCommandInvalid : Statement .realmCommandInvalid := of_unit rfl
theorem haltComplete : Statement .haltComplete := of_unit rfl
theorem saveComplete : Statement .saveComplete := of_unit rfl
theorem restoreComplete : Statement .restoreComplete := of_unit rfl
theorem haltLimit : Statement .haltLimit := of_unit rfl
theorem saveLimit : Statement .saveLimit := of_unit rfl
theorem restoreLimit : Statement .restoreLimit := of_unit rfl
theorem invctlStart : Statement .invctlStart := of_unit rfl
theorem invalidationEnd : Statement .invalidationEnd := of_unit rfl
theorem registerWrite : Statement .registerWrite := of_unit rfl
theorem ltolWrite : Statement .ltolWrite := of_unit rfl
theorem idlePowerEntry : Statement .idlePowerEntry := of_unit rfl
theorem wakeEvent : Statement .wakeEvent := of_unit rfl
theorem hostLinkDown : Statement .hostLinkDown := of_unit rfl
theorem hostLinkRestored : Statement .hostLinkRestored := of_unit rfl
theorem hostReadTimeout : Statement .hostReadTimeout := of_unit rfl
theorem mgmtRequest : Statement .mgmtRequest := of_unit rfl
theorem firmwareUpdate : Statement .firmwareUpdate := of_unit rfl
theorem getMeasurements : Statement .getMeasurements := of_unit rfl
theorem moduleReset : Statement .moduleReset := of_unit rfl
theorem wdogStallLimit : Statement .wdogStallLimit := of_unit rfl
theorem wdogT1Expiry : Statement .wdogT1Expiry := of_unit rfl
theorem wdogKillsComplete : Statement .wdogKillsComplete := of_unit rfl
theorem wdogT2Expiry : Statement .wdogT2Expiry := of_unit rfl
theorem trapRecordDispatch : Statement .trapRecordDispatch := of_unit rfl
theorem svcDispatch : Statement .svcDispatch := of_unit rfl
theorem flushingReadComplete : Statement .flushingReadComplete := of_unit rfl
theorem correctedError : Statement .correctedError := of_unit rfl

end Sys2Proof.Laws.LengthBit
end

