-- ==== Sys2Proof/Laws/Rest.lean ====
section
/-! SUPPORT. The lemmas of Laws/State.lean for the fields of the units, networks, ports and host that it does not name: what each named
update leaves alone, one lemma per field. -/

namespace Sys2Proof.Machine.State

/-! ### wx -/

@[simp] theorem wx_handlers (s : State) (r : BitVec 5) (v : Word) : (s.wx r v).handlers = s.handlers := by unfold State.wx; split <;> rfl
@[simp] theorem wx_rings (s : State) (r : BitVec 5) (v : Word) : (s.wx r v).rings = s.rings := by unfold State.wx; split <;> rfl
@[simp] theorem wx_doneTab (s : State) (r : BitVec 5) (v : Word) : (s.wx r v).doneTab = s.doneTab := by unfold State.wx; split <;> rfl
@[simp] theorem wx_emem (s : State) (r : BitVec 5) (v : Word) : (s.wx r v).emem = s.emem := by unfold State.wx; split <;> rfl
@[simp] theorem wx_epoison (s : State) (r : BitVec 5) (v : Word) : (s.wx r v).epoison = s.epoison := by unfold State.wx; split <;> rfl
@[simp] theorem wx_unitSeq (s : State) (r : BitVec 5) (v : Word) : (s.wx r v).unitSeq = s.unitSeq := by unfold State.wx; split <;> rfl
@[simp] theorem wx_barInsts (s : State) (r : BitVec 5) (v : Word) : (s.wx r v).barInsts = s.barInsts := by unfold State.wx; split <;> rfl
@[simp] theorem wx_views (s : State) (r : BitVec 5) (v : Word) : (s.wx r v).views = s.views := by unfold State.wx; split <;> rfl
@[simp] theorem wx_vblocks (s : State) (r : BitVec 5) (v : Word) : (s.wx r v).vblocks = s.vblocks := by unfold State.wx; split <;> rfl
@[simp] theorem wx_masters (s : State) (r : BitVec 5) (v : Word) : (s.wx r v).masters = s.masters := by unfold State.wx; split <;> rfl
@[simp] theorem wx_experts (s : State) (r : BitVec 5) (v : Word) : (s.wx r v).experts = s.experts := by unfold State.wx; split <;> rfl
@[simp] theorem wx_keyNext (s : State) (r : BitVec 5) (v : Word) : (s.wx r v).keyNext = s.keyNext := by unfold State.wx; split <;> rfl
@[simp] theorem wx_grpNext (s : State) (r : BitVec 5) (v : Word) : (s.wx r v).grpNext = s.grpNext := by unfold State.wx; split <;> rfl
@[simp] theorem wx_replies (s : State) (r : BitVec 5) (v : Word) : (s.wx r v).replies = s.replies := by unfold State.wx; split <;> rfl
@[simp] theorem wx_unitLines (s : State) (r : BitVec 5) (v : Word) : (s.wx r v).unitLines = s.unitLines := by unfold State.wx; split <;> rfl
@[simp] theorem wx_meeting (s : State) (r : BitVec 5) (v : Word) : (s.wx r v).meeting = s.meeting := by unfold State.wx; split <;> rfl
@[simp] theorem wx_hostOut (s : State) (r : BitVec 5) (v : Word) : (s.wx r v).hostOut = s.hostOut := by unfold State.wx; split <;> rfl
@[simp] theorem wx_barNet (s : State) (r : BitVec 5) (v : Word) : (s.wx r v).barNet = s.barNet := by unfold State.wx; split <;> rfl
@[simp] theorem wx_barReps (s : State) (r : BitVec 5) (v : Word) : (s.wx r v).barReps = s.barReps := by unfold State.wx; split <;> rfl
@[simp] theorem wx_barDones (s : State) (r : BitVec 5) (v : Word) : (s.wx r v).barDones = s.barDones := by unfold State.wx; split <;> rfl
@[simp] theorem wx_doneFlits (s : State) (r : BitVec 5) (v : Word) : (s.wx r v).doneFlits = s.doneFlits := by unfold State.wx; split <;> rfl
@[simp] theorem wx_slotRets (s : State) (r : BitVec 5) (v : Word) : (s.wx r v).slotRets = s.slotRets := by unfold State.wx; split <;> rfl
@[simp] theorem wx_sentMsgs (s : State) (r : BitVec 5) (v : Word) : (s.wx r v).sentMsgs = s.sentMsgs := by unfold State.wx; split <;> rfl
@[simp] theorem wx_route (s : State) (r : BitVec 5) (v : Word) : (s.wx r v).route = s.route := by unfold State.wx; split <;> rfl
@[simp] theorem wx_wire (s : State) (r : BitVec 5) (v : Word) : (s.wx r v).wire = s.wire := by unfold State.wx; split <;> rfl
@[simp] theorem wx_farAns (s : State) (r : BitVec 5) (v : Word) : (s.wx r v).farAns = s.farAns := by unfold State.wx; split <;> rfl
@[simp] theorem wx_mstep (s : State) (r : BitVec 5) (v : Word) : (s.wx r v).mstep = s.mstep := by unfold State.wx; split <;> rfl
@[simp] theorem wx_ltol (s : State) (r : BitVec 5) (v : Word) : (s.wx r v).ltol = s.ltol := by unfold State.wx; split <;> rfl
@[simp] theorem wx_power (s : State) (r : BitVec 5) (v : Word) : (s.wx r v).power = s.power := by unfold State.wx; split <;> rfl
@[simp] theorem wx_hostUp (s : State) (r : BitVec 5) (v : Word) : (s.wx r v).hostUp = s.hostUp := by unfold State.wx; split <;> rfl
@[simp] theorem wx_hostHeld (s : State) (r : BitVec 5) (v : Word) : (s.wx r v).hostHeld = s.hostHeld := by unfold State.wx; split <;> rfl
@[simp] theorem wx_pend (s : State) (r : BitVec 5) (v : Word) : (s.wx r v).pend = s.pend := by unfold State.wx; split <;> rfl
@[simp] theorem wx_hostRds (s : State) (r : BitVec 5) (v : Word) : (s.wx r v).hostRds = s.hostRds := by unfold State.wx; split <;> rfl
@[simp] theorem wx_hldown (s : State) (r : BitVec 5) (v : Word) : (s.wx r v).hldown = s.hldown := by unfold State.wx; split <;> rfl
@[simp] theorem wx_hostOff (s : State) (r : BitVec 5) (v : Word) : (s.wx r v).hostOff = s.hostOff := by unfold State.wx; split <;> rfl
@[simp] theorem wx_hopDown (s : State) (r : BitVec 5) (v : Word) : (s.wx r v).hopDown = s.hopDown := by unfold State.wx; split <;> rfl
@[simp] theorem wx_hopReplays (s : State) (r : BitVec 5) (v : Word) : (s.wx r v).hopReplays = s.hopReplays := by unfold State.wx; split <;> rfl
@[simp] theorem wx_corrected (s : State) (r : BitVec 5) (v : Word) : (s.wx r v).corrected = s.corrected := by unfold State.wx; split <;> rfl
@[simp] theorem wx_cutDies (s : State) (r : BitVec 5) (v : Word) : (s.wx r v).cutDies = s.cutDies := by unfold State.wx; split <;> rfl
@[simp] theorem wx_msix (s : State) (r : BitVec 5) (v : Word) : (s.wx r v).msix = s.msix := by unfold State.wx; split <;> rfl
@[simp] theorem wx_fuse (s : State) (r : BitVec 5) (v : Word) : (s.wx r v).fuse = s.fuse := by unfold State.wx; split <;> rfl
@[simp] theorem wx_identity (s : State) (r : BitVec 5) (v : Word) : (s.wx r v).identity = s.identity := by unfold State.wx; split <;> rfl
@[simp] theorem wx_chain (s : State) (r : BitVec 5) (v : Word) : (s.wx r v).chain = s.chain := by unfold State.wx; split <;> rfl
@[simp] theorem wx_boot (s : State) (r : BitVec 5) (v : Word) : (s.wx r v).boot = s.boot := by unfold State.wx; split <;> rfl
@[simp] theorem wx_firm (s : State) (r : BitVec 5) (v : Word) : (s.wx r v).firm = s.firm := by unfold State.wx; split <;> rfl
@[simp] theorem wx_firmNext (s : State) (r : BitVec 5) (v : Word) : (s.wx r v).firmNext = s.firmNext := by unfold State.wx; split <;> rfl
@[simp] theorem wx_rollback (s : State) (r : BitVec 5) (v : Word) : (s.wx r v).rollback = s.rollback := by unfold State.wx; split <;> rfl

/-! ### wrf -/

@[simp] theorem wrf_handlers (s : State) (r : BitVec 5) (v : Word32) : (s.wrf r v).handlers = s.handlers := rfl
@[simp] theorem wrf_rings (s : State) (r : BitVec 5) (v : Word32) : (s.wrf r v).rings = s.rings := rfl
@[simp] theorem wrf_doneTab (s : State) (r : BitVec 5) (v : Word32) : (s.wrf r v).doneTab = s.doneTab := rfl
@[simp] theorem wrf_emem (s : State) (r : BitVec 5) (v : Word32) : (s.wrf r v).emem = s.emem := rfl
@[simp] theorem wrf_epoison (s : State) (r : BitVec 5) (v : Word32) : (s.wrf r v).epoison = s.epoison := rfl
@[simp] theorem wrf_unitSeq (s : State) (r : BitVec 5) (v : Word32) : (s.wrf r v).unitSeq = s.unitSeq := rfl
@[simp] theorem wrf_barInsts (s : State) (r : BitVec 5) (v : Word32) : (s.wrf r v).barInsts = s.barInsts := rfl
@[simp] theorem wrf_views (s : State) (r : BitVec 5) (v : Word32) : (s.wrf r v).views = s.views := rfl
@[simp] theorem wrf_vblocks (s : State) (r : BitVec 5) (v : Word32) : (s.wrf r v).vblocks = s.vblocks := rfl
@[simp] theorem wrf_masters (s : State) (r : BitVec 5) (v : Word32) : (s.wrf r v).masters = s.masters := rfl
@[simp] theorem wrf_experts (s : State) (r : BitVec 5) (v : Word32) : (s.wrf r v).experts = s.experts := rfl
@[simp] theorem wrf_keyNext (s : State) (r : BitVec 5) (v : Word32) : (s.wrf r v).keyNext = s.keyNext := rfl
@[simp] theorem wrf_grpNext (s : State) (r : BitVec 5) (v : Word32) : (s.wrf r v).grpNext = s.grpNext := rfl
@[simp] theorem wrf_replies (s : State) (r : BitVec 5) (v : Word32) : (s.wrf r v).replies = s.replies := rfl
@[simp] theorem wrf_unitLines (s : State) (r : BitVec 5) (v : Word32) : (s.wrf r v).unitLines = s.unitLines := rfl
@[simp] theorem wrf_meeting (s : State) (r : BitVec 5) (v : Word32) : (s.wrf r v).meeting = s.meeting := rfl
@[simp] theorem wrf_hostOut (s : State) (r : BitVec 5) (v : Word32) : (s.wrf r v).hostOut = s.hostOut := rfl
@[simp] theorem wrf_barNet (s : State) (r : BitVec 5) (v : Word32) : (s.wrf r v).barNet = s.barNet := rfl
@[simp] theorem wrf_barReps (s : State) (r : BitVec 5) (v : Word32) : (s.wrf r v).barReps = s.barReps := rfl
@[simp] theorem wrf_barDones (s : State) (r : BitVec 5) (v : Word32) : (s.wrf r v).barDones = s.barDones := rfl
@[simp] theorem wrf_doneFlits (s : State) (r : BitVec 5) (v : Word32) : (s.wrf r v).doneFlits = s.doneFlits := rfl
@[simp] theorem wrf_slotRets (s : State) (r : BitVec 5) (v : Word32) : (s.wrf r v).slotRets = s.slotRets := rfl
@[simp] theorem wrf_sentMsgs (s : State) (r : BitVec 5) (v : Word32) : (s.wrf r v).sentMsgs = s.sentMsgs := rfl
@[simp] theorem wrf_route (s : State) (r : BitVec 5) (v : Word32) : (s.wrf r v).route = s.route := rfl
@[simp] theorem wrf_wire (s : State) (r : BitVec 5) (v : Word32) : (s.wrf r v).wire = s.wire := rfl
@[simp] theorem wrf_farAns (s : State) (r : BitVec 5) (v : Word32) : (s.wrf r v).farAns = s.farAns := rfl
@[simp] theorem wrf_mstep (s : State) (r : BitVec 5) (v : Word32) : (s.wrf r v).mstep = s.mstep := rfl
@[simp] theorem wrf_ltol (s : State) (r : BitVec 5) (v : Word32) : (s.wrf r v).ltol = s.ltol := rfl
@[simp] theorem wrf_power (s : State) (r : BitVec 5) (v : Word32) : (s.wrf r v).power = s.power := rfl
@[simp] theorem wrf_hostUp (s : State) (r : BitVec 5) (v : Word32) : (s.wrf r v).hostUp = s.hostUp := rfl
@[simp] theorem wrf_hostHeld (s : State) (r : BitVec 5) (v : Word32) : (s.wrf r v).hostHeld = s.hostHeld := rfl
@[simp] theorem wrf_pend (s : State) (r : BitVec 5) (v : Word32) : (s.wrf r v).pend = s.pend := rfl
@[simp] theorem wrf_hostRds (s : State) (r : BitVec 5) (v : Word32) : (s.wrf r v).hostRds = s.hostRds := rfl
@[simp] theorem wrf_hldown (s : State) (r : BitVec 5) (v : Word32) : (s.wrf r v).hldown = s.hldown := rfl
@[simp] theorem wrf_hostOff (s : State) (r : BitVec 5) (v : Word32) : (s.wrf r v).hostOff = s.hostOff := rfl
@[simp] theorem wrf_hopDown (s : State) (r : BitVec 5) (v : Word32) : (s.wrf r v).hopDown = s.hopDown := rfl
@[simp] theorem wrf_hopReplays (s : State) (r : BitVec 5) (v : Word32) : (s.wrf r v).hopReplays = s.hopReplays := rfl
@[simp] theorem wrf_corrected (s : State) (r : BitVec 5) (v : Word32) : (s.wrf r v).corrected = s.corrected := rfl
@[simp] theorem wrf_cutDies (s : State) (r : BitVec 5) (v : Word32) : (s.wrf r v).cutDies = s.cutDies := rfl
@[simp] theorem wrf_msix (s : State) (r : BitVec 5) (v : Word32) : (s.wrf r v).msix = s.msix := rfl
@[simp] theorem wrf_fuse (s : State) (r : BitVec 5) (v : Word32) : (s.wrf r v).fuse = s.fuse := rfl
@[simp] theorem wrf_identity (s : State) (r : BitVec 5) (v : Word32) : (s.wrf r v).identity = s.identity := rfl
@[simp] theorem wrf_chain (s : State) (r : BitVec 5) (v : Word32) : (s.wrf r v).chain = s.chain := rfl
@[simp] theorem wrf_boot (s : State) (r : BitVec 5) (v : Word32) : (s.wrf r v).boot = s.boot := rfl
@[simp] theorem wrf_firm (s : State) (r : BitVec 5) (v : Word32) : (s.wrf r v).firm = s.firm := rfl
@[simp] theorem wrf_firmNext (s : State) (r : BitVec 5) (v : Word32) : (s.wrf r v).firmNext = s.firmNext := rfl
@[simp] theorem wrf_rollback (s : State) (r : BitVec 5) (v : Word32) : (s.wrf r v).rollback = s.rollback := rfl

/-! ### wp -/

@[simp] theorem wp_handlers (s : State) (r : Nat) (v : Word) : (s.wp r v).handlers = s.handlers := by unfold State.wp; split <;> rfl
@[simp] theorem wp_rings (s : State) (r : Nat) (v : Word) : (s.wp r v).rings = s.rings := by unfold State.wp; split <;> rfl
@[simp] theorem wp_doneTab (s : State) (r : Nat) (v : Word) : (s.wp r v).doneTab = s.doneTab := by unfold State.wp; split <;> rfl
@[simp] theorem wp_emem (s : State) (r : Nat) (v : Word) : (s.wp r v).emem = s.emem := by unfold State.wp; split <;> rfl
@[simp] theorem wp_epoison (s : State) (r : Nat) (v : Word) : (s.wp r v).epoison = s.epoison := by unfold State.wp; split <;> rfl
@[simp] theorem wp_unitSeq (s : State) (r : Nat) (v : Word) : (s.wp r v).unitSeq = s.unitSeq := by unfold State.wp; split <;> rfl
@[simp] theorem wp_barInsts (s : State) (r : Nat) (v : Word) : (s.wp r v).barInsts = s.barInsts := by unfold State.wp; split <;> rfl
@[simp] theorem wp_views (s : State) (r : Nat) (v : Word) : (s.wp r v).views = s.views := by unfold State.wp; split <;> rfl
@[simp] theorem wp_vblocks (s : State) (r : Nat) (v : Word) : (s.wp r v).vblocks = s.vblocks := by unfold State.wp; split <;> rfl
@[simp] theorem wp_masters (s : State) (r : Nat) (v : Word) : (s.wp r v).masters = s.masters := by unfold State.wp; split <;> rfl
@[simp] theorem wp_experts (s : State) (r : Nat) (v : Word) : (s.wp r v).experts = s.experts := by unfold State.wp; split <;> rfl
@[simp] theorem wp_keyNext (s : State) (r : Nat) (v : Word) : (s.wp r v).keyNext = s.keyNext := by unfold State.wp; split <;> rfl
@[simp] theorem wp_grpNext (s : State) (r : Nat) (v : Word) : (s.wp r v).grpNext = s.grpNext := by unfold State.wp; split <;> rfl
@[simp] theorem wp_replies (s : State) (r : Nat) (v : Word) : (s.wp r v).replies = s.replies := by unfold State.wp; split <;> rfl
@[simp] theorem wp_unitLines (s : State) (r : Nat) (v : Word) : (s.wp r v).unitLines = s.unitLines := by unfold State.wp; split <;> rfl
@[simp] theorem wp_meeting (s : State) (r : Nat) (v : Word) : (s.wp r v).meeting = s.meeting := by unfold State.wp; split <;> rfl
@[simp] theorem wp_hostOut (s : State) (r : Nat) (v : Word) : (s.wp r v).hostOut = s.hostOut := by unfold State.wp; split <;> rfl
@[simp] theorem wp_barNet (s : State) (r : Nat) (v : Word) : (s.wp r v).barNet = s.barNet := by unfold State.wp; split <;> rfl
@[simp] theorem wp_barReps (s : State) (r : Nat) (v : Word) : (s.wp r v).barReps = s.barReps := by unfold State.wp; split <;> rfl
@[simp] theorem wp_barDones (s : State) (r : Nat) (v : Word) : (s.wp r v).barDones = s.barDones := by unfold State.wp; split <;> rfl
@[simp] theorem wp_doneFlits (s : State) (r : Nat) (v : Word) : (s.wp r v).doneFlits = s.doneFlits := by unfold State.wp; split <;> rfl
@[simp] theorem wp_slotRets (s : State) (r : Nat) (v : Word) : (s.wp r v).slotRets = s.slotRets := by unfold State.wp; split <;> rfl
@[simp] theorem wp_sentMsgs (s : State) (r : Nat) (v : Word) : (s.wp r v).sentMsgs = s.sentMsgs := by unfold State.wp; split <;> rfl
@[simp] theorem wp_route (s : State) (r : Nat) (v : Word) : (s.wp r v).route = s.route := by unfold State.wp; split <;> rfl
@[simp] theorem wp_wire (s : State) (r : Nat) (v : Word) : (s.wp r v).wire = s.wire := by unfold State.wp; split <;> rfl
@[simp] theorem wp_farAns (s : State) (r : Nat) (v : Word) : (s.wp r v).farAns = s.farAns := by unfold State.wp; split <;> rfl
@[simp] theorem wp_mstep (s : State) (r : Nat) (v : Word) : (s.wp r v).mstep = s.mstep := by unfold State.wp; split <;> rfl
@[simp] theorem wp_ltol (s : State) (r : Nat) (v : Word) : (s.wp r v).ltol = s.ltol := by unfold State.wp; split <;> rfl
@[simp] theorem wp_power (s : State) (r : Nat) (v : Word) : (s.wp r v).power = s.power := by unfold State.wp; split <;> rfl
@[simp] theorem wp_hostUp (s : State) (r : Nat) (v : Word) : (s.wp r v).hostUp = s.hostUp := by unfold State.wp; split <;> rfl
@[simp] theorem wp_hostHeld (s : State) (r : Nat) (v : Word) : (s.wp r v).hostHeld = s.hostHeld := by unfold State.wp; split <;> rfl
@[simp] theorem wp_pend (s : State) (r : Nat) (v : Word) : (s.wp r v).pend = s.pend := by unfold State.wp; split <;> rfl
@[simp] theorem wp_hostRds (s : State) (r : Nat) (v : Word) : (s.wp r v).hostRds = s.hostRds := by unfold State.wp; split <;> rfl
@[simp] theorem wp_hldown (s : State) (r : Nat) (v : Word) : (s.wp r v).hldown = s.hldown := by unfold State.wp; split <;> rfl
@[simp] theorem wp_hostOff (s : State) (r : Nat) (v : Word) : (s.wp r v).hostOff = s.hostOff := by unfold State.wp; split <;> rfl
@[simp] theorem wp_hopDown (s : State) (r : Nat) (v : Word) : (s.wp r v).hopDown = s.hopDown := by unfold State.wp; split <;> rfl
@[simp] theorem wp_hopReplays (s : State) (r : Nat) (v : Word) : (s.wp r v).hopReplays = s.hopReplays := by unfold State.wp; split <;> rfl
@[simp] theorem wp_corrected (s : State) (r : Nat) (v : Word) : (s.wp r v).corrected = s.corrected := by unfold State.wp; split <;> rfl
@[simp] theorem wp_cutDies (s : State) (r : Nat) (v : Word) : (s.wp r v).cutDies = s.cutDies := by unfold State.wp; split <;> rfl
@[simp] theorem wp_msix (s : State) (r : Nat) (v : Word) : (s.wp r v).msix = s.msix := by unfold State.wp; split <;> rfl
@[simp] theorem wp_fuse (s : State) (r : Nat) (v : Word) : (s.wp r v).fuse = s.fuse := by unfold State.wp; split <;> rfl
@[simp] theorem wp_identity (s : State) (r : Nat) (v : Word) : (s.wp r v).identity = s.identity := by unfold State.wp; split <;> rfl
@[simp] theorem wp_chain (s : State) (r : Nat) (v : Word) : (s.wp r v).chain = s.chain := by unfold State.wp; split <;> rfl
@[simp] theorem wp_boot (s : State) (r : Nat) (v : Word) : (s.wp r v).boot = s.boot := by unfold State.wp; split <;> rfl
@[simp] theorem wp_firm (s : State) (r : Nat) (v : Word) : (s.wp r v).firm = s.firm := by unfold State.wp; split <;> rfl
@[simp] theorem wp_firmNext (s : State) (r : Nat) (v : Word) : (s.wp r v).firmNext = s.firmNext := by unfold State.wp; split <;> rfl
@[simp] theorem wp_rollback (s : State) (r : Nat) (v : Word) : (s.wp r v).rollback = s.rollback := by unfold State.wp; split <;> rfl

/-! ### wvAt -/

@[simp] theorem wvAt_handlers (s : State) (k r j : Nat) (v : Word32) : (s.wvAt k r j v).handlers = s.handlers := rfl
@[simp] theorem wvAt_rings (s : State) (k r j : Nat) (v : Word32) : (s.wvAt k r j v).rings = s.rings := rfl
@[simp] theorem wvAt_doneTab (s : State) (k r j : Nat) (v : Word32) : (s.wvAt k r j v).doneTab = s.doneTab := rfl
@[simp] theorem wvAt_emem (s : State) (k r j : Nat) (v : Word32) : (s.wvAt k r j v).emem = s.emem := rfl
@[simp] theorem wvAt_epoison (s : State) (k r j : Nat) (v : Word32) : (s.wvAt k r j v).epoison = s.epoison := rfl
@[simp] theorem wvAt_unitSeq (s : State) (k r j : Nat) (v : Word32) : (s.wvAt k r j v).unitSeq = s.unitSeq := rfl
@[simp] theorem wvAt_barInsts (s : State) (k r j : Nat) (v : Word32) : (s.wvAt k r j v).barInsts = s.barInsts := rfl
@[simp] theorem wvAt_views (s : State) (k r j : Nat) (v : Word32) : (s.wvAt k r j v).views = s.views := rfl
@[simp] theorem wvAt_vblocks (s : State) (k r j : Nat) (v : Word32) : (s.wvAt k r j v).vblocks = s.vblocks := rfl
@[simp] theorem wvAt_masters (s : State) (k r j : Nat) (v : Word32) : (s.wvAt k r j v).masters = s.masters := rfl
@[simp] theorem wvAt_experts (s : State) (k r j : Nat) (v : Word32) : (s.wvAt k r j v).experts = s.experts := rfl
@[simp] theorem wvAt_keyNext (s : State) (k r j : Nat) (v : Word32) : (s.wvAt k r j v).keyNext = s.keyNext := rfl
@[simp] theorem wvAt_grpNext (s : State) (k r j : Nat) (v : Word32) : (s.wvAt k r j v).grpNext = s.grpNext := rfl
@[simp] theorem wvAt_replies (s : State) (k r j : Nat) (v : Word32) : (s.wvAt k r j v).replies = s.replies := rfl
@[simp] theorem wvAt_unitLines (s : State) (k r j : Nat) (v : Word32) : (s.wvAt k r j v).unitLines = s.unitLines := rfl
@[simp] theorem wvAt_meeting (s : State) (k r j : Nat) (v : Word32) : (s.wvAt k r j v).meeting = s.meeting := rfl
@[simp] theorem wvAt_hostOut (s : State) (k r j : Nat) (v : Word32) : (s.wvAt k r j v).hostOut = s.hostOut := rfl
@[simp] theorem wvAt_barNet (s : State) (k r j : Nat) (v : Word32) : (s.wvAt k r j v).barNet = s.barNet := rfl
@[simp] theorem wvAt_barReps (s : State) (k r j : Nat) (v : Word32) : (s.wvAt k r j v).barReps = s.barReps := rfl
@[simp] theorem wvAt_barDones (s : State) (k r j : Nat) (v : Word32) : (s.wvAt k r j v).barDones = s.barDones := rfl
@[simp] theorem wvAt_doneFlits (s : State) (k r j : Nat) (v : Word32) : (s.wvAt k r j v).doneFlits = s.doneFlits := rfl
@[simp] theorem wvAt_slotRets (s : State) (k r j : Nat) (v : Word32) : (s.wvAt k r j v).slotRets = s.slotRets := rfl
@[simp] theorem wvAt_sentMsgs (s : State) (k r j : Nat) (v : Word32) : (s.wvAt k r j v).sentMsgs = s.sentMsgs := rfl
@[simp] theorem wvAt_route (s : State) (k r j : Nat) (v : Word32) : (s.wvAt k r j v).route = s.route := rfl
@[simp] theorem wvAt_wire (s : State) (k r j : Nat) (v : Word32) : (s.wvAt k r j v).wire = s.wire := rfl
@[simp] theorem wvAt_farAns (s : State) (k r j : Nat) (v : Word32) : (s.wvAt k r j v).farAns = s.farAns := rfl
@[simp] theorem wvAt_mstep (s : State) (k r j : Nat) (v : Word32) : (s.wvAt k r j v).mstep = s.mstep := rfl
@[simp] theorem wvAt_ltol (s : State) (k r j : Nat) (v : Word32) : (s.wvAt k r j v).ltol = s.ltol := rfl
@[simp] theorem wvAt_power (s : State) (k r j : Nat) (v : Word32) : (s.wvAt k r j v).power = s.power := rfl
@[simp] theorem wvAt_hostUp (s : State) (k r j : Nat) (v : Word32) : (s.wvAt k r j v).hostUp = s.hostUp := rfl
@[simp] theorem wvAt_hostHeld (s : State) (k r j : Nat) (v : Word32) : (s.wvAt k r j v).hostHeld = s.hostHeld := rfl
@[simp] theorem wvAt_pend (s : State) (k r j : Nat) (v : Word32) : (s.wvAt k r j v).pend = s.pend := rfl
@[simp] theorem wvAt_hostRds (s : State) (k r j : Nat) (v : Word32) : (s.wvAt k r j v).hostRds = s.hostRds := rfl
@[simp] theorem wvAt_hldown (s : State) (k r j : Nat) (v : Word32) : (s.wvAt k r j v).hldown = s.hldown := rfl
@[simp] theorem wvAt_hostOff (s : State) (k r j : Nat) (v : Word32) : (s.wvAt k r j v).hostOff = s.hostOff := rfl
@[simp] theorem wvAt_hopDown (s : State) (k r j : Nat) (v : Word32) : (s.wvAt k r j v).hopDown = s.hopDown := rfl
@[simp] theorem wvAt_hopReplays (s : State) (k r j : Nat) (v : Word32) : (s.wvAt k r j v).hopReplays = s.hopReplays := rfl
@[simp] theorem wvAt_corrected (s : State) (k r j : Nat) (v : Word32) : (s.wvAt k r j v).corrected = s.corrected := rfl
@[simp] theorem wvAt_cutDies (s : State) (k r j : Nat) (v : Word32) : (s.wvAt k r j v).cutDies = s.cutDies := rfl
@[simp] theorem wvAt_msix (s : State) (k r j : Nat) (v : Word32) : (s.wvAt k r j v).msix = s.msix := rfl
@[simp] theorem wvAt_fuse (s : State) (k r j : Nat) (v : Word32) : (s.wvAt k r j v).fuse = s.fuse := rfl
@[simp] theorem wvAt_identity (s : State) (k r j : Nat) (v : Word32) : (s.wvAt k r j v).identity = s.identity := rfl
@[simp] theorem wvAt_chain (s : State) (k r j : Nat) (v : Word32) : (s.wvAt k r j v).chain = s.chain := rfl
@[simp] theorem wvAt_boot (s : State) (k r j : Nat) (v : Word32) : (s.wvAt k r j v).boot = s.boot := rfl
@[simp] theorem wvAt_firm (s : State) (k r j : Nat) (v : Word32) : (s.wvAt k r j v).firm = s.firm := rfl
@[simp] theorem wvAt_firmNext (s : State) (k r j : Nat) (v : Word32) : (s.wvAt k r j v).firmNext = s.firmNext := rfl
@[simp] theorem wvAt_rollback (s : State) (k r j : Nat) (v : Word32) : (s.wvAt k r j v).rollback = s.rollback := rfl

/-! ### modSlot -/

@[simp] theorem modSlot_handlers (s : State) (k : Nat) (f : Slot → Slot) : (s.modSlot k f).handlers = s.handlers := rfl
@[simp] theorem modSlot_rings (s : State) (k : Nat) (f : Slot → Slot) : (s.modSlot k f).rings = s.rings := rfl
@[simp] theorem modSlot_doneTab (s : State) (k : Nat) (f : Slot → Slot) : (s.modSlot k f).doneTab = s.doneTab := rfl
@[simp] theorem modSlot_emem (s : State) (k : Nat) (f : Slot → Slot) : (s.modSlot k f).emem = s.emem := rfl
@[simp] theorem modSlot_epoison (s : State) (k : Nat) (f : Slot → Slot) : (s.modSlot k f).epoison = s.epoison := rfl
@[simp] theorem modSlot_unitSeq (s : State) (k : Nat) (f : Slot → Slot) : (s.modSlot k f).unitSeq = s.unitSeq := rfl
@[simp] theorem modSlot_barInsts (s : State) (k : Nat) (f : Slot → Slot) : (s.modSlot k f).barInsts = s.barInsts := rfl
@[simp] theorem modSlot_views (s : State) (k : Nat) (f : Slot → Slot) : (s.modSlot k f).views = s.views := rfl
@[simp] theorem modSlot_vblocks (s : State) (k : Nat) (f : Slot → Slot) : (s.modSlot k f).vblocks = s.vblocks := rfl
@[simp] theorem modSlot_masters (s : State) (k : Nat) (f : Slot → Slot) : (s.modSlot k f).masters = s.masters := rfl
@[simp] theorem modSlot_experts (s : State) (k : Nat) (f : Slot → Slot) : (s.modSlot k f).experts = s.experts := rfl
@[simp] theorem modSlot_keyNext (s : State) (k : Nat) (f : Slot → Slot) : (s.modSlot k f).keyNext = s.keyNext := rfl
@[simp] theorem modSlot_grpNext (s : State) (k : Nat) (f : Slot → Slot) : (s.modSlot k f).grpNext = s.grpNext := rfl
@[simp] theorem modSlot_replies (s : State) (k : Nat) (f : Slot → Slot) : (s.modSlot k f).replies = s.replies := rfl
@[simp] theorem modSlot_unitLines (s : State) (k : Nat) (f : Slot → Slot) : (s.modSlot k f).unitLines = s.unitLines := rfl
@[simp] theorem modSlot_meeting (s : State) (k : Nat) (f : Slot → Slot) : (s.modSlot k f).meeting = s.meeting := rfl
@[simp] theorem modSlot_hostOut (s : State) (k : Nat) (f : Slot → Slot) : (s.modSlot k f).hostOut = s.hostOut := rfl
@[simp] theorem modSlot_barNet (s : State) (k : Nat) (f : Slot → Slot) : (s.modSlot k f).barNet = s.barNet := rfl
@[simp] theorem modSlot_barReps (s : State) (k : Nat) (f : Slot → Slot) : (s.modSlot k f).barReps = s.barReps := rfl
@[simp] theorem modSlot_barDones (s : State) (k : Nat) (f : Slot → Slot) : (s.modSlot k f).barDones = s.barDones := rfl
@[simp] theorem modSlot_doneFlits (s : State) (k : Nat) (f : Slot → Slot) : (s.modSlot k f).doneFlits = s.doneFlits := rfl
@[simp] theorem modSlot_slotRets (s : State) (k : Nat) (f : Slot → Slot) : (s.modSlot k f).slotRets = s.slotRets := rfl
@[simp] theorem modSlot_sentMsgs (s : State) (k : Nat) (f : Slot → Slot) : (s.modSlot k f).sentMsgs = s.sentMsgs := rfl
@[simp] theorem modSlot_route (s : State) (k : Nat) (f : Slot → Slot) : (s.modSlot k f).route = s.route := rfl
@[simp] theorem modSlot_wire (s : State) (k : Nat) (f : Slot → Slot) : (s.modSlot k f).wire = s.wire := rfl
@[simp] theorem modSlot_farAns (s : State) (k : Nat) (f : Slot → Slot) : (s.modSlot k f).farAns = s.farAns := rfl
@[simp] theorem modSlot_mstep (s : State) (k : Nat) (f : Slot → Slot) : (s.modSlot k f).mstep = s.mstep := rfl
@[simp] theorem modSlot_ltol (s : State) (k : Nat) (f : Slot → Slot) : (s.modSlot k f).ltol = s.ltol := rfl
@[simp] theorem modSlot_power (s : State) (k : Nat) (f : Slot → Slot) : (s.modSlot k f).power = s.power := rfl
@[simp] theorem modSlot_hostUp (s : State) (k : Nat) (f : Slot → Slot) : (s.modSlot k f).hostUp = s.hostUp := rfl
@[simp] theorem modSlot_hostHeld (s : State) (k : Nat) (f : Slot → Slot) : (s.modSlot k f).hostHeld = s.hostHeld := rfl
@[simp] theorem modSlot_pend (s : State) (k : Nat) (f : Slot → Slot) : (s.modSlot k f).pend = s.pend := rfl
@[simp] theorem modSlot_hostRds (s : State) (k : Nat) (f : Slot → Slot) : (s.modSlot k f).hostRds = s.hostRds := rfl
@[simp] theorem modSlot_hldown (s : State) (k : Nat) (f : Slot → Slot) : (s.modSlot k f).hldown = s.hldown := rfl
@[simp] theorem modSlot_hostOff (s : State) (k : Nat) (f : Slot → Slot) : (s.modSlot k f).hostOff = s.hostOff := rfl
@[simp] theorem modSlot_hopDown (s : State) (k : Nat) (f : Slot → Slot) : (s.modSlot k f).hopDown = s.hopDown := rfl
@[simp] theorem modSlot_hopReplays (s : State) (k : Nat) (f : Slot → Slot) : (s.modSlot k f).hopReplays = s.hopReplays := rfl
@[simp] theorem modSlot_corrected (s : State) (k : Nat) (f : Slot → Slot) : (s.modSlot k f).corrected = s.corrected := rfl
@[simp] theorem modSlot_cutDies (s : State) (k : Nat) (f : Slot → Slot) : (s.modSlot k f).cutDies = s.cutDies := rfl
@[simp] theorem modSlot_msix (s : State) (k : Nat) (f : Slot → Slot) : (s.modSlot k f).msix = s.msix := rfl
@[simp] theorem modSlot_fuse (s : State) (k : Nat) (f : Slot → Slot) : (s.modSlot k f).fuse = s.fuse := rfl
@[simp] theorem modSlot_identity (s : State) (k : Nat) (f : Slot → Slot) : (s.modSlot k f).identity = s.identity := rfl
@[simp] theorem modSlot_chain (s : State) (k : Nat) (f : Slot → Slot) : (s.modSlot k f).chain = s.chain := rfl
@[simp] theorem modSlot_boot (s : State) (k : Nat) (f : Slot → Slot) : (s.modSlot k f).boot = s.boot := rfl
@[simp] theorem modSlot_firm (s : State) (k : Nat) (f : Slot → Slot) : (s.modSlot k f).firm = s.firm := rfl
@[simp] theorem modSlot_firmNext (s : State) (k : Nat) (f : Slot → Slot) : (s.modSlot k f).firmNext = s.firmNext := rfl
@[simp] theorem modSlot_rollback (s : State) (k : Nat) (f : Slot → Slot) : (s.modSlot k f).rollback = s.rollback := rfl

/-! ### modFrame -/

@[simp] theorem modFrame_handlers (s : State) (k : Nat) (f : Frame → Frame) : (s.modFrame k f).handlers = s.handlers := rfl
@[simp] theorem modFrame_rings (s : State) (k : Nat) (f : Frame → Frame) : (s.modFrame k f).rings = s.rings := rfl
@[simp] theorem modFrame_doneTab (s : State) (k : Nat) (f : Frame → Frame) : (s.modFrame k f).doneTab = s.doneTab := rfl
@[simp] theorem modFrame_emem (s : State) (k : Nat) (f : Frame → Frame) : (s.modFrame k f).emem = s.emem := rfl
@[simp] theorem modFrame_epoison (s : State) (k : Nat) (f : Frame → Frame) : (s.modFrame k f).epoison = s.epoison := rfl
@[simp] theorem modFrame_unitSeq (s : State) (k : Nat) (f : Frame → Frame) : (s.modFrame k f).unitSeq = s.unitSeq := rfl
@[simp] theorem modFrame_barInsts (s : State) (k : Nat) (f : Frame → Frame) : (s.modFrame k f).barInsts = s.barInsts := rfl
@[simp] theorem modFrame_views (s : State) (k : Nat) (f : Frame → Frame) : (s.modFrame k f).views = s.views := rfl
@[simp] theorem modFrame_vblocks (s : State) (k : Nat) (f : Frame → Frame) : (s.modFrame k f).vblocks = s.vblocks := rfl
@[simp] theorem modFrame_masters (s : State) (k : Nat) (f : Frame → Frame) : (s.modFrame k f).masters = s.masters := rfl
@[simp] theorem modFrame_experts (s : State) (k : Nat) (f : Frame → Frame) : (s.modFrame k f).experts = s.experts := rfl
@[simp] theorem modFrame_keyNext (s : State) (k : Nat) (f : Frame → Frame) : (s.modFrame k f).keyNext = s.keyNext := rfl
@[simp] theorem modFrame_grpNext (s : State) (k : Nat) (f : Frame → Frame) : (s.modFrame k f).grpNext = s.grpNext := rfl
@[simp] theorem modFrame_replies (s : State) (k : Nat) (f : Frame → Frame) : (s.modFrame k f).replies = s.replies := rfl
@[simp] theorem modFrame_unitLines (s : State) (k : Nat) (f : Frame → Frame) : (s.modFrame k f).unitLines = s.unitLines := rfl
@[simp] theorem modFrame_meeting (s : State) (k : Nat) (f : Frame → Frame) : (s.modFrame k f).meeting = s.meeting := rfl
@[simp] theorem modFrame_hostOut (s : State) (k : Nat) (f : Frame → Frame) : (s.modFrame k f).hostOut = s.hostOut := rfl
@[simp] theorem modFrame_barNet (s : State) (k : Nat) (f : Frame → Frame) : (s.modFrame k f).barNet = s.barNet := rfl
@[simp] theorem modFrame_barReps (s : State) (k : Nat) (f : Frame → Frame) : (s.modFrame k f).barReps = s.barReps := rfl
@[simp] theorem modFrame_barDones (s : State) (k : Nat) (f : Frame → Frame) : (s.modFrame k f).barDones = s.barDones := rfl
@[simp] theorem modFrame_doneFlits (s : State) (k : Nat) (f : Frame → Frame) : (s.modFrame k f).doneFlits = s.doneFlits := rfl
@[simp] theorem modFrame_slotRets (s : State) (k : Nat) (f : Frame → Frame) : (s.modFrame k f).slotRets = s.slotRets := rfl
@[simp] theorem modFrame_sentMsgs (s : State) (k : Nat) (f : Frame → Frame) : (s.modFrame k f).sentMsgs = s.sentMsgs := rfl
@[simp] theorem modFrame_route (s : State) (k : Nat) (f : Frame → Frame) : (s.modFrame k f).route = s.route := rfl
@[simp] theorem modFrame_wire (s : State) (k : Nat) (f : Frame → Frame) : (s.modFrame k f).wire = s.wire := rfl
@[simp] theorem modFrame_farAns (s : State) (k : Nat) (f : Frame → Frame) : (s.modFrame k f).farAns = s.farAns := rfl
@[simp] theorem modFrame_mstep (s : State) (k : Nat) (f : Frame → Frame) : (s.modFrame k f).mstep = s.mstep := rfl
@[simp] theorem modFrame_ltol (s : State) (k : Nat) (f : Frame → Frame) : (s.modFrame k f).ltol = s.ltol := rfl
@[simp] theorem modFrame_power (s : State) (k : Nat) (f : Frame → Frame) : (s.modFrame k f).power = s.power := rfl
@[simp] theorem modFrame_hostUp (s : State) (k : Nat) (f : Frame → Frame) : (s.modFrame k f).hostUp = s.hostUp := rfl
@[simp] theorem modFrame_hostHeld (s : State) (k : Nat) (f : Frame → Frame) : (s.modFrame k f).hostHeld = s.hostHeld := rfl
@[simp] theorem modFrame_pend (s : State) (k : Nat) (f : Frame → Frame) : (s.modFrame k f).pend = s.pend := rfl
@[simp] theorem modFrame_hostRds (s : State) (k : Nat) (f : Frame → Frame) : (s.modFrame k f).hostRds = s.hostRds := rfl
@[simp] theorem modFrame_hldown (s : State) (k : Nat) (f : Frame → Frame) : (s.modFrame k f).hldown = s.hldown := rfl
@[simp] theorem modFrame_hostOff (s : State) (k : Nat) (f : Frame → Frame) : (s.modFrame k f).hostOff = s.hostOff := rfl
@[simp] theorem modFrame_hopDown (s : State) (k : Nat) (f : Frame → Frame) : (s.modFrame k f).hopDown = s.hopDown := rfl
@[simp] theorem modFrame_hopReplays (s : State) (k : Nat) (f : Frame → Frame) : (s.modFrame k f).hopReplays = s.hopReplays := rfl
@[simp] theorem modFrame_corrected (s : State) (k : Nat) (f : Frame → Frame) : (s.modFrame k f).corrected = s.corrected := rfl
@[simp] theorem modFrame_cutDies (s : State) (k : Nat) (f : Frame → Frame) : (s.modFrame k f).cutDies = s.cutDies := rfl
@[simp] theorem modFrame_msix (s : State) (k : Nat) (f : Frame → Frame) : (s.modFrame k f).msix = s.msix := rfl
@[simp] theorem modFrame_fuse (s : State) (k : Nat) (f : Frame → Frame) : (s.modFrame k f).fuse = s.fuse := rfl
@[simp] theorem modFrame_identity (s : State) (k : Nat) (f : Frame → Frame) : (s.modFrame k f).identity = s.identity := rfl
@[simp] theorem modFrame_chain (s : State) (k : Nat) (f : Frame → Frame) : (s.modFrame k f).chain = s.chain := rfl
@[simp] theorem modFrame_boot (s : State) (k : Nat) (f : Frame → Frame) : (s.modFrame k f).boot = s.boot := rfl
@[simp] theorem modFrame_firm (s : State) (k : Nat) (f : Frame → Frame) : (s.modFrame k f).firm = s.firm := rfl
@[simp] theorem modFrame_firmNext (s : State) (k : Nat) (f : Frame → Frame) : (s.modFrame k f).firmNext = s.firmNext := rfl
@[simp] theorem modFrame_rollback (s : State) (k : Nat) (f : Frame → Frame) : (s.modFrame k f).rollback = s.rollback := rfl

/-! ### modCore -/

@[simp] theorem modCore_handlers (s : State) (k : Nat) (f : CoreSt → CoreSt) : (s.modCore k f).handlers = s.handlers := rfl
@[simp] theorem modCore_rings (s : State) (k : Nat) (f : CoreSt → CoreSt) : (s.modCore k f).rings = s.rings := rfl
@[simp] theorem modCore_doneTab (s : State) (k : Nat) (f : CoreSt → CoreSt) : (s.modCore k f).doneTab = s.doneTab := rfl
@[simp] theorem modCore_emem (s : State) (k : Nat) (f : CoreSt → CoreSt) : (s.modCore k f).emem = s.emem := rfl
@[simp] theorem modCore_epoison (s : State) (k : Nat) (f : CoreSt → CoreSt) : (s.modCore k f).epoison = s.epoison := rfl
@[simp] theorem modCore_unitSeq (s : State) (k : Nat) (f : CoreSt → CoreSt) : (s.modCore k f).unitSeq = s.unitSeq := rfl
@[simp] theorem modCore_barInsts (s : State) (k : Nat) (f : CoreSt → CoreSt) : (s.modCore k f).barInsts = s.barInsts := rfl
@[simp] theorem modCore_views (s : State) (k : Nat) (f : CoreSt → CoreSt) : (s.modCore k f).views = s.views := rfl
@[simp] theorem modCore_vblocks (s : State) (k : Nat) (f : CoreSt → CoreSt) : (s.modCore k f).vblocks = s.vblocks := rfl
@[simp] theorem modCore_masters (s : State) (k : Nat) (f : CoreSt → CoreSt) : (s.modCore k f).masters = s.masters := rfl
@[simp] theorem modCore_experts (s : State) (k : Nat) (f : CoreSt → CoreSt) : (s.modCore k f).experts = s.experts := rfl
@[simp] theorem modCore_keyNext (s : State) (k : Nat) (f : CoreSt → CoreSt) : (s.modCore k f).keyNext = s.keyNext := rfl
@[simp] theorem modCore_grpNext (s : State) (k : Nat) (f : CoreSt → CoreSt) : (s.modCore k f).grpNext = s.grpNext := rfl
@[simp] theorem modCore_replies (s : State) (k : Nat) (f : CoreSt → CoreSt) : (s.modCore k f).replies = s.replies := rfl
@[simp] theorem modCore_unitLines (s : State) (k : Nat) (f : CoreSt → CoreSt) : (s.modCore k f).unitLines = s.unitLines := rfl
@[simp] theorem modCore_meeting (s : State) (k : Nat) (f : CoreSt → CoreSt) : (s.modCore k f).meeting = s.meeting := rfl
@[simp] theorem modCore_hostOut (s : State) (k : Nat) (f : CoreSt → CoreSt) : (s.modCore k f).hostOut = s.hostOut := rfl
@[simp] theorem modCore_barNet (s : State) (k : Nat) (f : CoreSt → CoreSt) : (s.modCore k f).barNet = s.barNet := rfl
@[simp] theorem modCore_barReps (s : State) (k : Nat) (f : CoreSt → CoreSt) : (s.modCore k f).barReps = s.barReps := rfl
@[simp] theorem modCore_barDones (s : State) (k : Nat) (f : CoreSt → CoreSt) : (s.modCore k f).barDones = s.barDones := rfl
@[simp] theorem modCore_doneFlits (s : State) (k : Nat) (f : CoreSt → CoreSt) : (s.modCore k f).doneFlits = s.doneFlits := rfl
@[simp] theorem modCore_slotRets (s : State) (k : Nat) (f : CoreSt → CoreSt) : (s.modCore k f).slotRets = s.slotRets := rfl
@[simp] theorem modCore_sentMsgs (s : State) (k : Nat) (f : CoreSt → CoreSt) : (s.modCore k f).sentMsgs = s.sentMsgs := rfl
@[simp] theorem modCore_route (s : State) (k : Nat) (f : CoreSt → CoreSt) : (s.modCore k f).route = s.route := rfl
@[simp] theorem modCore_wire (s : State) (k : Nat) (f : CoreSt → CoreSt) : (s.modCore k f).wire = s.wire := rfl
@[simp] theorem modCore_farAns (s : State) (k : Nat) (f : CoreSt → CoreSt) : (s.modCore k f).farAns = s.farAns := rfl
@[simp] theorem modCore_mstep (s : State) (k : Nat) (f : CoreSt → CoreSt) : (s.modCore k f).mstep = s.mstep := rfl
@[simp] theorem modCore_ltol (s : State) (k : Nat) (f : CoreSt → CoreSt) : (s.modCore k f).ltol = s.ltol := rfl
@[simp] theorem modCore_power (s : State) (k : Nat) (f : CoreSt → CoreSt) : (s.modCore k f).power = s.power := rfl
@[simp] theorem modCore_hostUp (s : State) (k : Nat) (f : CoreSt → CoreSt) : (s.modCore k f).hostUp = s.hostUp := rfl
@[simp] theorem modCore_hostHeld (s : State) (k : Nat) (f : CoreSt → CoreSt) : (s.modCore k f).hostHeld = s.hostHeld := rfl
@[simp] theorem modCore_pend (s : State) (k : Nat) (f : CoreSt → CoreSt) : (s.modCore k f).pend = s.pend := rfl
@[simp] theorem modCore_hostRds (s : State) (k : Nat) (f : CoreSt → CoreSt) : (s.modCore k f).hostRds = s.hostRds := rfl
@[simp] theorem modCore_hldown (s : State) (k : Nat) (f : CoreSt → CoreSt) : (s.modCore k f).hldown = s.hldown := rfl
@[simp] theorem modCore_hostOff (s : State) (k : Nat) (f : CoreSt → CoreSt) : (s.modCore k f).hostOff = s.hostOff := rfl
@[simp] theorem modCore_hopDown (s : State) (k : Nat) (f : CoreSt → CoreSt) : (s.modCore k f).hopDown = s.hopDown := rfl
@[simp] theorem modCore_hopReplays (s : State) (k : Nat) (f : CoreSt → CoreSt) : (s.modCore k f).hopReplays = s.hopReplays := rfl
@[simp] theorem modCore_corrected (s : State) (k : Nat) (f : CoreSt → CoreSt) : (s.modCore k f).corrected = s.corrected := rfl
@[simp] theorem modCore_cutDies (s : State) (k : Nat) (f : CoreSt → CoreSt) : (s.modCore k f).cutDies = s.cutDies := rfl
@[simp] theorem modCore_msix (s : State) (k : Nat) (f : CoreSt → CoreSt) : (s.modCore k f).msix = s.msix := rfl
@[simp] theorem modCore_fuse (s : State) (k : Nat) (f : CoreSt → CoreSt) : (s.modCore k f).fuse = s.fuse := rfl
@[simp] theorem modCore_identity (s : State) (k : Nat) (f : CoreSt → CoreSt) : (s.modCore k f).identity = s.identity := rfl
@[simp] theorem modCore_chain (s : State) (k : Nat) (f : CoreSt → CoreSt) : (s.modCore k f).chain = s.chain := rfl
@[simp] theorem modCore_boot (s : State) (k : Nat) (f : CoreSt → CoreSt) : (s.modCore k f).boot = s.boot := rfl
@[simp] theorem modCore_firm (s : State) (k : Nat) (f : CoreSt → CoreSt) : (s.modCore k f).firm = s.firm := rfl
@[simp] theorem modCore_firmNext (s : State) (k : Nat) (f : CoreSt → CoreSt) : (s.modCore k f).firmNext = s.firmNext := rfl
@[simp] theorem modCore_rollback (s : State) (k : Nat) (f : CoreSt → CoreSt) : (s.modCore k f).rollback = s.rollback := rfl

/-! ### modDie -/

@[simp] theorem modDie_handlers (s : State) (k : Nat) (f : DieSt → DieSt) : (s.modDie k f).handlers = s.handlers := rfl
@[simp] theorem modDie_rings (s : State) (k : Nat) (f : DieSt → DieSt) : (s.modDie k f).rings = s.rings := rfl
@[simp] theorem modDie_doneTab (s : State) (k : Nat) (f : DieSt → DieSt) : (s.modDie k f).doneTab = s.doneTab := rfl
@[simp] theorem modDie_emem (s : State) (k : Nat) (f : DieSt → DieSt) : (s.modDie k f).emem = s.emem := rfl
@[simp] theorem modDie_epoison (s : State) (k : Nat) (f : DieSt → DieSt) : (s.modDie k f).epoison = s.epoison := rfl
@[simp] theorem modDie_unitSeq (s : State) (k : Nat) (f : DieSt → DieSt) : (s.modDie k f).unitSeq = s.unitSeq := rfl
@[simp] theorem modDie_barInsts (s : State) (k : Nat) (f : DieSt → DieSt) : (s.modDie k f).barInsts = s.barInsts := rfl
@[simp] theorem modDie_views (s : State) (k : Nat) (f : DieSt → DieSt) : (s.modDie k f).views = s.views := rfl
@[simp] theorem modDie_vblocks (s : State) (k : Nat) (f : DieSt → DieSt) : (s.modDie k f).vblocks = s.vblocks := rfl
@[simp] theorem modDie_masters (s : State) (k : Nat) (f : DieSt → DieSt) : (s.modDie k f).masters = s.masters := rfl
@[simp] theorem modDie_experts (s : State) (k : Nat) (f : DieSt → DieSt) : (s.modDie k f).experts = s.experts := rfl
@[simp] theorem modDie_keyNext (s : State) (k : Nat) (f : DieSt → DieSt) : (s.modDie k f).keyNext = s.keyNext := rfl
@[simp] theorem modDie_grpNext (s : State) (k : Nat) (f : DieSt → DieSt) : (s.modDie k f).grpNext = s.grpNext := rfl
@[simp] theorem modDie_replies (s : State) (k : Nat) (f : DieSt → DieSt) : (s.modDie k f).replies = s.replies := rfl
@[simp] theorem modDie_unitLines (s : State) (k : Nat) (f : DieSt → DieSt) : (s.modDie k f).unitLines = s.unitLines := rfl
@[simp] theorem modDie_meeting (s : State) (k : Nat) (f : DieSt → DieSt) : (s.modDie k f).meeting = s.meeting := rfl
@[simp] theorem modDie_hostOut (s : State) (k : Nat) (f : DieSt → DieSt) : (s.modDie k f).hostOut = s.hostOut := rfl
@[simp] theorem modDie_barNet (s : State) (k : Nat) (f : DieSt → DieSt) : (s.modDie k f).barNet = s.barNet := rfl
@[simp] theorem modDie_barReps (s : State) (k : Nat) (f : DieSt → DieSt) : (s.modDie k f).barReps = s.barReps := rfl
@[simp] theorem modDie_barDones (s : State) (k : Nat) (f : DieSt → DieSt) : (s.modDie k f).barDones = s.barDones := rfl
@[simp] theorem modDie_doneFlits (s : State) (k : Nat) (f : DieSt → DieSt) : (s.modDie k f).doneFlits = s.doneFlits := rfl
@[simp] theorem modDie_slotRets (s : State) (k : Nat) (f : DieSt → DieSt) : (s.modDie k f).slotRets = s.slotRets := rfl
@[simp] theorem modDie_sentMsgs (s : State) (k : Nat) (f : DieSt → DieSt) : (s.modDie k f).sentMsgs = s.sentMsgs := rfl
@[simp] theorem modDie_route (s : State) (k : Nat) (f : DieSt → DieSt) : (s.modDie k f).route = s.route := rfl
@[simp] theorem modDie_wire (s : State) (k : Nat) (f : DieSt → DieSt) : (s.modDie k f).wire = s.wire := rfl
@[simp] theorem modDie_farAns (s : State) (k : Nat) (f : DieSt → DieSt) : (s.modDie k f).farAns = s.farAns := rfl
@[simp] theorem modDie_mstep (s : State) (k : Nat) (f : DieSt → DieSt) : (s.modDie k f).mstep = s.mstep := rfl
@[simp] theorem modDie_ltol (s : State) (k : Nat) (f : DieSt → DieSt) : (s.modDie k f).ltol = s.ltol := rfl
@[simp] theorem modDie_power (s : State) (k : Nat) (f : DieSt → DieSt) : (s.modDie k f).power = s.power := rfl
@[simp] theorem modDie_hostUp (s : State) (k : Nat) (f : DieSt → DieSt) : (s.modDie k f).hostUp = s.hostUp := rfl
@[simp] theorem modDie_hostHeld (s : State) (k : Nat) (f : DieSt → DieSt) : (s.modDie k f).hostHeld = s.hostHeld := rfl
@[simp] theorem modDie_pend (s : State) (k : Nat) (f : DieSt → DieSt) : (s.modDie k f).pend = s.pend := rfl
@[simp] theorem modDie_hostRds (s : State) (k : Nat) (f : DieSt → DieSt) : (s.modDie k f).hostRds = s.hostRds := rfl
@[simp] theorem modDie_hldown (s : State) (k : Nat) (f : DieSt → DieSt) : (s.modDie k f).hldown = s.hldown := rfl
@[simp] theorem modDie_hostOff (s : State) (k : Nat) (f : DieSt → DieSt) : (s.modDie k f).hostOff = s.hostOff := rfl
@[simp] theorem modDie_hopDown (s : State) (k : Nat) (f : DieSt → DieSt) : (s.modDie k f).hopDown = s.hopDown := rfl
@[simp] theorem modDie_hopReplays (s : State) (k : Nat) (f : DieSt → DieSt) : (s.modDie k f).hopReplays = s.hopReplays := rfl
@[simp] theorem modDie_corrected (s : State) (k : Nat) (f : DieSt → DieSt) : (s.modDie k f).corrected = s.corrected := rfl
@[simp] theorem modDie_cutDies (s : State) (k : Nat) (f : DieSt → DieSt) : (s.modDie k f).cutDies = s.cutDies := rfl
@[simp] theorem modDie_msix (s : State) (k : Nat) (f : DieSt → DieSt) : (s.modDie k f).msix = s.msix := rfl
@[simp] theorem modDie_fuse (s : State) (k : Nat) (f : DieSt → DieSt) : (s.modDie k f).fuse = s.fuse := rfl
@[simp] theorem modDie_identity (s : State) (k : Nat) (f : DieSt → DieSt) : (s.modDie k f).identity = s.identity := rfl
@[simp] theorem modDie_chain (s : State) (k : Nat) (f : DieSt → DieSt) : (s.modDie k f).chain = s.chain := rfl
@[simp] theorem modDie_boot (s : State) (k : Nat) (f : DieSt → DieSt) : (s.modDie k f).boot = s.boot := rfl
@[simp] theorem modDie_firm (s : State) (k : Nat) (f : DieSt → DieSt) : (s.modDie k f).firm = s.firm := rfl
@[simp] theorem modDie_firmNext (s : State) (k : Nat) (f : DieSt → DieSt) : (s.modDie k f).firmNext = s.firmNext := rfl
@[simp] theorem modDie_rollback (s : State) (k : Nat) (f : DieSt → DieSt) : (s.modDie k f).rollback = s.rollback := rfl

/-! ### modOctet -/

@[simp] theorem modOctet_handlers (s : State) (k : Nat) (f : OctetSt → OctetSt) : (s.modOctet k f).handlers = s.handlers := rfl
@[simp] theorem modOctet_rings (s : State) (k : Nat) (f : OctetSt → OctetSt) : (s.modOctet k f).rings = s.rings := rfl
@[simp] theorem modOctet_doneTab (s : State) (k : Nat) (f : OctetSt → OctetSt) : (s.modOctet k f).doneTab = s.doneTab := rfl
@[simp] theorem modOctet_emem (s : State) (k : Nat) (f : OctetSt → OctetSt) : (s.modOctet k f).emem = s.emem := rfl
@[simp] theorem modOctet_epoison (s : State) (k : Nat) (f : OctetSt → OctetSt) : (s.modOctet k f).epoison = s.epoison := rfl
@[simp] theorem modOctet_unitSeq (s : State) (k : Nat) (f : OctetSt → OctetSt) : (s.modOctet k f).unitSeq = s.unitSeq := rfl
@[simp] theorem modOctet_barInsts (s : State) (k : Nat) (f : OctetSt → OctetSt) : (s.modOctet k f).barInsts = s.barInsts := rfl
@[simp] theorem modOctet_views (s : State) (k : Nat) (f : OctetSt → OctetSt) : (s.modOctet k f).views = s.views := rfl
@[simp] theorem modOctet_vblocks (s : State) (k : Nat) (f : OctetSt → OctetSt) : (s.modOctet k f).vblocks = s.vblocks := rfl
@[simp] theorem modOctet_masters (s : State) (k : Nat) (f : OctetSt → OctetSt) : (s.modOctet k f).masters = s.masters := rfl
@[simp] theorem modOctet_experts (s : State) (k : Nat) (f : OctetSt → OctetSt) : (s.modOctet k f).experts = s.experts := rfl
@[simp] theorem modOctet_keyNext (s : State) (k : Nat) (f : OctetSt → OctetSt) : (s.modOctet k f).keyNext = s.keyNext := rfl
@[simp] theorem modOctet_grpNext (s : State) (k : Nat) (f : OctetSt → OctetSt) : (s.modOctet k f).grpNext = s.grpNext := rfl
@[simp] theorem modOctet_replies (s : State) (k : Nat) (f : OctetSt → OctetSt) : (s.modOctet k f).replies = s.replies := rfl
@[simp] theorem modOctet_unitLines (s : State) (k : Nat) (f : OctetSt → OctetSt) : (s.modOctet k f).unitLines = s.unitLines := rfl
@[simp] theorem modOctet_meeting (s : State) (k : Nat) (f : OctetSt → OctetSt) : (s.modOctet k f).meeting = s.meeting := rfl
@[simp] theorem modOctet_hostOut (s : State) (k : Nat) (f : OctetSt → OctetSt) : (s.modOctet k f).hostOut = s.hostOut := rfl
@[simp] theorem modOctet_barNet (s : State) (k : Nat) (f : OctetSt → OctetSt) : (s.modOctet k f).barNet = s.barNet := rfl
@[simp] theorem modOctet_barReps (s : State) (k : Nat) (f : OctetSt → OctetSt) : (s.modOctet k f).barReps = s.barReps := rfl
@[simp] theorem modOctet_barDones (s : State) (k : Nat) (f : OctetSt → OctetSt) : (s.modOctet k f).barDones = s.barDones := rfl
@[simp] theorem modOctet_doneFlits (s : State) (k : Nat) (f : OctetSt → OctetSt) : (s.modOctet k f).doneFlits = s.doneFlits := rfl
@[simp] theorem modOctet_slotRets (s : State) (k : Nat) (f : OctetSt → OctetSt) : (s.modOctet k f).slotRets = s.slotRets := rfl
@[simp] theorem modOctet_sentMsgs (s : State) (k : Nat) (f : OctetSt → OctetSt) : (s.modOctet k f).sentMsgs = s.sentMsgs := rfl
@[simp] theorem modOctet_route (s : State) (k : Nat) (f : OctetSt → OctetSt) : (s.modOctet k f).route = s.route := rfl
@[simp] theorem modOctet_wire (s : State) (k : Nat) (f : OctetSt → OctetSt) : (s.modOctet k f).wire = s.wire := rfl
@[simp] theorem modOctet_farAns (s : State) (k : Nat) (f : OctetSt → OctetSt) : (s.modOctet k f).farAns = s.farAns := rfl
@[simp] theorem modOctet_mstep (s : State) (k : Nat) (f : OctetSt → OctetSt) : (s.modOctet k f).mstep = s.mstep := rfl
@[simp] theorem modOctet_ltol (s : State) (k : Nat) (f : OctetSt → OctetSt) : (s.modOctet k f).ltol = s.ltol := rfl
@[simp] theorem modOctet_power (s : State) (k : Nat) (f : OctetSt → OctetSt) : (s.modOctet k f).power = s.power := rfl
@[simp] theorem modOctet_hostUp (s : State) (k : Nat) (f : OctetSt → OctetSt) : (s.modOctet k f).hostUp = s.hostUp := rfl
@[simp] theorem modOctet_hostHeld (s : State) (k : Nat) (f : OctetSt → OctetSt) : (s.modOctet k f).hostHeld = s.hostHeld := rfl
@[simp] theorem modOctet_pend (s : State) (k : Nat) (f : OctetSt → OctetSt) : (s.modOctet k f).pend = s.pend := rfl
@[simp] theorem modOctet_hostRds (s : State) (k : Nat) (f : OctetSt → OctetSt) : (s.modOctet k f).hostRds = s.hostRds := rfl
@[simp] theorem modOctet_hldown (s : State) (k : Nat) (f : OctetSt → OctetSt) : (s.modOctet k f).hldown = s.hldown := rfl
@[simp] theorem modOctet_hostOff (s : State) (k : Nat) (f : OctetSt → OctetSt) : (s.modOctet k f).hostOff = s.hostOff := rfl
@[simp] theorem modOctet_hopDown (s : State) (k : Nat) (f : OctetSt → OctetSt) : (s.modOctet k f).hopDown = s.hopDown := rfl
@[simp] theorem modOctet_hopReplays (s : State) (k : Nat) (f : OctetSt → OctetSt) : (s.modOctet k f).hopReplays = s.hopReplays := rfl
@[simp] theorem modOctet_corrected (s : State) (k : Nat) (f : OctetSt → OctetSt) : (s.modOctet k f).corrected = s.corrected := rfl
@[simp] theorem modOctet_cutDies (s : State) (k : Nat) (f : OctetSt → OctetSt) : (s.modOctet k f).cutDies = s.cutDies := rfl
@[simp] theorem modOctet_msix (s : State) (k : Nat) (f : OctetSt → OctetSt) : (s.modOctet k f).msix = s.msix := rfl
@[simp] theorem modOctet_fuse (s : State) (k : Nat) (f : OctetSt → OctetSt) : (s.modOctet k f).fuse = s.fuse := rfl
@[simp] theorem modOctet_identity (s : State) (k : Nat) (f : OctetSt → OctetSt) : (s.modOctet k f).identity = s.identity := rfl
@[simp] theorem modOctet_chain (s : State) (k : Nat) (f : OctetSt → OctetSt) : (s.modOctet k f).chain = s.chain := rfl
@[simp] theorem modOctet_boot (s : State) (k : Nat) (f : OctetSt → OctetSt) : (s.modOctet k f).boot = s.boot := rfl
@[simp] theorem modOctet_firm (s : State) (k : Nat) (f : OctetSt → OctetSt) : (s.modOctet k f).firm = s.firm := rfl
@[simp] theorem modOctet_firmNext (s : State) (k : Nat) (f : OctetSt → OctetSt) : (s.modOctet k f).firmNext = s.firmNext := rfl
@[simp] theorem modOctet_rollback (s : State) (k : Nat) (f : OctetSt → OctetSt) : (s.modOctet k f).rollback = s.rollback := rfl

/-! ### modCluster -/

@[simp] theorem modCluster_handlers (s : State) (k : Nat) (f : ClusterSt → ClusterSt) : (s.modCluster k f).handlers = s.handlers := rfl
@[simp] theorem modCluster_rings (s : State) (k : Nat) (f : ClusterSt → ClusterSt) : (s.modCluster k f).rings = s.rings := rfl
@[simp] theorem modCluster_doneTab (s : State) (k : Nat) (f : ClusterSt → ClusterSt) : (s.modCluster k f).doneTab = s.doneTab := rfl
@[simp] theorem modCluster_emem (s : State) (k : Nat) (f : ClusterSt → ClusterSt) : (s.modCluster k f).emem = s.emem := rfl
@[simp] theorem modCluster_epoison (s : State) (k : Nat) (f : ClusterSt → ClusterSt) : (s.modCluster k f).epoison = s.epoison := rfl
@[simp] theorem modCluster_unitSeq (s : State) (k : Nat) (f : ClusterSt → ClusterSt) : (s.modCluster k f).unitSeq = s.unitSeq := rfl
@[simp] theorem modCluster_barInsts (s : State) (k : Nat) (f : ClusterSt → ClusterSt) : (s.modCluster k f).barInsts = s.barInsts := rfl
@[simp] theorem modCluster_views (s : State) (k : Nat) (f : ClusterSt → ClusterSt) : (s.modCluster k f).views = s.views := rfl
@[simp] theorem modCluster_vblocks (s : State) (k : Nat) (f : ClusterSt → ClusterSt) : (s.modCluster k f).vblocks = s.vblocks := rfl
@[simp] theorem modCluster_masters (s : State) (k : Nat) (f : ClusterSt → ClusterSt) : (s.modCluster k f).masters = s.masters := rfl
@[simp] theorem modCluster_experts (s : State) (k : Nat) (f : ClusterSt → ClusterSt) : (s.modCluster k f).experts = s.experts := rfl
@[simp] theorem modCluster_keyNext (s : State) (k : Nat) (f : ClusterSt → ClusterSt) : (s.modCluster k f).keyNext = s.keyNext := rfl
@[simp] theorem modCluster_grpNext (s : State) (k : Nat) (f : ClusterSt → ClusterSt) : (s.modCluster k f).grpNext = s.grpNext := rfl
@[simp] theorem modCluster_replies (s : State) (k : Nat) (f : ClusterSt → ClusterSt) : (s.modCluster k f).replies = s.replies := rfl
@[simp] theorem modCluster_unitLines (s : State) (k : Nat) (f : ClusterSt → ClusterSt) : (s.modCluster k f).unitLines = s.unitLines := rfl
@[simp] theorem modCluster_meeting (s : State) (k : Nat) (f : ClusterSt → ClusterSt) : (s.modCluster k f).meeting = s.meeting := rfl
@[simp] theorem modCluster_hostOut (s : State) (k : Nat) (f : ClusterSt → ClusterSt) : (s.modCluster k f).hostOut = s.hostOut := rfl
@[simp] theorem modCluster_barNet (s : State) (k : Nat) (f : ClusterSt → ClusterSt) : (s.modCluster k f).barNet = s.barNet := rfl
@[simp] theorem modCluster_barReps (s : State) (k : Nat) (f : ClusterSt → ClusterSt) : (s.modCluster k f).barReps = s.barReps := rfl
@[simp] theorem modCluster_barDones (s : State) (k : Nat) (f : ClusterSt → ClusterSt) : (s.modCluster k f).barDones = s.barDones := rfl
@[simp] theorem modCluster_doneFlits (s : State) (k : Nat) (f : ClusterSt → ClusterSt) : (s.modCluster k f).doneFlits = s.doneFlits := rfl
@[simp] theorem modCluster_slotRets (s : State) (k : Nat) (f : ClusterSt → ClusterSt) : (s.modCluster k f).slotRets = s.slotRets := rfl
@[simp] theorem modCluster_sentMsgs (s : State) (k : Nat) (f : ClusterSt → ClusterSt) : (s.modCluster k f).sentMsgs = s.sentMsgs := rfl
@[simp] theorem modCluster_route (s : State) (k : Nat) (f : ClusterSt → ClusterSt) : (s.modCluster k f).route = s.route := rfl
@[simp] theorem modCluster_wire (s : State) (k : Nat) (f : ClusterSt → ClusterSt) : (s.modCluster k f).wire = s.wire := rfl
@[simp] theorem modCluster_farAns (s : State) (k : Nat) (f : ClusterSt → ClusterSt) : (s.modCluster k f).farAns = s.farAns := rfl
@[simp] theorem modCluster_mstep (s : State) (k : Nat) (f : ClusterSt → ClusterSt) : (s.modCluster k f).mstep = s.mstep := rfl
@[simp] theorem modCluster_ltol (s : State) (k : Nat) (f : ClusterSt → ClusterSt) : (s.modCluster k f).ltol = s.ltol := rfl
@[simp] theorem modCluster_power (s : State) (k : Nat) (f : ClusterSt → ClusterSt) : (s.modCluster k f).power = s.power := rfl
@[simp] theorem modCluster_hostUp (s : State) (k : Nat) (f : ClusterSt → ClusterSt) : (s.modCluster k f).hostUp = s.hostUp := rfl
@[simp] theorem modCluster_hostHeld (s : State) (k : Nat) (f : ClusterSt → ClusterSt) : (s.modCluster k f).hostHeld = s.hostHeld := rfl
@[simp] theorem modCluster_pend (s : State) (k : Nat) (f : ClusterSt → ClusterSt) : (s.modCluster k f).pend = s.pend := rfl
@[simp] theorem modCluster_hostRds (s : State) (k : Nat) (f : ClusterSt → ClusterSt) : (s.modCluster k f).hostRds = s.hostRds := rfl
@[simp] theorem modCluster_hldown (s : State) (k : Nat) (f : ClusterSt → ClusterSt) : (s.modCluster k f).hldown = s.hldown := rfl
@[simp] theorem modCluster_hostOff (s : State) (k : Nat) (f : ClusterSt → ClusterSt) : (s.modCluster k f).hostOff = s.hostOff := rfl
@[simp] theorem modCluster_hopDown (s : State) (k : Nat) (f : ClusterSt → ClusterSt) : (s.modCluster k f).hopDown = s.hopDown := rfl
@[simp] theorem modCluster_hopReplays (s : State) (k : Nat) (f : ClusterSt → ClusterSt) : (s.modCluster k f).hopReplays = s.hopReplays := rfl
@[simp] theorem modCluster_corrected (s : State) (k : Nat) (f : ClusterSt → ClusterSt) : (s.modCluster k f).corrected = s.corrected := rfl
@[simp] theorem modCluster_cutDies (s : State) (k : Nat) (f : ClusterSt → ClusterSt) : (s.modCluster k f).cutDies = s.cutDies := rfl
@[simp] theorem modCluster_msix (s : State) (k : Nat) (f : ClusterSt → ClusterSt) : (s.modCluster k f).msix = s.msix := rfl
@[simp] theorem modCluster_fuse (s : State) (k : Nat) (f : ClusterSt → ClusterSt) : (s.modCluster k f).fuse = s.fuse := rfl
@[simp] theorem modCluster_identity (s : State) (k : Nat) (f : ClusterSt → ClusterSt) : (s.modCluster k f).identity = s.identity := rfl
@[simp] theorem modCluster_chain (s : State) (k : Nat) (f : ClusterSt → ClusterSt) : (s.modCluster k f).chain = s.chain := rfl
@[simp] theorem modCluster_boot (s : State) (k : Nat) (f : ClusterSt → ClusterSt) : (s.modCluster k f).boot = s.boot := rfl
@[simp] theorem modCluster_firm (s : State) (k : Nat) (f : ClusterSt → ClusterSt) : (s.modCluster k f).firm = s.firm := rfl
@[simp] theorem modCluster_firmNext (s : State) (k : Nat) (f : ClusterSt → ClusterSt) : (s.modCluster k f).firmNext = s.firmNext := rfl
@[simp] theorem modCluster_rollback (s : State) (k : Nat) (f : ClusterSt → ClusterSt) : (s.modCluster k f).rollback = s.rollback := rfl

/-! ### modRealm -/

@[simp] theorem modRealm_handlers (s : State) (k : Nat) (f : RealmSt → RealmSt) : (s.modRealm k f).handlers = s.handlers := rfl
@[simp] theorem modRealm_rings (s : State) (k : Nat) (f : RealmSt → RealmSt) : (s.modRealm k f).rings = s.rings := rfl
@[simp] theorem modRealm_doneTab (s : State) (k : Nat) (f : RealmSt → RealmSt) : (s.modRealm k f).doneTab = s.doneTab := rfl
@[simp] theorem modRealm_emem (s : State) (k : Nat) (f : RealmSt → RealmSt) : (s.modRealm k f).emem = s.emem := rfl
@[simp] theorem modRealm_epoison (s : State) (k : Nat) (f : RealmSt → RealmSt) : (s.modRealm k f).epoison = s.epoison := rfl
@[simp] theorem modRealm_unitSeq (s : State) (k : Nat) (f : RealmSt → RealmSt) : (s.modRealm k f).unitSeq = s.unitSeq := rfl
@[simp] theorem modRealm_barInsts (s : State) (k : Nat) (f : RealmSt → RealmSt) : (s.modRealm k f).barInsts = s.barInsts := rfl
@[simp] theorem modRealm_views (s : State) (k : Nat) (f : RealmSt → RealmSt) : (s.modRealm k f).views = s.views := rfl
@[simp] theorem modRealm_vblocks (s : State) (k : Nat) (f : RealmSt → RealmSt) : (s.modRealm k f).vblocks = s.vblocks := rfl
@[simp] theorem modRealm_masters (s : State) (k : Nat) (f : RealmSt → RealmSt) : (s.modRealm k f).masters = s.masters := rfl
@[simp] theorem modRealm_experts (s : State) (k : Nat) (f : RealmSt → RealmSt) : (s.modRealm k f).experts = s.experts := rfl
@[simp] theorem modRealm_keyNext (s : State) (k : Nat) (f : RealmSt → RealmSt) : (s.modRealm k f).keyNext = s.keyNext := rfl
@[simp] theorem modRealm_grpNext (s : State) (k : Nat) (f : RealmSt → RealmSt) : (s.modRealm k f).grpNext = s.grpNext := rfl
@[simp] theorem modRealm_replies (s : State) (k : Nat) (f : RealmSt → RealmSt) : (s.modRealm k f).replies = s.replies := rfl
@[simp] theorem modRealm_unitLines (s : State) (k : Nat) (f : RealmSt → RealmSt) : (s.modRealm k f).unitLines = s.unitLines := rfl
@[simp] theorem modRealm_meeting (s : State) (k : Nat) (f : RealmSt → RealmSt) : (s.modRealm k f).meeting = s.meeting := rfl
@[simp] theorem modRealm_hostOut (s : State) (k : Nat) (f : RealmSt → RealmSt) : (s.modRealm k f).hostOut = s.hostOut := rfl
@[simp] theorem modRealm_barNet (s : State) (k : Nat) (f : RealmSt → RealmSt) : (s.modRealm k f).barNet = s.barNet := rfl
@[simp] theorem modRealm_barReps (s : State) (k : Nat) (f : RealmSt → RealmSt) : (s.modRealm k f).barReps = s.barReps := rfl
@[simp] theorem modRealm_barDones (s : State) (k : Nat) (f : RealmSt → RealmSt) : (s.modRealm k f).barDones = s.barDones := rfl
@[simp] theorem modRealm_doneFlits (s : State) (k : Nat) (f : RealmSt → RealmSt) : (s.modRealm k f).doneFlits = s.doneFlits := rfl
@[simp] theorem modRealm_slotRets (s : State) (k : Nat) (f : RealmSt → RealmSt) : (s.modRealm k f).slotRets = s.slotRets := rfl
@[simp] theorem modRealm_sentMsgs (s : State) (k : Nat) (f : RealmSt → RealmSt) : (s.modRealm k f).sentMsgs = s.sentMsgs := rfl
@[simp] theorem modRealm_route (s : State) (k : Nat) (f : RealmSt → RealmSt) : (s.modRealm k f).route = s.route := rfl
@[simp] theorem modRealm_wire (s : State) (k : Nat) (f : RealmSt → RealmSt) : (s.modRealm k f).wire = s.wire := rfl
@[simp] theorem modRealm_farAns (s : State) (k : Nat) (f : RealmSt → RealmSt) : (s.modRealm k f).farAns = s.farAns := rfl
@[simp] theorem modRealm_mstep (s : State) (k : Nat) (f : RealmSt → RealmSt) : (s.modRealm k f).mstep = s.mstep := rfl
@[simp] theorem modRealm_ltol (s : State) (k : Nat) (f : RealmSt → RealmSt) : (s.modRealm k f).ltol = s.ltol := rfl
@[simp] theorem modRealm_power (s : State) (k : Nat) (f : RealmSt → RealmSt) : (s.modRealm k f).power = s.power := rfl
@[simp] theorem modRealm_hostUp (s : State) (k : Nat) (f : RealmSt → RealmSt) : (s.modRealm k f).hostUp = s.hostUp := rfl
@[simp] theorem modRealm_hostHeld (s : State) (k : Nat) (f : RealmSt → RealmSt) : (s.modRealm k f).hostHeld = s.hostHeld := rfl
@[simp] theorem modRealm_pend (s : State) (k : Nat) (f : RealmSt → RealmSt) : (s.modRealm k f).pend = s.pend := rfl
@[simp] theorem modRealm_hostRds (s : State) (k : Nat) (f : RealmSt → RealmSt) : (s.modRealm k f).hostRds = s.hostRds := rfl
@[simp] theorem modRealm_hldown (s : State) (k : Nat) (f : RealmSt → RealmSt) : (s.modRealm k f).hldown = s.hldown := rfl
@[simp] theorem modRealm_hostOff (s : State) (k : Nat) (f : RealmSt → RealmSt) : (s.modRealm k f).hostOff = s.hostOff := rfl
@[simp] theorem modRealm_hopDown (s : State) (k : Nat) (f : RealmSt → RealmSt) : (s.modRealm k f).hopDown = s.hopDown := rfl
@[simp] theorem modRealm_hopReplays (s : State) (k : Nat) (f : RealmSt → RealmSt) : (s.modRealm k f).hopReplays = s.hopReplays := rfl
@[simp] theorem modRealm_corrected (s : State) (k : Nat) (f : RealmSt → RealmSt) : (s.modRealm k f).corrected = s.corrected := rfl
@[simp] theorem modRealm_cutDies (s : State) (k : Nat) (f : RealmSt → RealmSt) : (s.modRealm k f).cutDies = s.cutDies := rfl
@[simp] theorem modRealm_msix (s : State) (k : Nat) (f : RealmSt → RealmSt) : (s.modRealm k f).msix = s.msix := rfl
@[simp] theorem modRealm_fuse (s : State) (k : Nat) (f : RealmSt → RealmSt) : (s.modRealm k f).fuse = s.fuse := rfl
@[simp] theorem modRealm_identity (s : State) (k : Nat) (f : RealmSt → RealmSt) : (s.modRealm k f).identity = s.identity := rfl
@[simp] theorem modRealm_chain (s : State) (k : Nat) (f : RealmSt → RealmSt) : (s.modRealm k f).chain = s.chain := rfl
@[simp] theorem modRealm_boot (s : State) (k : Nat) (f : RealmSt → RealmSt) : (s.modRealm k f).boot = s.boot := rfl
@[simp] theorem modRealm_firm (s : State) (k : Nat) (f : RealmSt → RealmSt) : (s.modRealm k f).firm = s.firm := rfl
@[simp] theorem modRealm_firmNext (s : State) (k : Nat) (f : RealmSt → RealmSt) : (s.modRealm k f).firmNext = s.firmNext := rfl
@[simp] theorem modRealm_rollback (s : State) (k : Nat) (f : RealmSt → RealmSt) : (s.modRealm k f).rollback = s.rollback := rfl

/-! ### modPort -/

@[simp] theorem modPort_handlers (s : State) (k : Nat) (f : PortSt → PortSt) : (s.modPort k f).handlers = s.handlers := rfl
@[simp] theorem modPort_rings (s : State) (k : Nat) (f : PortSt → PortSt) : (s.modPort k f).rings = s.rings := rfl
@[simp] theorem modPort_doneTab (s : State) (k : Nat) (f : PortSt → PortSt) : (s.modPort k f).doneTab = s.doneTab := rfl
@[simp] theorem modPort_emem (s : State) (k : Nat) (f : PortSt → PortSt) : (s.modPort k f).emem = s.emem := rfl
@[simp] theorem modPort_epoison (s : State) (k : Nat) (f : PortSt → PortSt) : (s.modPort k f).epoison = s.epoison := rfl
@[simp] theorem modPort_unitSeq (s : State) (k : Nat) (f : PortSt → PortSt) : (s.modPort k f).unitSeq = s.unitSeq := rfl
@[simp] theorem modPort_barInsts (s : State) (k : Nat) (f : PortSt → PortSt) : (s.modPort k f).barInsts = s.barInsts := rfl
@[simp] theorem modPort_views (s : State) (k : Nat) (f : PortSt → PortSt) : (s.modPort k f).views = s.views := rfl
@[simp] theorem modPort_vblocks (s : State) (k : Nat) (f : PortSt → PortSt) : (s.modPort k f).vblocks = s.vblocks := rfl
@[simp] theorem modPort_masters (s : State) (k : Nat) (f : PortSt → PortSt) : (s.modPort k f).masters = s.masters := rfl
@[simp] theorem modPort_experts (s : State) (k : Nat) (f : PortSt → PortSt) : (s.modPort k f).experts = s.experts := rfl
@[simp] theorem modPort_keyNext (s : State) (k : Nat) (f : PortSt → PortSt) : (s.modPort k f).keyNext = s.keyNext := rfl
@[simp] theorem modPort_grpNext (s : State) (k : Nat) (f : PortSt → PortSt) : (s.modPort k f).grpNext = s.grpNext := rfl
@[simp] theorem modPort_replies (s : State) (k : Nat) (f : PortSt → PortSt) : (s.modPort k f).replies = s.replies := rfl
@[simp] theorem modPort_unitLines (s : State) (k : Nat) (f : PortSt → PortSt) : (s.modPort k f).unitLines = s.unitLines := rfl
@[simp] theorem modPort_meeting (s : State) (k : Nat) (f : PortSt → PortSt) : (s.modPort k f).meeting = s.meeting := rfl
@[simp] theorem modPort_hostOut (s : State) (k : Nat) (f : PortSt → PortSt) : (s.modPort k f).hostOut = s.hostOut := rfl
@[simp] theorem modPort_barNet (s : State) (k : Nat) (f : PortSt → PortSt) : (s.modPort k f).barNet = s.barNet := rfl
@[simp] theorem modPort_barReps (s : State) (k : Nat) (f : PortSt → PortSt) : (s.modPort k f).barReps = s.barReps := rfl
@[simp] theorem modPort_barDones (s : State) (k : Nat) (f : PortSt → PortSt) : (s.modPort k f).barDones = s.barDones := rfl
@[simp] theorem modPort_doneFlits (s : State) (k : Nat) (f : PortSt → PortSt) : (s.modPort k f).doneFlits = s.doneFlits := rfl
@[simp] theorem modPort_slotRets (s : State) (k : Nat) (f : PortSt → PortSt) : (s.modPort k f).slotRets = s.slotRets := rfl
@[simp] theorem modPort_sentMsgs (s : State) (k : Nat) (f : PortSt → PortSt) : (s.modPort k f).sentMsgs = s.sentMsgs := rfl
@[simp] theorem modPort_route (s : State) (k : Nat) (f : PortSt → PortSt) : (s.modPort k f).route = s.route := rfl
@[simp] theorem modPort_wire (s : State) (k : Nat) (f : PortSt → PortSt) : (s.modPort k f).wire = s.wire := rfl
@[simp] theorem modPort_farAns (s : State) (k : Nat) (f : PortSt → PortSt) : (s.modPort k f).farAns = s.farAns := rfl
@[simp] theorem modPort_mstep (s : State) (k : Nat) (f : PortSt → PortSt) : (s.modPort k f).mstep = s.mstep := rfl
@[simp] theorem modPort_ltol (s : State) (k : Nat) (f : PortSt → PortSt) : (s.modPort k f).ltol = s.ltol := rfl
@[simp] theorem modPort_power (s : State) (k : Nat) (f : PortSt → PortSt) : (s.modPort k f).power = s.power := rfl
@[simp] theorem modPort_hostUp (s : State) (k : Nat) (f : PortSt → PortSt) : (s.modPort k f).hostUp = s.hostUp := rfl
@[simp] theorem modPort_hostHeld (s : State) (k : Nat) (f : PortSt → PortSt) : (s.modPort k f).hostHeld = s.hostHeld := rfl
@[simp] theorem modPort_pend (s : State) (k : Nat) (f : PortSt → PortSt) : (s.modPort k f).pend = s.pend := rfl
@[simp] theorem modPort_hostRds (s : State) (k : Nat) (f : PortSt → PortSt) : (s.modPort k f).hostRds = s.hostRds := rfl
@[simp] theorem modPort_hldown (s : State) (k : Nat) (f : PortSt → PortSt) : (s.modPort k f).hldown = s.hldown := rfl
@[simp] theorem modPort_hostOff (s : State) (k : Nat) (f : PortSt → PortSt) : (s.modPort k f).hostOff = s.hostOff := rfl
@[simp] theorem modPort_hopDown (s : State) (k : Nat) (f : PortSt → PortSt) : (s.modPort k f).hopDown = s.hopDown := rfl
@[simp] theorem modPort_hopReplays (s : State) (k : Nat) (f : PortSt → PortSt) : (s.modPort k f).hopReplays = s.hopReplays := rfl
@[simp] theorem modPort_corrected (s : State) (k : Nat) (f : PortSt → PortSt) : (s.modPort k f).corrected = s.corrected := rfl
@[simp] theorem modPort_cutDies (s : State) (k : Nat) (f : PortSt → PortSt) : (s.modPort k f).cutDies = s.cutDies := rfl
@[simp] theorem modPort_msix (s : State) (k : Nat) (f : PortSt → PortSt) : (s.modPort k f).msix = s.msix := rfl
@[simp] theorem modPort_fuse (s : State) (k : Nat) (f : PortSt → PortSt) : (s.modPort k f).fuse = s.fuse := rfl
@[simp] theorem modPort_identity (s : State) (k : Nat) (f : PortSt → PortSt) : (s.modPort k f).identity = s.identity := rfl
@[simp] theorem modPort_chain (s : State) (k : Nat) (f : PortSt → PortSt) : (s.modPort k f).chain = s.chain := rfl
@[simp] theorem modPort_boot (s : State) (k : Nat) (f : PortSt → PortSt) : (s.modPort k f).boot = s.boot := rfl
@[simp] theorem modPort_firm (s : State) (k : Nat) (f : PortSt → PortSt) : (s.modPort k f).firm = s.firm := rfl
@[simp] theorem modPort_firmNext (s : State) (k : Nat) (f : PortSt → PortSt) : (s.modPort k f).firmNext = s.firmNext := rfl
@[simp] theorem modPort_rollback (s : State) (k : Nat) (f : PortSt → PortSt) : (s.modPort k f).rollback = s.rollback := rfl

/-! ### wrByte -/

@[simp] theorem wrByte_handlers (s : State) (a : Nat) (b : Byte) : (s.wrByte a b).handlers = s.handlers := rfl
@[simp] theorem wrByte_rings (s : State) (a : Nat) (b : Byte) : (s.wrByte a b).rings = s.rings := rfl
@[simp] theorem wrByte_doneTab (s : State) (a : Nat) (b : Byte) : (s.wrByte a b).doneTab = s.doneTab := rfl
@[simp] theorem wrByte_emem (s : State) (a : Nat) (b : Byte) : (s.wrByte a b).emem = s.emem := rfl
@[simp] theorem wrByte_epoison (s : State) (a : Nat) (b : Byte) : (s.wrByte a b).epoison = s.epoison := rfl
@[simp] theorem wrByte_unitSeq (s : State) (a : Nat) (b : Byte) : (s.wrByte a b).unitSeq = s.unitSeq := rfl
@[simp] theorem wrByte_barInsts (s : State) (a : Nat) (b : Byte) : (s.wrByte a b).barInsts = s.barInsts := rfl
@[simp] theorem wrByte_views (s : State) (a : Nat) (b : Byte) : (s.wrByte a b).views = s.views := rfl
@[simp] theorem wrByte_vblocks (s : State) (a : Nat) (b : Byte) : (s.wrByte a b).vblocks = s.vblocks := rfl
@[simp] theorem wrByte_masters (s : State) (a : Nat) (b : Byte) : (s.wrByte a b).masters = s.masters := rfl
@[simp] theorem wrByte_experts (s : State) (a : Nat) (b : Byte) : (s.wrByte a b).experts = s.experts := rfl
@[simp] theorem wrByte_keyNext (s : State) (a : Nat) (b : Byte) : (s.wrByte a b).keyNext = s.keyNext := rfl
@[simp] theorem wrByte_grpNext (s : State) (a : Nat) (b : Byte) : (s.wrByte a b).grpNext = s.grpNext := rfl
@[simp] theorem wrByte_replies (s : State) (a : Nat) (b : Byte) : (s.wrByte a b).replies = s.replies := rfl
@[simp] theorem wrByte_unitLines (s : State) (a : Nat) (b : Byte) : (s.wrByte a b).unitLines = s.unitLines := rfl
@[simp] theorem wrByte_meeting (s : State) (a : Nat) (b : Byte) : (s.wrByte a b).meeting = s.meeting := rfl
@[simp] theorem wrByte_hostOut (s : State) (a : Nat) (b : Byte) : (s.wrByte a b).hostOut = s.hostOut := rfl
@[simp] theorem wrByte_barNet (s : State) (a : Nat) (b : Byte) : (s.wrByte a b).barNet = s.barNet := rfl
@[simp] theorem wrByte_barReps (s : State) (a : Nat) (b : Byte) : (s.wrByte a b).barReps = s.barReps := rfl
@[simp] theorem wrByte_barDones (s : State) (a : Nat) (b : Byte) : (s.wrByte a b).barDones = s.barDones := rfl
@[simp] theorem wrByte_doneFlits (s : State) (a : Nat) (b : Byte) : (s.wrByte a b).doneFlits = s.doneFlits := rfl
@[simp] theorem wrByte_slotRets (s : State) (a : Nat) (b : Byte) : (s.wrByte a b).slotRets = s.slotRets := rfl
@[simp] theorem wrByte_sentMsgs (s : State) (a : Nat) (b : Byte) : (s.wrByte a b).sentMsgs = s.sentMsgs := rfl
@[simp] theorem wrByte_route (s : State) (a : Nat) (b : Byte) : (s.wrByte a b).route = s.route := rfl
@[simp] theorem wrByte_wire (s : State) (a : Nat) (b : Byte) : (s.wrByte a b).wire = s.wire := rfl
@[simp] theorem wrByte_farAns (s : State) (a : Nat) (b : Byte) : (s.wrByte a b).farAns = s.farAns := rfl
@[simp] theorem wrByte_mstep (s : State) (a : Nat) (b : Byte) : (s.wrByte a b).mstep = s.mstep := rfl
@[simp] theorem wrByte_ltol (s : State) (a : Nat) (b : Byte) : (s.wrByte a b).ltol = s.ltol := rfl
@[simp] theorem wrByte_power (s : State) (a : Nat) (b : Byte) : (s.wrByte a b).power = s.power := rfl
@[simp] theorem wrByte_hostUp (s : State) (a : Nat) (b : Byte) : (s.wrByte a b).hostUp = s.hostUp := rfl
@[simp] theorem wrByte_hostHeld (s : State) (a : Nat) (b : Byte) : (s.wrByte a b).hostHeld = s.hostHeld := rfl
@[simp] theorem wrByte_pend (s : State) (a : Nat) (b : Byte) : (s.wrByte a b).pend = s.pend := rfl
@[simp] theorem wrByte_hostRds (s : State) (a : Nat) (b : Byte) : (s.wrByte a b).hostRds = s.hostRds := rfl
@[simp] theorem wrByte_hldown (s : State) (a : Nat) (b : Byte) : (s.wrByte a b).hldown = s.hldown := rfl
@[simp] theorem wrByte_hostOff (s : State) (a : Nat) (b : Byte) : (s.wrByte a b).hostOff = s.hostOff := rfl
@[simp] theorem wrByte_hopDown (s : State) (a : Nat) (b : Byte) : (s.wrByte a b).hopDown = s.hopDown := rfl
@[simp] theorem wrByte_hopReplays (s : State) (a : Nat) (b : Byte) : (s.wrByte a b).hopReplays = s.hopReplays := rfl
@[simp] theorem wrByte_corrected (s : State) (a : Nat) (b : Byte) : (s.wrByte a b).corrected = s.corrected := rfl
@[simp] theorem wrByte_cutDies (s : State) (a : Nat) (b : Byte) : (s.wrByte a b).cutDies = s.cutDies := rfl
@[simp] theorem wrByte_msix (s : State) (a : Nat) (b : Byte) : (s.wrByte a b).msix = s.msix := rfl
@[simp] theorem wrByte_fuse (s : State) (a : Nat) (b : Byte) : (s.wrByte a b).fuse = s.fuse := rfl
@[simp] theorem wrByte_identity (s : State) (a : Nat) (b : Byte) : (s.wrByte a b).identity = s.identity := rfl
@[simp] theorem wrByte_chain (s : State) (a : Nat) (b : Byte) : (s.wrByte a b).chain = s.chain := rfl
@[simp] theorem wrByte_boot (s : State) (a : Nat) (b : Byte) : (s.wrByte a b).boot = s.boot := rfl
@[simp] theorem wrByte_firm (s : State) (a : Nat) (b : Byte) : (s.wrByte a b).firm = s.firm := rfl
@[simp] theorem wrByte_firmNext (s : State) (a : Nat) (b : Byte) : (s.wrByte a b).firmNext = s.firmNext := rfl
@[simp] theorem wrByte_rollback (s : State) (a : Nat) (b : Byte) : (s.wrByte a b).rollback = s.rollback := rfl

/-! ### retire -/

@[simp] theorem retire_handlers (s : State) (n : Nat) : (s.retire n).handlers = s.handlers := rfl
@[simp] theorem retire_rings (s : State) (n : Nat) : (s.retire n).rings = s.rings := rfl
@[simp] theorem retire_doneTab (s : State) (n : Nat) : (s.retire n).doneTab = s.doneTab := rfl
@[simp] theorem retire_emem (s : State) (n : Nat) : (s.retire n).emem = s.emem := rfl
@[simp] theorem retire_epoison (s : State) (n : Nat) : (s.retire n).epoison = s.epoison := rfl
@[simp] theorem retire_unitSeq (s : State) (n : Nat) : (s.retire n).unitSeq = s.unitSeq := rfl
@[simp] theorem retire_barInsts (s : State) (n : Nat) : (s.retire n).barInsts = s.barInsts := rfl
@[simp] theorem retire_views (s : State) (n : Nat) : (s.retire n).views = s.views := rfl
@[simp] theorem retire_vblocks (s : State) (n : Nat) : (s.retire n).vblocks = s.vblocks := rfl
@[simp] theorem retire_masters (s : State) (n : Nat) : (s.retire n).masters = s.masters := rfl
@[simp] theorem retire_experts (s : State) (n : Nat) : (s.retire n).experts = s.experts := rfl
@[simp] theorem retire_keyNext (s : State) (n : Nat) : (s.retire n).keyNext = s.keyNext := rfl
@[simp] theorem retire_grpNext (s : State) (n : Nat) : (s.retire n).grpNext = s.grpNext := rfl
@[simp] theorem retire_replies (s : State) (n : Nat) : (s.retire n).replies = s.replies := rfl
@[simp] theorem retire_unitLines (s : State) (n : Nat) : (s.retire n).unitLines = s.unitLines := rfl
@[simp] theorem retire_meeting (s : State) (n : Nat) : (s.retire n).meeting = s.meeting := rfl
@[simp] theorem retire_hostOut (s : State) (n : Nat) : (s.retire n).hostOut = s.hostOut := rfl
@[simp] theorem retire_barNet (s : State) (n : Nat) : (s.retire n).barNet = s.barNet := rfl
@[simp] theorem retire_barReps (s : State) (n : Nat) : (s.retire n).barReps = s.barReps := rfl
@[simp] theorem retire_barDones (s : State) (n : Nat) : (s.retire n).barDones = s.barDones := rfl
@[simp] theorem retire_doneFlits (s : State) (n : Nat) : (s.retire n).doneFlits = s.doneFlits := rfl
@[simp] theorem retire_slotRets (s : State) (n : Nat) : (s.retire n).slotRets = s.slotRets := rfl
@[simp] theorem retire_sentMsgs (s : State) (n : Nat) : (s.retire n).sentMsgs = s.sentMsgs := rfl
@[simp] theorem retire_route (s : State) (n : Nat) : (s.retire n).route = s.route := rfl
@[simp] theorem retire_wire (s : State) (n : Nat) : (s.retire n).wire = s.wire := rfl
@[simp] theorem retire_farAns (s : State) (n : Nat) : (s.retire n).farAns = s.farAns := rfl
@[simp] theorem retire_mstep (s : State) (n : Nat) : (s.retire n).mstep = s.mstep := rfl
@[simp] theorem retire_ltol (s : State) (n : Nat) : (s.retire n).ltol = s.ltol := rfl
@[simp] theorem retire_power (s : State) (n : Nat) : (s.retire n).power = s.power := rfl
@[simp] theorem retire_hostUp (s : State) (n : Nat) : (s.retire n).hostUp = s.hostUp := rfl
@[simp] theorem retire_hostHeld (s : State) (n : Nat) : (s.retire n).hostHeld = s.hostHeld := rfl
@[simp] theorem retire_pend (s : State) (n : Nat) : (s.retire n).pend = s.pend := rfl
@[simp] theorem retire_hostRds (s : State) (n : Nat) : (s.retire n).hostRds = s.hostRds := rfl
@[simp] theorem retire_hldown (s : State) (n : Nat) : (s.retire n).hldown = s.hldown := rfl
@[simp] theorem retire_hostOff (s : State) (n : Nat) : (s.retire n).hostOff = s.hostOff := rfl
@[simp] theorem retire_hopDown (s : State) (n : Nat) : (s.retire n).hopDown = s.hopDown := rfl
@[simp] theorem retire_hopReplays (s : State) (n : Nat) : (s.retire n).hopReplays = s.hopReplays := rfl
@[simp] theorem retire_corrected (s : State) (n : Nat) : (s.retire n).corrected = s.corrected := rfl
@[simp] theorem retire_cutDies (s : State) (n : Nat) : (s.retire n).cutDies = s.cutDies := rfl
@[simp] theorem retire_msix (s : State) (n : Nat) : (s.retire n).msix = s.msix := rfl
@[simp] theorem retire_fuse (s : State) (n : Nat) : (s.retire n).fuse = s.fuse := rfl
@[simp] theorem retire_identity (s : State) (n : Nat) : (s.retire n).identity = s.identity := rfl
@[simp] theorem retire_chain (s : State) (n : Nat) : (s.retire n).chain = s.chain := rfl
@[simp] theorem retire_boot (s : State) (n : Nat) : (s.retire n).boot = s.boot := rfl
@[simp] theorem retire_firm (s : State) (n : Nat) : (s.retire n).firm = s.firm := rfl
@[simp] theorem retire_firmNext (s : State) (n : Nat) : (s.retire n).firmNext = s.firmNext := rfl
@[simp] theorem retire_rollback (s : State) (n : Nat) : (s.retire n).rollback = s.rollback := rfl

/-! ### retireTo -/

@[simp] theorem retireTo_handlers (s : State) (t : Word) : (s.retireTo t).handlers = s.handlers := rfl
@[simp] theorem retireTo_rings (s : State) (t : Word) : (s.retireTo t).rings = s.rings := rfl
@[simp] theorem retireTo_doneTab (s : State) (t : Word) : (s.retireTo t).doneTab = s.doneTab := rfl
@[simp] theorem retireTo_emem (s : State) (t : Word) : (s.retireTo t).emem = s.emem := rfl
@[simp] theorem retireTo_epoison (s : State) (t : Word) : (s.retireTo t).epoison = s.epoison := rfl
@[simp] theorem retireTo_unitSeq (s : State) (t : Word) : (s.retireTo t).unitSeq = s.unitSeq := rfl
@[simp] theorem retireTo_barInsts (s : State) (t : Word) : (s.retireTo t).barInsts = s.barInsts := rfl
@[simp] theorem retireTo_views (s : State) (t : Word) : (s.retireTo t).views = s.views := rfl
@[simp] theorem retireTo_vblocks (s : State) (t : Word) : (s.retireTo t).vblocks = s.vblocks := rfl
@[simp] theorem retireTo_masters (s : State) (t : Word) : (s.retireTo t).masters = s.masters := rfl
@[simp] theorem retireTo_experts (s : State) (t : Word) : (s.retireTo t).experts = s.experts := rfl
@[simp] theorem retireTo_keyNext (s : State) (t : Word) : (s.retireTo t).keyNext = s.keyNext := rfl
@[simp] theorem retireTo_grpNext (s : State) (t : Word) : (s.retireTo t).grpNext = s.grpNext := rfl
@[simp] theorem retireTo_replies (s : State) (t : Word) : (s.retireTo t).replies = s.replies := rfl
@[simp] theorem retireTo_unitLines (s : State) (t : Word) : (s.retireTo t).unitLines = s.unitLines := rfl
@[simp] theorem retireTo_meeting (s : State) (t : Word) : (s.retireTo t).meeting = s.meeting := rfl
@[simp] theorem retireTo_hostOut (s : State) (t : Word) : (s.retireTo t).hostOut = s.hostOut := rfl
@[simp] theorem retireTo_barNet (s : State) (t : Word) : (s.retireTo t).barNet = s.barNet := rfl
@[simp] theorem retireTo_barReps (s : State) (t : Word) : (s.retireTo t).barReps = s.barReps := rfl
@[simp] theorem retireTo_barDones (s : State) (t : Word) : (s.retireTo t).barDones = s.barDones := rfl
@[simp] theorem retireTo_doneFlits (s : State) (t : Word) : (s.retireTo t).doneFlits = s.doneFlits := rfl
@[simp] theorem retireTo_slotRets (s : State) (t : Word) : (s.retireTo t).slotRets = s.slotRets := rfl
@[simp] theorem retireTo_sentMsgs (s : State) (t : Word) : (s.retireTo t).sentMsgs = s.sentMsgs := rfl
@[simp] theorem retireTo_route (s : State) (t : Word) : (s.retireTo t).route = s.route := rfl
@[simp] theorem retireTo_wire (s : State) (t : Word) : (s.retireTo t).wire = s.wire := rfl
@[simp] theorem retireTo_farAns (s : State) (t : Word) : (s.retireTo t).farAns = s.farAns := rfl
@[simp] theorem retireTo_mstep (s : State) (t : Word) : (s.retireTo t).mstep = s.mstep := rfl
@[simp] theorem retireTo_ltol (s : State) (t : Word) : (s.retireTo t).ltol = s.ltol := rfl
@[simp] theorem retireTo_power (s : State) (t : Word) : (s.retireTo t).power = s.power := rfl
@[simp] theorem retireTo_hostUp (s : State) (t : Word) : (s.retireTo t).hostUp = s.hostUp := rfl
@[simp] theorem retireTo_hostHeld (s : State) (t : Word) : (s.retireTo t).hostHeld = s.hostHeld := rfl
@[simp] theorem retireTo_pend (s : State) (t : Word) : (s.retireTo t).pend = s.pend := rfl
@[simp] theorem retireTo_hostRds (s : State) (t : Word) : (s.retireTo t).hostRds = s.hostRds := rfl
@[simp] theorem retireTo_hldown (s : State) (t : Word) : (s.retireTo t).hldown = s.hldown := rfl
@[simp] theorem retireTo_hostOff (s : State) (t : Word) : (s.retireTo t).hostOff = s.hostOff := rfl
@[simp] theorem retireTo_hopDown (s : State) (t : Word) : (s.retireTo t).hopDown = s.hopDown := rfl
@[simp] theorem retireTo_hopReplays (s : State) (t : Word) : (s.retireTo t).hopReplays = s.hopReplays := rfl
@[simp] theorem retireTo_corrected (s : State) (t : Word) : (s.retireTo t).corrected = s.corrected := rfl
@[simp] theorem retireTo_cutDies (s : State) (t : Word) : (s.retireTo t).cutDies = s.cutDies := rfl
@[simp] theorem retireTo_msix (s : State) (t : Word) : (s.retireTo t).msix = s.msix := rfl
@[simp] theorem retireTo_fuse (s : State) (t : Word) : (s.retireTo t).fuse = s.fuse := rfl
@[simp] theorem retireTo_identity (s : State) (t : Word) : (s.retireTo t).identity = s.identity := rfl
@[simp] theorem retireTo_chain (s : State) (t : Word) : (s.retireTo t).chain = s.chain := rfl
@[simp] theorem retireTo_boot (s : State) (t : Word) : (s.retireTo t).boot = s.boot := rfl
@[simp] theorem retireTo_firm (s : State) (t : Word) : (s.retireTo t).firm = s.firm := rfl
@[simp] theorem retireTo_firmNext (s : State) (t : Word) : (s.retireTo t).firmNext = s.firmNext := rfl
@[simp] theorem retireTo_rollback (s : State) (t : Word) : (s.retireTo t).rollback = s.rollback := rfl

/-! ### retireSafe -/

@[simp] theorem retireSafe_handlers (s : State) (n : Nat) : (s.retireSafe n).handlers = s.handlers := rfl
@[simp] theorem retireSafe_rings (s : State) (n : Nat) : (s.retireSafe n).rings = s.rings := rfl
@[simp] theorem retireSafe_doneTab (s : State) (n : Nat) : (s.retireSafe n).doneTab = s.doneTab := rfl
@[simp] theorem retireSafe_emem (s : State) (n : Nat) : (s.retireSafe n).emem = s.emem := rfl
@[simp] theorem retireSafe_epoison (s : State) (n : Nat) : (s.retireSafe n).epoison = s.epoison := rfl
@[simp] theorem retireSafe_unitSeq (s : State) (n : Nat) : (s.retireSafe n).unitSeq = s.unitSeq := rfl
@[simp] theorem retireSafe_barInsts (s : State) (n : Nat) : (s.retireSafe n).barInsts = s.barInsts := rfl
@[simp] theorem retireSafe_views (s : State) (n : Nat) : (s.retireSafe n).views = s.views := rfl
@[simp] theorem retireSafe_vblocks (s : State) (n : Nat) : (s.retireSafe n).vblocks = s.vblocks := rfl
@[simp] theorem retireSafe_masters (s : State) (n : Nat) : (s.retireSafe n).masters = s.masters := rfl
@[simp] theorem retireSafe_experts (s : State) (n : Nat) : (s.retireSafe n).experts = s.experts := rfl
@[simp] theorem retireSafe_keyNext (s : State) (n : Nat) : (s.retireSafe n).keyNext = s.keyNext := rfl
@[simp] theorem retireSafe_grpNext (s : State) (n : Nat) : (s.retireSafe n).grpNext = s.grpNext := rfl
@[simp] theorem retireSafe_replies (s : State) (n : Nat) : (s.retireSafe n).replies = s.replies := rfl
@[simp] theorem retireSafe_unitLines (s : State) (n : Nat) : (s.retireSafe n).unitLines = s.unitLines := rfl
@[simp] theorem retireSafe_meeting (s : State) (n : Nat) : (s.retireSafe n).meeting = s.meeting := rfl
@[simp] theorem retireSafe_hostOut (s : State) (n : Nat) : (s.retireSafe n).hostOut = s.hostOut := rfl
@[simp] theorem retireSafe_barNet (s : State) (n : Nat) : (s.retireSafe n).barNet = s.barNet := rfl
@[simp] theorem retireSafe_barReps (s : State) (n : Nat) : (s.retireSafe n).barReps = s.barReps := rfl
@[simp] theorem retireSafe_barDones (s : State) (n : Nat) : (s.retireSafe n).barDones = s.barDones := rfl
@[simp] theorem retireSafe_doneFlits (s : State) (n : Nat) : (s.retireSafe n).doneFlits = s.doneFlits := rfl
@[simp] theorem retireSafe_slotRets (s : State) (n : Nat) : (s.retireSafe n).slotRets = s.slotRets := rfl
@[simp] theorem retireSafe_sentMsgs (s : State) (n : Nat) : (s.retireSafe n).sentMsgs = s.sentMsgs := rfl
@[simp] theorem retireSafe_route (s : State) (n : Nat) : (s.retireSafe n).route = s.route := rfl
@[simp] theorem retireSafe_wire (s : State) (n : Nat) : (s.retireSafe n).wire = s.wire := rfl
@[simp] theorem retireSafe_farAns (s : State) (n : Nat) : (s.retireSafe n).farAns = s.farAns := rfl
@[simp] theorem retireSafe_mstep (s : State) (n : Nat) : (s.retireSafe n).mstep = s.mstep := rfl
@[simp] theorem retireSafe_ltol (s : State) (n : Nat) : (s.retireSafe n).ltol = s.ltol := rfl
@[simp] theorem retireSafe_power (s : State) (n : Nat) : (s.retireSafe n).power = s.power := rfl
@[simp] theorem retireSafe_hostUp (s : State) (n : Nat) : (s.retireSafe n).hostUp = s.hostUp := rfl
@[simp] theorem retireSafe_hostHeld (s : State) (n : Nat) : (s.retireSafe n).hostHeld = s.hostHeld := rfl
@[simp] theorem retireSafe_pend (s : State) (n : Nat) : (s.retireSafe n).pend = s.pend := rfl
@[simp] theorem retireSafe_hostRds (s : State) (n : Nat) : (s.retireSafe n).hostRds = s.hostRds := rfl
@[simp] theorem retireSafe_hldown (s : State) (n : Nat) : (s.retireSafe n).hldown = s.hldown := rfl
@[simp] theorem retireSafe_hostOff (s : State) (n : Nat) : (s.retireSafe n).hostOff = s.hostOff := rfl
@[simp] theorem retireSafe_hopDown (s : State) (n : Nat) : (s.retireSafe n).hopDown = s.hopDown := rfl
@[simp] theorem retireSafe_hopReplays (s : State) (n : Nat) : (s.retireSafe n).hopReplays = s.hopReplays := rfl
@[simp] theorem retireSafe_corrected (s : State) (n : Nat) : (s.retireSafe n).corrected = s.corrected := rfl
@[simp] theorem retireSafe_cutDies (s : State) (n : Nat) : (s.retireSafe n).cutDies = s.cutDies := rfl
@[simp] theorem retireSafe_msix (s : State) (n : Nat) : (s.retireSafe n).msix = s.msix := rfl
@[simp] theorem retireSafe_fuse (s : State) (n : Nat) : (s.retireSafe n).fuse = s.fuse := rfl
@[simp] theorem retireSafe_identity (s : State) (n : Nat) : (s.retireSafe n).identity = s.identity := rfl
@[simp] theorem retireSafe_chain (s : State) (n : Nat) : (s.retireSafe n).chain = s.chain := rfl
@[simp] theorem retireSafe_boot (s : State) (n : Nat) : (s.retireSafe n).boot = s.boot := rfl
@[simp] theorem retireSafe_firm (s : State) (n : Nat) : (s.retireSafe n).firm = s.firm := rfl
@[simp] theorem retireSafe_firmNext (s : State) (n : Nat) : (s.retireSafe n).firmNext = s.firmNext := rfl
@[simp] theorem retireSafe_rollback (s : State) (n : Nat) : (s.retireSafe n).rollback = s.rollback := rfl

/-! ### orFlags -/

@[simp] theorem orFlags_handlers (s : State) (fl : Flags) (lat : Nat) : (s.orFlags fl lat).handlers = s.handlers := rfl
@[simp] theorem orFlags_rings (s : State) (fl : Flags) (lat : Nat) : (s.orFlags fl lat).rings = s.rings := rfl
@[simp] theorem orFlags_doneTab (s : State) (fl : Flags) (lat : Nat) : (s.orFlags fl lat).doneTab = s.doneTab := rfl
@[simp] theorem orFlags_emem (s : State) (fl : Flags) (lat : Nat) : (s.orFlags fl lat).emem = s.emem := rfl
@[simp] theorem orFlags_epoison (s : State) (fl : Flags) (lat : Nat) : (s.orFlags fl lat).epoison = s.epoison := rfl
@[simp] theorem orFlags_unitSeq (s : State) (fl : Flags) (lat : Nat) : (s.orFlags fl lat).unitSeq = s.unitSeq := rfl
@[simp] theorem orFlags_barInsts (s : State) (fl : Flags) (lat : Nat) : (s.orFlags fl lat).barInsts = s.barInsts := rfl
@[simp] theorem orFlags_views (s : State) (fl : Flags) (lat : Nat) : (s.orFlags fl lat).views = s.views := rfl
@[simp] theorem orFlags_vblocks (s : State) (fl : Flags) (lat : Nat) : (s.orFlags fl lat).vblocks = s.vblocks := rfl
@[simp] theorem orFlags_masters (s : State) (fl : Flags) (lat : Nat) : (s.orFlags fl lat).masters = s.masters := rfl
@[simp] theorem orFlags_experts (s : State) (fl : Flags) (lat : Nat) : (s.orFlags fl lat).experts = s.experts := rfl
@[simp] theorem orFlags_keyNext (s : State) (fl : Flags) (lat : Nat) : (s.orFlags fl lat).keyNext = s.keyNext := rfl
@[simp] theorem orFlags_grpNext (s : State) (fl : Flags) (lat : Nat) : (s.orFlags fl lat).grpNext = s.grpNext := rfl
@[simp] theorem orFlags_replies (s : State) (fl : Flags) (lat : Nat) : (s.orFlags fl lat).replies = s.replies := rfl
@[simp] theorem orFlags_unitLines (s : State) (fl : Flags) (lat : Nat) : (s.orFlags fl lat).unitLines = s.unitLines := rfl
@[simp] theorem orFlags_meeting (s : State) (fl : Flags) (lat : Nat) : (s.orFlags fl lat).meeting = s.meeting := rfl
@[simp] theorem orFlags_hostOut (s : State) (fl : Flags) (lat : Nat) : (s.orFlags fl lat).hostOut = s.hostOut := rfl
@[simp] theorem orFlags_barNet (s : State) (fl : Flags) (lat : Nat) : (s.orFlags fl lat).barNet = s.barNet := rfl
@[simp] theorem orFlags_barReps (s : State) (fl : Flags) (lat : Nat) : (s.orFlags fl lat).barReps = s.barReps := rfl
@[simp] theorem orFlags_barDones (s : State) (fl : Flags) (lat : Nat) : (s.orFlags fl lat).barDones = s.barDones := rfl
@[simp] theorem orFlags_doneFlits (s : State) (fl : Flags) (lat : Nat) : (s.orFlags fl lat).doneFlits = s.doneFlits := rfl
@[simp] theorem orFlags_slotRets (s : State) (fl : Flags) (lat : Nat) : (s.orFlags fl lat).slotRets = s.slotRets := rfl
@[simp] theorem orFlags_sentMsgs (s : State) (fl : Flags) (lat : Nat) : (s.orFlags fl lat).sentMsgs = s.sentMsgs := rfl
@[simp] theorem orFlags_route (s : State) (fl : Flags) (lat : Nat) : (s.orFlags fl lat).route = s.route := rfl
@[simp] theorem orFlags_wire (s : State) (fl : Flags) (lat : Nat) : (s.orFlags fl lat).wire = s.wire := rfl
@[simp] theorem orFlags_farAns (s : State) (fl : Flags) (lat : Nat) : (s.orFlags fl lat).farAns = s.farAns := rfl
@[simp] theorem orFlags_mstep (s : State) (fl : Flags) (lat : Nat) : (s.orFlags fl lat).mstep = s.mstep := rfl
@[simp] theorem orFlags_ltol (s : State) (fl : Flags) (lat : Nat) : (s.orFlags fl lat).ltol = s.ltol := rfl
@[simp] theorem orFlags_power (s : State) (fl : Flags) (lat : Nat) : (s.orFlags fl lat).power = s.power := rfl
@[simp] theorem orFlags_hostUp (s : State) (fl : Flags) (lat : Nat) : (s.orFlags fl lat).hostUp = s.hostUp := rfl
@[simp] theorem orFlags_hostHeld (s : State) (fl : Flags) (lat : Nat) : (s.orFlags fl lat).hostHeld = s.hostHeld := rfl
@[simp] theorem orFlags_pend (s : State) (fl : Flags) (lat : Nat) : (s.orFlags fl lat).pend = s.pend := rfl
@[simp] theorem orFlags_hostRds (s : State) (fl : Flags) (lat : Nat) : (s.orFlags fl lat).hostRds = s.hostRds := rfl
@[simp] theorem orFlags_hldown (s : State) (fl : Flags) (lat : Nat) : (s.orFlags fl lat).hldown = s.hldown := rfl
@[simp] theorem orFlags_hostOff (s : State) (fl : Flags) (lat : Nat) : (s.orFlags fl lat).hostOff = s.hostOff := rfl
@[simp] theorem orFlags_hopDown (s : State) (fl : Flags) (lat : Nat) : (s.orFlags fl lat).hopDown = s.hopDown := rfl
@[simp] theorem orFlags_hopReplays (s : State) (fl : Flags) (lat : Nat) : (s.orFlags fl lat).hopReplays = s.hopReplays := rfl
@[simp] theorem orFlags_corrected (s : State) (fl : Flags) (lat : Nat) : (s.orFlags fl lat).corrected = s.corrected := rfl
@[simp] theorem orFlags_cutDies (s : State) (fl : Flags) (lat : Nat) : (s.orFlags fl lat).cutDies = s.cutDies := rfl
@[simp] theorem orFlags_msix (s : State) (fl : Flags) (lat : Nat) : (s.orFlags fl lat).msix = s.msix := rfl
@[simp] theorem orFlags_fuse (s : State) (fl : Flags) (lat : Nat) : (s.orFlags fl lat).fuse = s.fuse := rfl
@[simp] theorem orFlags_identity (s : State) (fl : Flags) (lat : Nat) : (s.orFlags fl lat).identity = s.identity := rfl
@[simp] theorem orFlags_chain (s : State) (fl : Flags) (lat : Nat) : (s.orFlags fl lat).chain = s.chain := rfl
@[simp] theorem orFlags_boot (s : State) (fl : Flags) (lat : Nat) : (s.orFlags fl lat).boot = s.boot := rfl
@[simp] theorem orFlags_firm (s : State) (fl : Flags) (lat : Nat) : (s.orFlags fl lat).firm = s.firm := rfl
@[simp] theorem orFlags_firmNext (s : State) (fl : Flags) (lat : Nat) : (s.orFlags fl lat).firmNext = s.firmNext := rfl
@[simp] theorem orFlags_rollback (s : State) (fl : Flags) (lat : Nat) : (s.orFlags fl lat).rollback = s.rollback := rfl

/-! ### waitFor -/

@[simp] theorem waitFor_handlers (s : State) (w : Wait) : (s.waitFor w).handlers = s.handlers := rfl
@[simp] theorem waitFor_rings (s : State) (w : Wait) : (s.waitFor w).rings = s.rings := rfl
@[simp] theorem waitFor_doneTab (s : State) (w : Wait) : (s.waitFor w).doneTab = s.doneTab := rfl
@[simp] theorem waitFor_emem (s : State) (w : Wait) : (s.waitFor w).emem = s.emem := rfl
@[simp] theorem waitFor_epoison (s : State) (w : Wait) : (s.waitFor w).epoison = s.epoison := rfl
@[simp] theorem waitFor_unitSeq (s : State) (w : Wait) : (s.waitFor w).unitSeq = s.unitSeq := rfl
@[simp] theorem waitFor_barInsts (s : State) (w : Wait) : (s.waitFor w).barInsts = s.barInsts := rfl
@[simp] theorem waitFor_views (s : State) (w : Wait) : (s.waitFor w).views = s.views := rfl
@[simp] theorem waitFor_vblocks (s : State) (w : Wait) : (s.waitFor w).vblocks = s.vblocks := rfl
@[simp] theorem waitFor_masters (s : State) (w : Wait) : (s.waitFor w).masters = s.masters := rfl
@[simp] theorem waitFor_experts (s : State) (w : Wait) : (s.waitFor w).experts = s.experts := rfl
@[simp] theorem waitFor_keyNext (s : State) (w : Wait) : (s.waitFor w).keyNext = s.keyNext := rfl
@[simp] theorem waitFor_grpNext (s : State) (w : Wait) : (s.waitFor w).grpNext = s.grpNext := rfl
@[simp] theorem waitFor_replies (s : State) (w : Wait) : (s.waitFor w).replies = s.replies := rfl
@[simp] theorem waitFor_unitLines (s : State) (w : Wait) : (s.waitFor w).unitLines = s.unitLines := rfl
@[simp] theorem waitFor_meeting (s : State) (w : Wait) : (s.waitFor w).meeting = s.meeting := rfl
@[simp] theorem waitFor_hostOut (s : State) (w : Wait) : (s.waitFor w).hostOut = s.hostOut := rfl
@[simp] theorem waitFor_barNet (s : State) (w : Wait) : (s.waitFor w).barNet = s.barNet := rfl
@[simp] theorem waitFor_barReps (s : State) (w : Wait) : (s.waitFor w).barReps = s.barReps := rfl
@[simp] theorem waitFor_barDones (s : State) (w : Wait) : (s.waitFor w).barDones = s.barDones := rfl
@[simp] theorem waitFor_doneFlits (s : State) (w : Wait) : (s.waitFor w).doneFlits = s.doneFlits := rfl
@[simp] theorem waitFor_slotRets (s : State) (w : Wait) : (s.waitFor w).slotRets = s.slotRets := rfl
@[simp] theorem waitFor_sentMsgs (s : State) (w : Wait) : (s.waitFor w).sentMsgs = s.sentMsgs := rfl
@[simp] theorem waitFor_route (s : State) (w : Wait) : (s.waitFor w).route = s.route := rfl
@[simp] theorem waitFor_wire (s : State) (w : Wait) : (s.waitFor w).wire = s.wire := rfl
@[simp] theorem waitFor_farAns (s : State) (w : Wait) : (s.waitFor w).farAns = s.farAns := rfl
@[simp] theorem waitFor_mstep (s : State) (w : Wait) : (s.waitFor w).mstep = s.mstep := rfl
@[simp] theorem waitFor_ltol (s : State) (w : Wait) : (s.waitFor w).ltol = s.ltol := rfl
@[simp] theorem waitFor_power (s : State) (w : Wait) : (s.waitFor w).power = s.power := rfl
@[simp] theorem waitFor_hostUp (s : State) (w : Wait) : (s.waitFor w).hostUp = s.hostUp := rfl
@[simp] theorem waitFor_hostHeld (s : State) (w : Wait) : (s.waitFor w).hostHeld = s.hostHeld := rfl
@[simp] theorem waitFor_pend (s : State) (w : Wait) : (s.waitFor w).pend = s.pend := rfl
@[simp] theorem waitFor_hostRds (s : State) (w : Wait) : (s.waitFor w).hostRds = s.hostRds := rfl
@[simp] theorem waitFor_hldown (s : State) (w : Wait) : (s.waitFor w).hldown = s.hldown := rfl
@[simp] theorem waitFor_hostOff (s : State) (w : Wait) : (s.waitFor w).hostOff = s.hostOff := rfl
@[simp] theorem waitFor_hopDown (s : State) (w : Wait) : (s.waitFor w).hopDown = s.hopDown := rfl
@[simp] theorem waitFor_hopReplays (s : State) (w : Wait) : (s.waitFor w).hopReplays = s.hopReplays := rfl
@[simp] theorem waitFor_corrected (s : State) (w : Wait) : (s.waitFor w).corrected = s.corrected := rfl
@[simp] theorem waitFor_cutDies (s : State) (w : Wait) : (s.waitFor w).cutDies = s.cutDies := rfl
@[simp] theorem waitFor_msix (s : State) (w : Wait) : (s.waitFor w).msix = s.msix := rfl
@[simp] theorem waitFor_fuse (s : State) (w : Wait) : (s.waitFor w).fuse = s.fuse := rfl
@[simp] theorem waitFor_identity (s : State) (w : Wait) : (s.waitFor w).identity = s.identity := rfl
@[simp] theorem waitFor_chain (s : State) (w : Wait) : (s.waitFor w).chain = s.chain := rfl
@[simp] theorem waitFor_boot (s : State) (w : Wait) : (s.waitFor w).boot = s.boot := rfl
@[simp] theorem waitFor_firm (s : State) (w : Wait) : (s.waitFor w).firm = s.firm := rfl
@[simp] theorem waitFor_firmNext (s : State) (w : Wait) : (s.waitFor w).firmNext = s.firmNext := rfl
@[simp] theorem waitFor_rollback (s : State) (w : Wait) : (s.waitFor w).rollback = s.rollback := rfl

/-! ### progress -/

@[simp] theorem progress_handlers (s : State) (k : Nat) : (s.progress k).handlers = s.handlers := rfl
@[simp] theorem progress_rings (s : State) (k : Nat) : (s.progress k).rings = s.rings := rfl
@[simp] theorem progress_doneTab (s : State) (k : Nat) : (s.progress k).doneTab = s.doneTab := rfl
@[simp] theorem progress_emem (s : State) (k : Nat) : (s.progress k).emem = s.emem := rfl
@[simp] theorem progress_epoison (s : State) (k : Nat) : (s.progress k).epoison = s.epoison := rfl
@[simp] theorem progress_unitSeq (s : State) (k : Nat) : (s.progress k).unitSeq = s.unitSeq := rfl
@[simp] theorem progress_barInsts (s : State) (k : Nat) : (s.progress k).barInsts = s.barInsts := rfl
@[simp] theorem progress_views (s : State) (k : Nat) : (s.progress k).views = s.views := rfl
@[simp] theorem progress_vblocks (s : State) (k : Nat) : (s.progress k).vblocks = s.vblocks := rfl
@[simp] theorem progress_masters (s : State) (k : Nat) : (s.progress k).masters = s.masters := rfl
@[simp] theorem progress_experts (s : State) (k : Nat) : (s.progress k).experts = s.experts := rfl
@[simp] theorem progress_keyNext (s : State) (k : Nat) : (s.progress k).keyNext = s.keyNext := rfl
@[simp] theorem progress_grpNext (s : State) (k : Nat) : (s.progress k).grpNext = s.grpNext := rfl
@[simp] theorem progress_replies (s : State) (k : Nat) : (s.progress k).replies = s.replies := rfl
@[simp] theorem progress_unitLines (s : State) (k : Nat) : (s.progress k).unitLines = s.unitLines := rfl
@[simp] theorem progress_meeting (s : State) (k : Nat) : (s.progress k).meeting = s.meeting := rfl
@[simp] theorem progress_hostOut (s : State) (k : Nat) : (s.progress k).hostOut = s.hostOut := rfl
@[simp] theorem progress_barNet (s : State) (k : Nat) : (s.progress k).barNet = s.barNet := rfl
@[simp] theorem progress_barReps (s : State) (k : Nat) : (s.progress k).barReps = s.barReps := rfl
@[simp] theorem progress_barDones (s : State) (k : Nat) : (s.progress k).barDones = s.barDones := rfl
@[simp] theorem progress_doneFlits (s : State) (k : Nat) : (s.progress k).doneFlits = s.doneFlits := rfl
@[simp] theorem progress_slotRets (s : State) (k : Nat) : (s.progress k).slotRets = s.slotRets := rfl
@[simp] theorem progress_sentMsgs (s : State) (k : Nat) : (s.progress k).sentMsgs = s.sentMsgs := rfl
@[simp] theorem progress_route (s : State) (k : Nat) : (s.progress k).route = s.route := rfl
@[simp] theorem progress_wire (s : State) (k : Nat) : (s.progress k).wire = s.wire := rfl
@[simp] theorem progress_farAns (s : State) (k : Nat) : (s.progress k).farAns = s.farAns := rfl
@[simp] theorem progress_mstep (s : State) (k : Nat) : (s.progress k).mstep = s.mstep := rfl
@[simp] theorem progress_ltol (s : State) (k : Nat) : (s.progress k).ltol = s.ltol := rfl
@[simp] theorem progress_power (s : State) (k : Nat) : (s.progress k).power = s.power := rfl
@[simp] theorem progress_hostUp (s : State) (k : Nat) : (s.progress k).hostUp = s.hostUp := rfl
@[simp] theorem progress_hostHeld (s : State) (k : Nat) : (s.progress k).hostHeld = s.hostHeld := rfl
@[simp] theorem progress_pend (s : State) (k : Nat) : (s.progress k).pend = s.pend := rfl
@[simp] theorem progress_hostRds (s : State) (k : Nat) : (s.progress k).hostRds = s.hostRds := rfl
@[simp] theorem progress_hldown (s : State) (k : Nat) : (s.progress k).hldown = s.hldown := rfl
@[simp] theorem progress_hostOff (s : State) (k : Nat) : (s.progress k).hostOff = s.hostOff := rfl
@[simp] theorem progress_hopDown (s : State) (k : Nat) : (s.progress k).hopDown = s.hopDown := rfl
@[simp] theorem progress_hopReplays (s : State) (k : Nat) : (s.progress k).hopReplays = s.hopReplays := rfl
@[simp] theorem progress_corrected (s : State) (k : Nat) : (s.progress k).corrected = s.corrected := rfl
@[simp] theorem progress_cutDies (s : State) (k : Nat) : (s.progress k).cutDies = s.cutDies := rfl
@[simp] theorem progress_msix (s : State) (k : Nat) : (s.progress k).msix = s.msix := rfl
@[simp] theorem progress_fuse (s : State) (k : Nat) : (s.progress k).fuse = s.fuse := rfl
@[simp] theorem progress_identity (s : State) (k : Nat) : (s.progress k).identity = s.identity := rfl
@[simp] theorem progress_chain (s : State) (k : Nat) : (s.progress k).chain = s.chain := rfl
@[simp] theorem progress_boot (s : State) (k : Nat) : (s.progress k).boot = s.boot := rfl
@[simp] theorem progress_firm (s : State) (k : Nat) : (s.progress k).firm = s.firm := rfl
@[simp] theorem progress_firmNext (s : State) (k : Nat) : (s.progress k).firmNext = s.firmNext := rfl
@[simp] theorem progress_rollback (s : State) (k : Nat) : (s.progress k).rollback = s.rollback := rfl

end Sys2Proof.Machine.State
end

