-- ==== Sys2Proof/Laws/Trap.lean ====
section
/-! SUPPORT. A release by a task with nothing on its way changes nothing that can be read, and what taking a trap leaves (R77,
R361 to R367). -/

namespace Sys2Proof.Machine.State

theorem flushVops_none {s : State} {rid core frame : Nat} (h : (s.frameSt (unitKey rid core frame)).vops = []) :
    s.flushVops rid core frame = s.modFrame (unitKey rid core frame) fun f => { f with vops := [] } := by
  simp [flushVops, flushSome, h]

theorem drainAll_none {s : State} {rid core : Nat} (h : (s.coreSt (coreKey rid core)).cbuf = []) :
    s.drainAll rid core = s.modCore (coreKey rid core) fun c => { c with cbuf := [] } := by
  simp [drainAll, h]

theorem flushAgent_none {s : State} (h : s.agentQ = []) (p : AgentReq → Bool) : s.flushAgent p = s := by
  unfold flushAgent
  simp only [h, List.filter_nil, List.foldl_nil]
  rw [← h]

theorem flushRemote_none {s : State} (h : s.rnet = []) (p : RemReq → Bool) : s.flushRemote p = s := by
  unfold flushRemote
  simp only [h, List.filter_nil, List.foldl_nil]
  rw [← h]

/-- No acknowledgement is taken where none of the stores that `p` picks is posted. -/
theorem takeAcks_none {s : State} {rid core : Nat} {p : OutEnt → Bool}
    (h : ∀ e ∈ (s.coreSt (coreKey rid core)).outq, (e.store && p e) = false) : s.takeAcks rid core p = s := by
  have hm : ((s.coreSt (coreKey rid core)).outq.filter fun e => e.store && p e) = [] :=
    List.filter_eq_nil_iff.mpr fun e he => by simp [h e he]
  unfold takeAcks
  simp [hm]
/-- Nor where no reply has come. -/
theorem takeAcks_noReply {s : State} (h : s.replies = []) (rid core : Nat) (p : OutEnt → Bool) : s.takeAcks rid core p = s := by
  unfold takeAcks
  simp [h]

end Sys2Proof.Machine.State

namespace Sys2Proof
open Machine

theorem Quiet.me_vops {s : State} (h : Quiet s) : (s.frameSt (unitKey s.cur.rid s.cur.core s.me.frame)).vops = [] := h.2.2.2.2.1
theorem Quiet.cbuf {s : State} (h : Quiet s) : (s.coreSt (coreKey s.cur.rid s.cur.core)).cbuf = [] := h.2.2.2.1

theorem Frame.noVops {f : Frame} (h : f.vops = []) : { f with vops := [] } = f := by cases f; cases h; rfl
theorem CoreSt.noBuf {c : CoreSt} (h : c.cbuf = []) : { c with cbuf := [] } = c := by cases c; cases h; rfl

/-- A release of a task with nothing on its way changes nothing that can be read: it rewrites two tables with their own content. -/
theorem release_quiet {s : State} (h : Quiet s) (sc : Nat) :
    s.release sc = { s with frames := (s.release sc).frames, cores := (s.release sc).cores }
      ∧ (∀ k, (s.release sc).frameSt k = s.frameSt k) ∧ ∀ k, (s.release sc).coreSt k = s.coreSt k := by
  have hv := h.me_vops
  have hb := h.cbuf
  obtain ⟨-, ha, hr, -, -, -, ho⟩ := h
  have hF : ∀ k, (s.modFrame (unitKey s.cur.rid s.cur.core s.me.frame) fun f => { f with vops := [] }).frameSt k
      = s.frameSt k := by
    intro k
    rw [State.modFrame_frameSt_eq]
    split
    · next hk => rw [hk]; exact Frame.noVops hv
    · rfl
  have hq : ∀ (u : State), (u.coreSt (coreKey s.cur.rid s.cur.core)).outq = (s.coreSt s.ck).outq →
      (u.takeAcks s.cur.rid s.cur.core fun e => e.frame == s.me.frame && State.within s.cur.core (e.addr / 2 ^ 18) sc) = u := by
    intro u hu
    refine State.takeAcks_none fun e he => ?_
    rw [hu] at he
    by_cases hfr : e.frame = s.me.frame
    · simp [ho e he hfr]
    · simp [hfr]
  by_cases hs : 2 ≤ sc
  · have e : s.release sc = (s.modFrame (unitKey s.cur.rid s.cur.core s.me.frame) fun f => { f with vops := [] }).modCore
        (coreKey s.cur.rid s.cur.core) fun c => { c with cbuf := [] } := by
      unfold State.release State.releaseBy State.performEarlier
      rw [State.flushVops_none hv]
      simp only [hs, decide_true, if_true]
      rw [State.drainAll_none (by rw [State.modFrame_coreSt]; exact hb), State.flushAgent_none (by exact ha),
        State.flushRemote_none (by exact hr)]
      refine hq _ ?_
      rw [State.modCore_coreSt_eq, if_pos rfl, State.modFrame_coreSt]; rfl
    rw [e]
    refine ⟨rfl, fun k => ?_, fun k => ?_⟩
    · rw [State.modCore_frameSt]; exact hF k
    · rw [State.modCore_coreSt_eq, State.modFrame_coreSt, State.modFrame_coreSt]
      split
      · next hk => rw [hk]; exact CoreSt.noBuf hb
      · rfl
  · have e : s.release sc = s.modFrame (unitKey s.cur.rid s.cur.core s.me.frame) fun f => { f with vops := [] } := by
      unfold State.release State.releaseBy State.performEarlier
      rw [State.flushVops_none hv]
      simp only [hs, decide_false, Bool.false_eq_true, if_false]
      rw [State.flushRemote_none (by exact hr)]
      exact hq _ rfl
    rw [e]
    exact ⟨rfl, hF, fun k => by rw [State.modFrame_coreSt]⟩

theorem Quiet.canRelease {s : State} (h : Quiet s) (sc : Nat) : s.canRelease sc = true := by
  have hv := h.me_vops
  have hb := h.cbuf
  obtain ⟨hf, -, -, -, -, -, ho⟩ := h
  unfold State.canRelease State.canReleaseBy State.farPending State.elemPending State.farHeldBack State.lostStore
  rw [hf, hv, hb]
  have hl : ((s.coreSt (coreKey s.cur.rid s.cur.core)).outq.any fun e =>
      e.frame == s.me.frame && e.store && (s.coreSt (coreKey s.cur.rid (e.addr / 2 ^ 18))).fenced
        && State.within s.cur.core (e.addr / 2 ^ 18) sc
        && !s.replies.any fun r => r.rid == s.cur.rid && r.core == s.cur.core && r.id == e.id) = false := by
    rw [List.any_eq_false]
    intro e he
    by_cases hfr : e.frame = s.me.frame
    · simp [ho e he hfr]
    · simp [hfr]
  rw [hl]; simp

/-- Clearing the range of one block of a table. -/
theorem get_clear_block {α : Type} (t : Tab α) (d : α) (n b k : Nat) (hn : 0 < n) :
    (t.clear (b * n) ((b + 1) * n)).get d k = if k / n = b then d else t.get d k := by
  rw [Tab.get_clear]
  have h : (b * n ≤ k ∧ k < (b + 1) * n) ↔ k / n = b := by
    rw [Nat.div_eq_iff hn, Nat.add_mul, Nat.one_mul]
    omega
  simp only [h]

theorem freeTask_slots (u : State) (rid core slot : Nat) :
    (u.freeTask rid core slot).slots = u.slots.set {} (unitKey rid core slot) {} := rfl
theorem freeTask_frames (u : State) (rid core slot : Nat) : (u.freeTask rid core slot).frames =
    u.frames.set {} (unitKey rid core (u.slotSt (unitKey rid core slot)).frame) {} := rfl
theorem freeTask_xregs (u : State) (rid core slot : Nat) : (u.freeTask rid core slot).xregs =
    u.xregs.clear (unitKey rid core slot * 32) ((unitKey rid core slot + 1) * 32) := rfl
theorem freeTask_fregs (u : State) (rid core slot : Nat) : (u.freeTask rid core slot).fregs =
    u.fregs.clear (unitKey rid core slot * 32) ((unitKey rid core slot + 1) * 32) := rfl
theorem freeTask_pregs (u : State) (rid core slot : Nat) : (u.freeTask rid core slot).pregs =
    u.pregs.clear (unitKey rid core slot * 8) ((unitKey rid core slot + 1) * 8) := rfl
theorem freeTask_vregs (u : State) (rid core slot : Nat) : (u.freeTask rid core slot).vregs = u.vregs := rfl

/-- What freeing the slot and frame of the issuing task leaves, once its claim is gone. -/
theorem taskGone_freeTask {s u : State} (hs : ∀ k, u.slotSt k = s.slotSt k)
    (hf : ∀ k, k ≠ s.fk → u.frameSt k = s.frameSt k) (hx : u.xregs = s.xregs) (hr : u.fregs = s.fregs)
    (hp : u.pregs = s.pregs) (hv : ∀ k, u.vregs.get 0#32 k = if k / 2048 = s.fk then 0#32 else s.vregs.get 0#32 k) :
    TaskGone s (u.freeTask s.cur.rid s.cur.core s.cur.slot) := by
  have hfk : unitKey s.cur.rid s.cur.core (u.slotSt (unitKey s.cur.rid s.cur.core s.cur.slot)).frame = s.fk := by
    rw [hs]; rfl
  have hsk : unitKey s.cur.rid s.cur.core s.cur.slot = s.sk := rfl
  refine ⟨fun k => ?_, fun k => ?_, fun k => ?_, fun k => ?_, fun k => ?_, fun k => ?_⟩
  · unfold State.slotSt
    rw [freeTask_slots, Tab.get_set, hsk]
    split
    · rfl
    · exact hs k
  · unfold State.frameSt
    rw [freeTask_frames, hfk, Tab.get_set]
    split
    · rfl
    · next h => exact hf k h
  · rw [freeTask_xregs, hsk, get_clear_block _ _ 32 _ _ (by omega), hx]
  · rw [freeTask_fregs, hsk, get_clear_block _ _ 32 _ _ (by omega), hr]
  · rw [freeTask_pregs, hsk, get_clear_block _ _ 8 _ _ (by omega), hp]
  · rw [freeTask_vregs]; exact hv k

theorem dropClaim_vregs (s : State) (rid core frame : Nat) : (s.dropClaim rid core frame).vregs =
    s.vregs.clear (unitKey rid core frame * 2048) ((unitKey rid core frame + 1) * 2048) := rfl
theorem dropClaim_frameSt (s : State) (rid core frame k : Nat) (h : k ≠ unitKey rid core frame) :
    (s.dropClaim rid core frame).frameSt k = s.frameSt k := by
  have := State.modFrame_frameSt_eq s (unitKey rid core frame) (fun f => { f with width := 0, base := 0, units := [] }) k
  rw [if_neg h] at this
  exact this
theorem killClaim_vregs (s : State) (rid core frame k : Nat) : (s.killClaim rid core frame).vregs.get 0#32 k =
    if k / 2048 = unitKey rid core frame then 0#32 else s.vregs.get 0#32 k := by
  unfold State.killClaim
  rw [dropClaim_vregs, get_clear_block _ _ 2048 _ _ (by omega), State.modOctet_vregs]
theorem killClaim_frameSt (s : State) (rid core frame k : Nat) (h : k ≠ unitKey rid core frame) :
    (s.killClaim rid core frame).frameSt k = s.frameSt k := by
  unfold State.killClaim
  rw [dropClaim_frameSt _ _ _ _ _ h, State.modOctet_frameSt]

theorem groupDone_gone {s u : State} (rid : Nat) (g : Option Nat) (h : TaskGone s u) : TaskGone s (u.groupDone rid g) := by
  unfold State.groupDone
  split
  · exact h
  · exact h

/-- A message for this device goes to the network. -/
theorem send_here (s : State) (m : Msg) (h : m.ddev = 0xFFF) : s.send m = { s with net := s.net ++ [m] } := by
  unfold State.send
  rw [if_pos (Or.inl h)]
  have : { m with ddev := 0xFFF } = m := by cases m; cases h; rfl
  rw [this]

/-- The tail of a kill: claim, slot, frame and group. -/
theorem kill_tail {s u : State} (hs : u.slots = s.slots) (hf : ∀ k, u.frameSt k = s.frameSt k) (hx : u.xregs = s.xregs)
    (hr : u.fregs = s.fregs) (hp : u.pregs = s.pregs) (hv : u.vregs = s.vregs) (g : Option Nat) :
    TaskGone s (((u.killClaim s.cur.rid s.cur.core s.me.frame).freeTask s.cur.rid s.cur.core s.cur.slot).groupDone s.cur.rid g) := by
  apply groupDone_gone
  have hc : ∀ k, (u.killClaim s.cur.rid s.cur.core s.me.frame).slotSt k = s.slotSt k := by
    intro k; unfold State.slotSt; rw [← hs]; rfl
  refine taskGone_freeTask hc (fun k h => ?_) hx hr hp (fun k => ?_)
  · rw [killClaim_frameSt _ _ _ _ _ (by exact h)]; exact hf k
  · rw [killClaim_vregs, hv]; rfl

theorem groupDone_net (s : State) (rid : Nat) (g : Option Nat) : (s.groupDone rid g).net = s.net := by
  unfold State.groupDone; split <;> rfl
theorem groupDone_cores (s : State) (rid : Nat) (g : Option Nat) : (s.groupDone rid g).cores = s.cores := by
  unfold State.groupDone; split <;> rfl
theorem groupDone_mem (s : State) (rid : Nat) (g : Option Nat) : (s.groupDone rid g).mem = s.mem := by
  unfold State.groupDone; split <;> rfl
theorem groupDone_poison (s : State) (rid : Nat) (g : Option Nat) : (s.groupDone rid g).poison = s.poison := by
  unfold State.groupDone; split <;> rfl
theorem groupDone_realms (s : State) (rid : Nat) (g : Option Nat) : (s.groupDone rid g).realms = s.realms := by
  unfold State.groupDone; split <;> rfl
theorem groupDone_counters (s : State) (rid : Nat) (g : Option Nat) : (s.groupDone rid g).counters = s.counters := by
  unfold State.groupDone; split <;> rfl
theorem groupDone_cdescs (s : State) (rid : Nat) (g : Option Nat) : (s.groupDone rid g).cdescs = s.cdescs := by
  unfold State.groupDone; split <;> rfl

/-- H0 of a record (R23, R363). -/
theorem h0_record (h t : Nat) : mkH0 0 1 true 0 h 0xFFF t =
    BitVec.ofNat 64 (1 * 2 ^ 49 + 2 ^ 48 + h * 2 ^ 32 + 0xFFF * 2 ^ 20 + t) := by
  unfold mkH0; simp only [reduceIte, Nat.zero_mul, Nat.zero_add, Nat.add_zero]
/-- H1 of a record (R23, R363). -/
theorem h1_record (a b c : Nat) : mkH1 true false a b c 0 =
    BitVec.ofNat 64 (2 ^ 57 + a * 2 ^ 50 + b * 2 ^ 38 + c * 2 ^ 18) := by
  unfold mkH1; rw [if_pos rfl, if_neg (by decide), Nat.add_zero, Nat.add_zero]
/-- A0 of a record of a task (R364). -/
theorem a0_record (h f s p l d c : Nat) : recA0 h f s p (l == 2) false d c =
    BitVec.ofNat 64 (h * 2 ^ 43 + f * 2 ^ 39 + s * 2 ^ 36 + p % 2 ^ 18 * 2 ^ 18
      + (if l = 2 then 2 ^ 17 else 0) + d % 256 * 2 ^ 8 + c) := by
  unfold recA0
  rw [if_neg (by decide : ¬ (false = true)), Nat.add_zero]
  congr 1
  by_cases e : l = 2 <;> simp only [e, beq_self_eq_true, if_true, beq_iff_eq]

/-- The record that a trap sends is the one of R364. -/
theorem record_eq (s u : State) (len : Nat) (f : Flt) (hf : u.fabid = s.fabid) (hr : u.realms = s.realms) :
    u.recordMsg s.cur.rid s.cur.core
      (recA0 s.me.hix s.me.frame s.cur.slot s.pc.toNat (len == 2) false f.detail f.code) (BitVec.ofNat 64 f.addr)
      (BitVec.ofNat 64 (f.info % 2 ^ 32 * 2 ^ 32 + s.iword len))
      (BitVec.ofNat 64 ((s.coreSt s.ck).fseq % 2 ^ 32 * 2 ^ 32 + s.cycle s.dk % 2 ^ 32))
      = trapRecord s len f.code f.detail f.addr f.info := by
  unfold State.recordMsg trapRecord State.iword State.myRealm State.realm
  rw [h0_record, h1_record, a0_record, hf, hr]

/-- TAKING A TRAP, when nothing of the task's is on its way and the trap is no double fault: the record of R364 is sent, the task
is gone, the core has counted the record, and nothing else has changed. -/
theorem trap_taken {s : State} (hq : Quiet s) (h1 : SingleFault s) (len : Nat) (f : Flt) :
    TrapTaken s (s.trap len f) len f.code f.detail f.addr f.info := by
  have hd : s.doubleFault = false := by
    unfold State.doubleFault
    obtain ⟨he, hn⟩ := h1
    rw [he]
    simp only [Bool.not_true, Bool.false_or, Bool.and_eq_false_iff, beq_eq_false_iff_ne, Bool.or_eq_false_iff]
    by_cases hc : s.cur.core = s.myRealm.trapc
    · right; exact ⟨fun e => hn ⟨hc, Or.inl e⟩, fun e => hn ⟨hc, Or.inr e⟩⟩
    · left; exact hc
  have hr := release_quiet hq 4
  unfold State.trap State.trapAt
  rw [hq.canRelease 4, hd]
  simp only [Bool.not_true, Bool.false_eq_true, if_false]
  unfold State.killTask
  show TrapTaken s _ len f.code f.detail f.addr f.info
  have e : s.releaseBy s.cur.rid s.cur.core (s.slotSt (unitKey s.cur.rid s.cur.core s.cur.slot)).frame 4 = s.release 4 := rfl
  simp only [e]
  generalize s.release 4 = u at hr ⊢
  obtain ⟨hu, hF, hC⟩ := hr
  rw [send_here _ _ rfl]
  have hfab : u.fabid = s.fabid := by rw [hu]
  have hrl : u.realms = s.realms := by rw [hu]
  have hnet : u.net = s.net := by rw [hu]
  have hcyc : u.cycle (dieKey s.cur.rid (coreDie s.cur.core)) = s.cycle s.dk := by
    have h1 : u.clock = s.clock := by rw [hu]
    have h2 : u.dies = s.dies := by rw [hu]
    unfold State.cycle State.dieSt State.dk
    rw [h1, h2]
  have hfs : (u.coreSt (coreKey s.cur.rid s.cur.core)).fseq = (s.coreSt s.ck).fseq := by rw [hC]; rfl
  have hmem : u.mem = s.mem := by rw [hu]
  have hsl : u.slots = s.slots := by rw [hu]
  have hx : u.xregs = s.xregs := by rw [hu]
  have hfr : u.fregs = s.fregs := by rw [hu]
  have hpr : u.pregs = s.pregs := by rw [hu]
  have hvr : u.vregs = s.vregs := by rw [hu]
  have hpo : u.poison = s.poison := by rw [hu]
  have hct : u.counters = s.counters := by rw [hu]
  have hcd : u.cdescs = s.cdescs := by rw [hu]
  refine ⟨?_, ?_, fun k => ?_, ?_, ?_, ?_, ?_, ?_⟩
  · rw [groupDone_net]
    rw [hcyc, hfs] at *
    rw [← record_eq s u len f hfab hrl, ← hnet]; rfl
  · refine kill_tail (s := s) ?_ (fun k => ?_) ?_ ?_ ?_ ?_ _
    · exact Eq.trans rfl hsl
    · exact Eq.trans rfl (hF k)
    · exact Eq.trans rfl hx
    · exact Eq.trans rfl hfr
    · exact Eq.trans rfl hpr
    · exact Eq.trans rfl hvr
  · unfold State.coreSt
    rw [groupDone_cores]
    refine Eq.trans (State.modCore_coreSt_eq { u with net := _ } (coreKey s.cur.rid s.cur.core)
      (fun c => { c with fseq := c.fseq + 1 }) k) ?_
    show (if k = s.ck then ({ u.coreSt s.ck with fseq := (u.coreSt s.ck).fseq + 1 } : CoreSt) else u.coreSt k) = _
    rw [hC, hC]; rfl
  · rw [groupDone_mem, ← hmem]; rfl
  · rw [groupDone_poison, ← hpo]; rfl
  · rw [groupDone_realms, ← hrl]; rfl
  · rw [groupDone_counters, ← hct]; rfl
  · rw [groupDone_cdescs, ← hcd]; rfl

end Sys2Proof
end

