-- ==== Sys2Proof/Laws/Units.lean ====
section
/-! SUPPORT. What an event or instruction that reads through a unit comes to (`State.whole`), and what an
acquire and the acknowledgements that it takes can change. -/

namespace Sys2Proof.Machine.State

/-- With nothing asked for and no line at hand, the event is what it computes. -/
theorem whole_done {w t : State} (h : t.awaits w.asker = false) (hl : t.unitLines = []) : w.whole t = t := by
  simp [whole, h, hl]

/-- Everything that the wait for a line, or its end, can do: while a line is missing only the queue of requests can grow; else only the lines
that came for this event go. -/
theorem whole_cases (w t : State) :
    (t.awaits w.asker = true ∧ ∃ q, w.whole t = { w with farQ := w.farQ ++ q })
    ∨ (t.awaits w.asker = false ∧ ∃ l, w.whole t = { t with unitLines := l } ∧ ∀ x ∈ l, x ∈ t.unitLines) := by
  unfold whole
  split
  · next h =>
    refine .inl ⟨h, ?_⟩
    split
    · exact ⟨[], by simp⟩
    · exact ⟨_, rfl⟩
  · next h =>
    refine .inr ⟨by simpa using h, ?_⟩
    split
    · exact ⟨t.unitLines, rfl, fun _ hx => hx⟩
    · exact ⟨_, rfl, fun x hx => (List.mem_filter.1 hx).1⟩

/-- Memory after it is that of the wait or that of the event. -/
theorem whole_mem (w t : State) : (w.whole t).mem = if t.awaits w.asker then w.mem else t.mem := by
  rcases whole_cases w t with ⟨h, q, e⟩ | ⟨h, l, e, -⟩ <;> rw [e, h] <;> rfl

/-- Acknowledgements change the replies on their way and the outbound queue they free, and nothing else. -/
theorem takeAcks_frame (s : State) (rid core : Nat) (p : OutEnt → Bool) :
    ∃ rs cs, s.takeAcks rid core p = { s with replies := rs, cores := cs } := by
  unfold takeAcks
  simp only
  split
  · exact ⟨s.replies, s.cores, rfl⟩
  · exact ⟨_, _, rfl⟩

/-- An acquire changes besides only the cluster caches. -/
theorem acquireBy_frame (s : State) (rid core scope : Nat) :
    ∃ rs cs cl, s.acquireBy rid core scope = { s with replies := rs, cores := cs, clusters := cl } := by
  obtain ⟨rs, cs, h⟩ := takeAcks_frame s rid core fun _ => true
  unfold acquireBy
  simp only [h]
  split
  · exact ⟨rs, cs, _, rfl⟩
  · exact ⟨rs, cs, s.clusters, rfl⟩

/-- No acquire writes memory. -/
theorem acquireBy_mem (s : State) (rid core scope : Nat) : (s.acquireBy rid core scope).mem = s.mem := by
  obtain ⟨rs, cs, cl, h⟩ := acquireBy_frame s rid core scope
  rw [h]

end Sys2Proof.Machine.State
end

