-- ==== Sys2Proof/Tests/Slice0.lean ====
section
/-! SUPPORT. Small tests, each proved by `decide`: ill-formed terms, words written out from the encoding tables, one step of
single instructions against results worked out in the spec or by hand from it, and for each statement with hypotheses a
concrete state and operands that meet them. -/

namespace Sys2Proof.Tests
open Machine

set_option maxRecDepth 100000
set_option exponentiation.threshold 1000

/-! ### Ill-formed terms (R244, R264, R282, R307, R337) -/

theorem test_illformed_scalar :
    ∀ i ∈ [ Instr.fadd 1 2 3 4, .fsub 1 2 3 5, .fmul 1 2 3 6, .fdiv 1 2 3 4, .fsqrt 1 2 5, .fcvtF32Ty 1 2 0 4, .fcvtTyF32 1 2 0 6,
            .fcvtF32Nfmt 1 2 5 0 0, .fcvtF32Nfmt 1 2 0 0 5, .fcvtNfmtF32 1 2 6, .ffma 1 2 3 4 4, .ffms 1 2 3 4 5, .fnma 1 2 3 4 6,
            .fnms 1 2 3 4 4, .csrr 1 0x008, .csrr 1 0x800, .csrw 1 2 0x000, .csrs 1 2 0x005, .csrc 1 2 0x020, .cAddi 0 0, .cJr 0 ],
      i.wellFormed = false := by decide

theorem test_illformed_memory :
    ∀ i ∈ [ Instr.ld 1 2 0 7, .st 1 2 0 4 0, .lds 1 2 7 0, .lds 1 2 3 16, .lds 1 2 3 7, .sts 1 2 3 8, .sts 1 2 3 7, .amoSwap 1 2 3 1 7,
            .amoMaxz 1 2 3 0 15, .amoFadd 1 2 3 7, .amocas 1 2 3 4 31, .fence 0, .fence 31, .tadd 1 2 7, .tread 1 2 7, .waitge 1 2 7,
            .msend 1 2 29, .msendp 1 2 3 31, .tbind 1 2 31, .bar 1 2 6, .barw 1 2 7, .bara 1 2 3 6, .elect 1 2 3 7 ],
      i.wellFormed = false := by decide

theorem test_illformed_vector :
    ∀ i ∈ [ Instr.vwaitm 16, .vldt 0 1 2 3 0, .vldt 31 1 2 0 0, .vstt 25 1 2 2 0, .vadd 1 2 3 3 0, .vdot 1 2 3 0 0, .vdotz 1 2 3 3 0,
            .vfadd 1 2 3 3 0, .vcmpeq 0 1 2 0, .vfcmpun 0 1 2 0, .pand 0 1 2, .pnot 0 1, .pwhile 0 1, .vcvtF32Bf16 0 31 0 0 0,
            .vcvtF32E4m3 0 0 1 0 0, .vcvtF32E2m1 0 25 0 0 0, .vcvtF32F16 0 0 0 0 5, .vcvtBf16F32 31 0, .vcvtE4m3F32 29 0,
            .vcvtE2m1F32 25 0, .vcvtS32F32 1 2 4, .vcvtS32S8x4 1 29 0, .vcvtS8x4S32 29 1 ],
      i.wellFormed = false := by decide

theorem test_illformed_engines :
    ∀ i ∈ [ Instr.mma 0 1 2 3 0 0, .mma 2 1 2 4 0 0, .mma 0 1 2 4 3 0, .mma 0 1 2 4 0 7, .mmab 0 1 2 4 0 1, .zclr 4 1, .zclr 0 3,
            .zld 2 1 0, .zst 0 1 0 0 0 5, .zst 0 1 5 0 0 0, .xgate 1 2 3 5 ],
      i.wellFormed = false := by decide

/-! ### Words (R180 to R190) -/

/-- A word of the tables decodes to the instruction, whose encoding it is. -/
abbrev wordIs (w : Nat) (i : Instr) : Prop :=
  decodeTableWord 32 w = some i ∧ encode i = [BitVec.ofNat 16 w, BitVec.ofNat 16 (w / 65536)]

/-- Words printed in 09_encoding.md to 12_isa_memory.md and 26_prog_lane_loss.md, with the assembly that stands beside them. -/
theorem test_printed_scalar_words :
    ∀ p ∈ [ (0xF20E6281, Instr.sel 5 6 7 8), (0x010C62B1, .ld 5 6 16 6), (0xFFFA6283, .addi 5 6 0x7FFD), (0x00D42C33, .st 2 10 0 3 24),
            (0xFFCC5E1B, .bne 5 6 0x3FF 28), (0x01862531, .ld 10 2 24 3), (0xFFDAC01D, .blt 12 13 0x3FF 0), (0x00000313, .addpc 6 0),
            (0x400662B1, .ld 5 6 0x400 3), (0x0106628D, .shiSra 5 6 3), (0x080E628F, .mulh 5 6 7), (0x10042225, .fmul 4 2 2 0),
            (0x00C420A7, .ffma 1 2 2 3 0), (0x000002A9, .csrr 5 0), (0x20205029, .csrw 0 5 0x010), (0x80000029, .safe 0),
            (0xA0000029, .yield), (0xC0000029, .done), (0xF00E0029, .trap 7), (0xE00E0029, .svc 7), (0x20809029, .csrw 0 9 0x040),
            (0x90144425, .fcvtF32Nfmt 8 4 0 1 2), (0x18CE5425, .fdiv 8 5 7 3), (0x98005225, .fcvtNfmtF32 4 5 0) ],
      wordIs p.1 p.2 := by decide

theorem test_printed_memory_words :
    ∀ p ∈ [ (0x1AC062B7, Instr.lds 5 6 3 0b01011), (0x5D0E62B9, .amoFmax 5 6 7 0b10100), (0xE20E62BB, .amocas 5 6 7 8 0b11100),
            (0x0480003D, .fence 0b10010), (0x110C503F, .waitge 5 6 4), (0x050C5041, .msend 5 6 20), (0x008421B5, .fldW 3 2 8),
            (0x11006437, .lds 8 6 2 0b00100), (0x13008437, .lds 8 8 2 0b01100), (0x5D10F039, .amoFmax 0 15 8 0b10100),
            (0x19190445, .elect 8 16 12 4), (0x951F1037, .sts 17 15 2 0b10100), (0x30008043, .tdec 8), (0x0940793F, .tread 18 7 5),
            (0x1164703F, .waitge 7 18 5) ],
      wordIs p.1 p.2 := by decide

theorem test_printed_engine_words :
    ∀ p ∈ [ (0x000062D1, Instr.vclaim 5 6), (0x18000051, .vwaitm 0), (0x088C51D3, .vlds 3 5 6 2), (0x18441257, .vfma 4 1 2 0 1),
            (0x400040DB, .vfredadd 1 4 0), (0x1200045D, .vcvtF32E4m3 8 0 0 1 0), (0x1000045D, .vcvtF32E4m3 8 0 0 0 0),
            (0x130A045D, .vcvtF32E4m3 8 0 5 1 4), (0x108C50E5, .mma 1 5 6 2 0 2), (0x101650E9, .zst 1 5 0 0 1 3), (0x18005069, .mwait 5),
            (0x09CC50EB, .wldXpb4 1 5 6 7), (0x020E62ED, .qpush 5 6 7 8), (0x080051EF, .rwaitf 3 5), (0x000C5071, .halo 5 6),
            (0x09CC54F5, .xroute 9 5 6 7), (0x200C5575, .xjoin 10 5 6), (0x008062F7, .vwdef 5 6 2), (0x200053F7, .vwpub 7 5),
            (0x300C5077, .vwsync 5 6), (0x1A0E62F9, .stgpost 5 6 7 8), (0x000E62FB, .launch 5 6 7), (0x100E62FB, .cqwait 5 6 7),
            (0x00927065, .mma 0 7 9 2 0 0), (0x17006069, .zst 0 6 7 0 0 0), (0x022A62ED, .qpush 5 6 21 8), (0x2828A3F5, .xstat 7 10 20),
            (0x09CCAB75, .xroute 22 10 6 7), (0x00005A79, .stgdef 20 5), (0x1E7164F9, .stgpost 9 22 24 25),
            (0x025CD36D, .qpush 6 13 14 9), (0x000C047B, .launch 8 0 6) ],
      wordIs p.1 p.2 := by decide

/-- Reserved majors, and all ones (R186, R190). -/
theorem test_reserved_words :
    (∀ w ∈ [0xFFFFFFFF, 0x0000002B, 0x0000002D, 0x0000002F, 0x00000049, 0x00000063, 0x00000073, 0x0000007D, 0x0000007F, 0xF8000001,
            0x0040000F, 0x00000041 + 0x10000000], decodeTableWord 32 w = none)
      ∧ decodeTableWord 16 0x0000 = none ∧ decodeTableWord 16 0x001E = some (.cSafe 0) ∧ decodeTableWord 16 0x0004 = some (.cMv 0 0)
      ∧ decodeTableWord 16 0x0D4E = some (.cLdd 10 3) := by decide

theorem test_words_alu :
    ∀ p ∈ [ (0x000E6281, Instr.add 5#5 6#5 7#5),
            (0x080E6281, .sub 5#5 6#5 7#5),
            (0x100E6281, .and 5#5 6#5 7#5),
            (0x180E6281, .or 5#5 6#5 7#5),
            (0x200E6281, .xor 5#5 6#5 7#5),
            (0x280E6281, .andn 5#5 6#5 7#5),
            (0x300E6281, .orn 5#5 6#5 7#5),
            (0x380E6281, .xnor 5#5 6#5 7#5),
            (0x400E6281, .sll 5#5 6#5 7#5),
            (0x480E6281, .srl 5#5 6#5 7#5),
            (0x500E6281, .sra 5#5 6#5 7#5),
            (0x580E6281, .rol 5#5 6#5 7#5),
            (0x600E6281, .ror 5#5 6#5 7#5),
            (0x680E6281, .slt 5#5 6#5 7#5),
            (0x700E6281, .sltz 5#5 6#5 7#5),
            (0x780E6281, .min 5#5 6#5 7#5),
            (0x800E6281, .max 5#5 6#5 7#5),
            (0x880E6281, .minz 5#5 6#5 7#5),
            (0x900E6281, .maxz 5#5 6#5 7#5),
            (0x980E6281, .addSat 5#5 6#5 7#5),
            (0xA00E6281, .subSat 5#5 6#5 7#5),
            (0xA80E6281, .addzSat 5#5 6#5 7#5),
            (0xB00E6281, .subzSat 5#5 6#5 7#5),
            (0xB8006281, .clz 5#5 6#5),
            (0xC0006281, .ctz 5#5 6#5),
            (0xC8006281, .cpop 5#5 6#5),
            (0xD0006281, .rev8 5#5 6#5),
            (0xD80E6281, .bfxS 5#5 6#5 7#5),
            (0xE00E6281, .bfxZ 5#5 6#5 7#5),
            (0xE80E6281, .bfi 5#5 6#5 7#5),
            (0xF20E6281, .sel 5#5 6#5 7#5 8#5),
            (0x0006628D, .shiSll 5#5 6#5 3#6),
            (0x0086628D, .shiSrl 5#5 6#5 3#6),
            (0x0106628D, .shiSra 5#5 6#5 3#6),
            (0x0186628D, .shiRor 5#5 6#5 3#6),
            (0x000E628F, .mul 5#5 6#5 7#5),
            (0x080E628F, .mulh 5#5 6#5 7#5),
            (0x100E628F, .mulhz 5#5 6#5 7#5),
            (0x180E628F, .mulhsz 5#5 6#5 7#5),
            (0x200E628F, .div 5#5 6#5 7#5),
            (0x280E628F, .divz 5#5 6#5 7#5),
            (0x300E628F, .rem 5#5 6#5 7#5),
            (0x380E628F, .remz 5#5 6#5 7#5) ],
      wordIs p.1 p.2 := by decide

theorem test_words_immediates_and_branches :
    ∀ p ∈ [ (0x02466283, Instr.addi 5#5 6#5 291#15),
            (0x02466285, .andi 5#5 6#5 291#15),
            (0x02466287, .ori 5#5 6#5 291#15),
            (0x02466289, .xori 5#5 6#5 291#15),
            (0x0246628B, .slti 5#5 6#5 291#15),
            (0x00123291, .lui 5#5 291#20),
            (0x00123293, .addpc 5#5 291#20),
            (0x00123295, .jal 5#5 291#20),
            (0x02466297, .jalr 5#5 6#5 291#15),
            (0x02CE6119, .beq 6#5 7#5 11#10 2#5),
            (0x02CE611B, .bne 6#5 7#5 11#10 2#5),
            (0x02CE611D, .blt 6#5 7#5 11#10 2#5),
            (0x02CE611F, .bge 6#5 7#5 11#10 2#5),
            (0x02CE6121, .bltz 6#5 7#5 11#10 2#5),
            (0x02CE6123, .bgez 6#5 7#5 11#10 2#5) ],
      wordIs p.1 p.2 := by decide

theorem test_words_float :
    ∀ p ∈ [ (0x004E62A5, Instr.fadd 5#5 6#5 7#5 1#3),
            (0x084E62A5, .fsub 5#5 6#5 7#5 1#3),
            (0x104E62A5, .fmul 5#5 6#5 7#5 1#3),
            (0x184E62A5, .fdiv 5#5 6#5 7#5 1#3),
            (0x204062A5, .fsqrt 5#5 6#5 1#3),
            (0x280E62A5, .fmin 5#5 6#5 7#5),
            (0x300E62A5, .fmax 5#5 6#5 7#5),
            (0x380E62A5, .fcpsgn 5#5 6#5 7#5),
            (0x400E62A5, .fcpsgnn 5#5 6#5 7#5),
            (0x480E62A5, .fcpsgnx 5#5 6#5 7#5),
            (0x500E62A5, .feq 5#5 6#5 7#5),
            (0x580E62A5, .flt 5#5 6#5 7#5),
            (0x600E62A5, .fle 5#5 6#5 7#5),
            (0x680062A5, .fclass 5#5 6#5),
            (0x724062A5, .fcvtF32Ty 5#5 6#5 1#2 1#3),
            (0x7A4062A5, .fcvtTyF32 5#5 6#5 1#2 1#3),
            (0x800062A5, .fmvXF 5#5 6#5),
            (0x880062A5, .fmvFX 5#5 6#5),
            (0x904662A5, .fcvtF32Nfmt 5#5 6#5 1#3 0#1 3#3),
            (0x980662A5, .fcvtNfmtF32 5#5 6#5 3#3),
            (0x220E62A7, .ffma 5#5 6#5 7#5 8#5 1#3),
            (0x2A0E62A7, .ffms 5#5 6#5 7#5 8#5 1#3),
            (0x320E62A7, .fnma 5#5 6#5 7#5 8#5 1#3),
            (0x3A0E62A7, .fnms 5#5 6#5 7#5 8#5 1#3) ],
      wordIs p.1 p.2 := by decide

theorem test_words_system :
    ∀ p ∈ [ (0x002002A9, Instr.csrr 5#5 16#12),
            (0x202062A9, .csrw 5#5 6#5 16#12),
            (0x402062A9, .csrs 5#5 6#5 16#12),
            (0x602062A9, .csrc 5#5 6#5 16#12),
            (0x80060029, .safe 3#8),
            (0xA0000029, .yield),
            (0xC0000029, .done),
            (0xE0060029, .svc 3#8),
            (0xF0060029, .trap 3#8) ],
      wordIs p.1 p.2 := by decide

theorem test_words_memory :
    ∀ p ∈ [ (0x123462B1, Instr.ld 5#5 6#5 291#12 2#3),
            (0x468E64B3, .st 6#5 7#5 35#7 2#3 9#5),
            (0x123462B5, .fldW 5#5 6#5 291#12),
            (0x123C62B5, .fstW 5#5 6#5 291#12),
            (0x12C062B7, .lds 5#5 6#5 2#3 11#5),
            (0x94CE6037, .sts 6#5 7#5 2#2 19#5),
            (0x82CE62B9, .amoSwap 5#5 6#5 7#5 1#1 11#5),
            (0x8ACE62B9, .amoAdd 5#5 6#5 7#5 1#1 11#5),
            (0x92CE62B9, .amoAnd 5#5 6#5 7#5 1#1 11#5),
            (0x9ACE62B9, .amoOr 5#5 6#5 7#5 1#1 11#5),
            (0xA2CE62B9, .amoXor 5#5 6#5 7#5 1#1 11#5),
            (0xAACE62B9, .amoMin 5#5 6#5 7#5 1#1 11#5),
            (0xB2CE62B9, .amoMax 5#5 6#5 7#5 1#1 11#5),
            (0xBACE62B9, .amoMinz 5#5 6#5 7#5 1#1 11#5),
            (0xC2CE62B9, .amoMaxz 5#5 6#5 7#5 1#1 11#5),
            (0x4ACE62B9, .amoFadd 5#5 6#5 7#5 11#5),
            (0x52CE62B9, .amoFmin 5#5 6#5 7#5 11#5),
            (0x5ACE62B9, .amoFmax 5#5 6#5 7#5 11#5),
            (0x5A0E62BB, .amocas 5#5 6#5 7#5 8#5 11#5),
            (0x02C0003D, .fence 11#5),
            (0x008E603F, .tadd 6#5 7#5 2#3),
            (0x088062BF, .tread 5#5 6#5 2#3),
            (0x108E603F, .waitge 6#5 7#5 2#3) ],
      wordIs p.1 p.2 := by decide

theorem test_words_messages_and_tasks :
    ∀ p ∈ [ (0x020E6041, Instr.msend 6#5 7#5 8#5),
            (0x0A0E62C1, .msendp 5#5 6#5 7#5 8#5),
            (0x020E6043, .tarm 6#5 7#5 8#5),
            (0x0A0E6043, .tarmRep 6#5 7#5 8#5),
            (0x120E6043, .tbind 6#5 7#5 8#5),
            (0x18006043, .tunbind 6#5),
            (0x20006043, .tdis 6#5),
            (0x28006043, .ten 6#5),
            (0x30006043, .tdec 6#5),
            (0x380062C3, .tstat 5#5 6#5),
            (0x400062C3, .tfcnt 5#5 6#5),
            (0x48006043, .tclrf 6#5),
            (0x500E6043, .hbind 6#5 7#5),
            (0x008E6045, .bar 6#5 7#5 2#3),
            (0x088E62C5, .bara 5#5 6#5 7#5 2#3),
            (0x108E6045, .barw 6#5 7#5 2#3),
            (0x188E62C5, .elect 5#5 6#5 7#5 2#3),
            (0x020E62C7, .spawn 5#5 6#5 7#5 8#5),
            (0x080002C7, .dqcnt 5#5) ],
      wordIs p.1 p.2 := by decide

theorem test_words_vector_memory :
    ∀ p ∈ [ (0x000062D1, Instr.vclaim 5#5 6#5),
            (0x080062D1, .vclaimTry 5#5 6#5),
            (0x10000051, .vrel),
            (0x180E0051, .vwaitm 7#5),
            (0x008062D3, .vld 5#5 6#5 2#3),
            (0x088E62D3, .vlds 5#5 6#5 7#5 2#3),
            (0x108E62D3, .vldg 5#5 6#5 7#5 2#3),
            (0x188E62D3, .vldt 5#5 6#5 7#5 0#2 2#3),
            (0x208062D3, .vst 5#5 6#5 2#3),
            (0x288E62D3, .vsts 5#5 6#5 7#5 2#3),
            (0x308E62D3, .vstg 5#5 6#5 7#5 2#3),
            (0x388E62D3, .vstt 5#5 6#5 7#5 0#2 2#3) ],
      wordIs p.1 p.2 := by decide

theorem test_words_vector_integer :
    ∀ p ∈ [ (0x028E62D5, Instr.vadd 5#5 6#5 7#5 1#2 2#3),
            (0x0A8E62D5, .vsub 5#5 6#5 7#5 1#2 2#3),
            (0x128E62D5, .vmul 5#5 6#5 7#5 1#2 2#3),
            (0x1A8E62D5, .vmulh 5#5 6#5 7#5 1#2 2#3),
            (0x228E62D5, .vmulhz 5#5 6#5 7#5 1#2 2#3),
            (0x2A8E62D5, .vand 5#5 6#5 7#5 1#2 2#3),
            (0x328E62D5, .vor 5#5 6#5 7#5 1#2 2#3),
            (0x3A8E62D5, .vxor 5#5 6#5 7#5 1#2 2#3),
            (0x428E62D5, .vandn 5#5 6#5 7#5 1#2 2#3),
            (0x4A8E62D5, .vsll 5#5 6#5 7#5 1#2 2#3),
            (0x528E62D5, .vsrl 5#5 6#5 7#5 1#2 2#3),
            (0x5A8E62D5, .vsra 5#5 6#5 7#5 1#2 2#3),
            (0x628E62D5, .vmin 5#5 6#5 7#5 1#2 2#3),
            (0x6A8E62D5, .vmax 5#5 6#5 7#5 1#2 2#3),
            (0x728E62D5, .vminz 5#5 6#5 7#5 1#2 2#3),
            (0x7A8E62D5, .vmaxz 5#5 6#5 7#5 1#2 2#3),
            (0x828E62D5, .vaddSat 5#5 6#5 7#5 1#2 2#3),
            (0x8A8E62D5, .vaddzSat 5#5 6#5 7#5 1#2 2#3),
            (0x928E62D5, .vsubSat 5#5 6#5 7#5 1#2 2#3),
            (0x9A8E62D5, .vsubzSat 5#5 6#5 7#5 1#2 2#3),
            (0xA28E62D5, .vmac 5#5 6#5 7#5 1#2 2#3),
            (0xAA8E62D5, .vdot 5#5 6#5 7#5 1#2 2#3),
            (0xB28E62D5, .vdotz 5#5 6#5 7#5 1#2 2#3),
            (0xBA8E62D5, .vsel 5#5 6#5 7#5 1#2 2#3) ],
      wordIs p.1 p.2 := by decide

theorem test_words_vector_float :
    ∀ p ∈ [ (0x408E62D7, Instr.vfadd 5#5 6#5 7#5 1#2 2#3),
            (0x488E62D7, .vfsub 5#5 6#5 7#5 1#2 2#3),
            (0x508E62D7, .vfmul 5#5 6#5 7#5 1#2 2#3),
            (0x588E62D7, .vfma 5#5 6#5 7#5 1#2 2#3),
            (0x608E62D7, .vfnma 5#5 6#5 7#5 1#2 2#3),
            (0x688E62D7, .vfmin 5#5 6#5 7#5 1#2 2#3),
            (0x708E62D7, .vfmax 5#5 6#5 7#5 1#2 2#3),
            (0x788E62D7, .vfcpsgn 5#5 6#5 7#5 1#2 2#3),
            (0x008E62D9, .vperm 5#5 6#5 7#5 2#3),
            (0x088E62D9, .vslideUp 5#5 6#5 7#5 2#3),
            (0x108E62D9, .vslideDn 5#5 6#5 7#5 2#3),
            (0x188062D9, .vbcast 5#5 6#5 2#3),
            (0x208E62D9, .vbcastE 5#5 6#5 7#5 2#3),
            (0x280E62D9, .vins 5#5 6#5 7#5),
            (0x300E62D9, .vext 5#5 6#5 7#5) ],
      wordIs p.1 p.2 := by decide

theorem test_words_vector_reductions :
    ∀ p ∈ [ (0x008062DB, Instr.vredadd 5#5 6#5 2#3),
            (0x088062DB, .vredmin 5#5 6#5 2#3),
            (0x108062DB, .vredmax 5#5 6#5 2#3),
            (0x188062DB, .vredminz 5#5 6#5 2#3),
            (0x208062DB, .vredmaxz 5#5 6#5 2#3),
            (0x288062DB, .vredand 5#5 6#5 2#3),
            (0x308062DB, .vredor 5#5 6#5 2#3),
            (0x388062DB, .vredxor 5#5 6#5 2#3),
            (0x408062DB, .vfredadd 5#5 6#5 2#3),
            (0x488062DB, .vfredmin 5#5 6#5 2#3),
            (0x508062DB, .vfredmax 5#5 6#5 2#3),
            (0x008062DF, .vexp2 5#5 6#5 2#3),
            (0x088062DF, .vlog2 5#5 6#5 2#3),
            (0x108062DF, .vrcp 5#5 6#5 2#3),
            (0x188062DF, .vrsqrt 5#5 6#5 2#3),
            (0x208062DF, .vtanh 5#5 6#5 2#3),
            (0x288062DF, .vsigm 5#5 6#5 2#3),
            (0x308062DF, .vsin 5#5 6#5 2#3),
            (0x388062DF, .vcos 5#5 6#5 2#3) ],
      wordIs p.1 p.2 := by decide

theorem test_words_vector_conversions :
    ∀ p ∈ [ (0x010E62DD, Instr.vcvtF32Bf16 5#5 6#5 7#5 0#1 4#3),
            (0x090E62DD, .vcvtF32F16 5#5 6#5 7#5 0#1 4#3),
            (0x110E62DD, .vcvtF32E4m3 5#5 6#5 7#5 0#1 4#3),
            (0x190E62DD, .vcvtF32E5m2 5#5 6#5 7#5 0#1 4#3),
            (0x210E62DD, .vcvtF32E2m1 5#5 6#5 7#5 0#1 4#3),
            (0x280062DD, .vcvtBf16F32 5#5 6#5),
            (0x300062DD, .vcvtF16F32 5#5 6#5),
            (0x380062DD, .vcvtE4m3F32 5#5 6#5),
            (0x400062DD, .vcvtE5m2F32 5#5 6#5),
            (0x480062DD, .vcvtE2m1F32 5#5 6#5),
            (0x504062DD, .vcvtS32F32 5#5 6#5 1#3),
            (0x584062DD, .vcvtZ32F32 5#5 6#5 1#3),
            (0x604062DD, .vcvtF32S32 5#5 6#5 1#3),
            (0x684062DD, .vcvtF32Z32 5#5 6#5 1#3),
            (0x700062DD, .vcvtS32S16x2 5#5 6#5 0#1),
            (0x780062DD, .vcvtZ32Z16x2 5#5 6#5 0#1),
            (0x800062DD, .vcvtS32S8x4 5#5 6#5 0#1),
            (0x880062DD, .vcvtZ32Z8x4 5#5 6#5 0#1),
            (0x900062DD, .vcvtS16x2S32 5#5 6#5),
            (0x980062DD, .vcvtZ16x2Z32 5#5 6#5),
            (0xA00062DD, .vcvtS8x4S32 5#5 6#5),
            (0xA80062DD, .vcvtZ8x4Z32 5#5 6#5) ],
      wordIs p.1 p.2 := by decide

theorem test_words_predicates :
    ∀ p ∈ [ (0x008E62E1, Instr.vcmpeq 5#3 6#5 7#5 2#3),
            (0x088E62E1, .vcmpne 5#3 6#5 7#5 2#3),
            (0x108E62E1, .vcmplt 5#3 6#5 7#5 2#3),
            (0x188E62E1, .vcmple 5#3 6#5 7#5 2#3),
            (0x208E62E1, .vcmpltz 5#3 6#5 7#5 2#3),
            (0x288E62E1, .vcmplez 5#3 6#5 7#5 2#3),
            (0x308E62E1, .vfcmpeq 5#3 6#5 7#5 2#3),
            (0x388E62E1, .vfcmplt 5#3 6#5 7#5 2#3),
            (0x408E62E1, .vfcmple 5#3 6#5 7#5 2#3),
            (0x488E62E1, .vfcmpun 5#3 6#5 7#5 2#3),
            (0x500E62E1, .pand 5#3 6#3 7#3),
            (0x580E62E1, .por 5#3 6#3 7#3),
            (0x600E62E1, .pxor 5#3 6#3 7#3),
            (0x680E62E1, .pandn 5#3 6#3 7#3),
            (0x700062E1, .pnot 5#3 6#3),
            (0x780062E1, .pwhile 5#3 6#5),
            (0x800062E1, .pcnt 5#5 6#3) ],
      wordIs p.1 p.2 := by decide

theorem test_words_matrix :
    ∀ p ∈ [ (0x520E61E5, Instr.mma 3#5 6#5 7#5 8#5 1#2 2#3),
            (0x520E61E7, .mmab 3#5 6#5 7#5 8#5 1#2 2#3),
            (0x004001E9, .zclr 3#5 1#2),
            (0x08406169, .zld 2#5 6#5 1#2),
            (0x114260E9, .zst 1#5 6#5 1#3 1#2 0#1 1#3),
            (0x18006069, .mwait 6#5),
            (0x020060EB, .wldPlain 1#1 6#5 8#5),
            (0x0A0E60EB, .wldXpb4 1#1 6#5 7#5 8#5),
            (0x120E60EB, .wldXpb5 1#1 6#5 7#5 8#5),
            (0x020E62ED, .qpush 5#5 6#5 7#5 8#5),
            (0x0A0E62ED, .qtry 5#5 6#5 7#5 8#5),
            (0x000E62EF, .rset 5#4 6#5 7#5),
            (0x080062EF, .rwaitf 5#4 6#5),
            (0x100062EF, .rwaite 5#4 6#5),
            (0x180062EF, .radvp 5#4 6#5),
            (0x200062EF, .radvc 5#4 6#5),
            (0x280062EF, .rstat 5#5 6#4),
            (0x000E6071, .halo 6#5 7#5) ],
      wordIs p.1 p.2 := by decide

theorem test_words_engines :
    ∀ p ∈ [ (0x000E62F5, Instr.xreg 5#5 6#5 7#5),
            (0x0A0E62F5, .xroute 5#5 6#5 7#5 8#5),
            (0x108E62F5, .xgate 5#5 6#5 7#5 2#3),
            (0x1A0E6075, .xgrad 6#5 7#5 8#5),
            (0x200E62F5, .xjoin 5#5 6#5 7#5),
            (0x280E62F5, .xstat 5#5 6#5 7#5),
            (0x320E62F5, .xpol 5#5 6#5 7#5 8#5),
            (0x380062F5, .xdrop 5#5 6#5),
            (0x020062F7, .vwdef 5#5 6#5 8#5),
            (0x080062F7, .vwdrop 5#5 6#5),
            (0x120E62F7, .vwrd 5#5 6#5 7#5 8#5),
            (0x180E62F7, .vwtag 5#5 6#5 7#5),
            (0x200062F7, .vwpub 5#5 6#5),
            (0x2A0E62F7, .vwpol 5#5 6#5 7#5 8#5),
            (0x300E6077, .vwsync 6#5 7#5),
            (0x000062F9, .stgdef 5#5 6#5),
            (0x080062F9, .stggo 5#5 6#5),
            (0x100002F9, .stgstop 5#5),
            (0x1A0E62F9, .stgpost 5#5 6#5 7#5 8#5),
            (0x200062F9, .stgstash 5#5 6#5),
            (0x280062F9, .stgbub 5#5 6#5),
            (0x000E62FB, .launch 5#5 6#5 7#5),
            (0x080E62FB, .cqpost 5#5 6#5 7#5),
            (0x100E62FB, .cqwait 5#5 6#5 7#5) ],
      wordIs p.1 p.2 := by decide

theorem test_words_compact :
    ∀ p ∈ [ (0x8CA0, Instr.cAddi 5#5 35#6),
            (0x8CA2, .cLi 5#5 35#6),
            (0x18A4, .cMv 5#5 6#5),
            (0x18A6, .cAdd 5#5 6#5),
            (0x18A8, .cSub 5#5 6#5),
            (0x18AA, .cAnd 5#5 6#5),
            (0x0CAC, .cSlli 5#5 3#6),
            (0x8CAE, .cLdd 5#5 35#6),
            (0x8CF0, .cStd 7#5 35#6),
            (0x2EB2, .cLdw 5#3 6#3 5#5),
            (0x2EF4, .cStw 6#3 7#3 5#5),
            (0x8CD6, .cBeqz 6#5 35#6),
            (0x8CD8, .cBnez 6#5 35#6),
            (0x017A, .cJ 11#11),
            (0x00DC, .cJr 6#5),
            (0x007E, .cSafe 3#8) ],
      decodeTableWord 16 p.1 = some p.2 ∧ encode p.2 = [BitVec.ofNat 16 p.1] := by decide
/-! ### The states of the tests -/

/-- Realm 0, ACTIVE with one die, TRAPC core 1; a task of handler 0x12 in slot 0 and frame 0 of core 0, at 0x100; its handler has two
live masks, in the table at LM offset 0x1000. The host has unmasked vectors 1, 3, 5 and 0x7FF. -/
def st : State :=
  let t : State := { msix := [1, 3, 5, 0x7FF].map fun v => (v, { masked := false }) }
  let t := t.modRealm 0 fun r => { r with state := 1, n := 1, dmap := [0], trapc := 1 }
  let t := t.modSlot 0 fun x =>
    { x with busy := true, frame := 0, pc := 0x100#64, hix := 0x12, cls := 2, entry := 0x8000020040000100#64, wait := .none }
  t.modFrame 0 fun f => { f with used := true, hix := 0x12, cls := 2, entry := 0x8000020040000100#64 }
/-- The state with x[r] = v. -/
abbrev at_ (r : BitVec 5) (v : Word) (s : State) : State := s.wx r v
/-- Operands x6 = u and x7 = v. -/
abbrev two (u v : Word) : State := (st.wx 6 u).wx 7 v
/-- Operands f6 = u, f7 = v and f8 = w. -/
abbrev three (u v w : Word32) : State := ((st.wrf 6 u).wrf 7 v).wrf 8 w
/-- The next state. -/
def after (i : Instr) (s : State) : State :=
  match exec i s with
  | .next t => t
  | _ => s
/-- LM-window address of an offset of core 0 (R53). -/
abbrev lmA (off : Nat) : Word := BitVec.ofNat 64 (0x00FE000000000000 + off)
/-- LM with bytes from an offset on. -/
def lmBytes (off : Nat) (bs : List Byte) (s : State) : State := s.wrLm 0 0 off bs
/-- The fault record that a step sends: code, DETAIL, ADDR and operand. -/
def record (s : State) : List (Nat × Nat × Nat × Nat) :=
  s.net.map fun m => (m.a0.toNat % 256, m.a0.toNat / 256 % 256, m.a1.toNat, m.a2.toNat / 2 ^ 32)
/-- A state on another core. -/
def onCore (core : Nat) : State :=
  let t : State := { cur := { core := core, slot := 3 } }
  let t := t.modRealm 0 fun r => { r with state := 1, n := 8, dmap := [0, 1, 2, 3, 4, 5, 6, 7], trapc := 1 }
  t.modSlot (unitKey 0 core 3) fun x => { x with busy := true, frame := 5, pc := 0x240#64, hix := 0x12, wait := .none }

/-- The cluster's TLB holds the page of device memory at 0x40000, the first of die 0's near memory, with R, W, M, A and D. -/
def pageEnt : TlbEnt := { base := 0x40000, size := 4096, leaf := 0x36D#64, pte := 0, aset := [0], dset := [0] }
/-- The state with that page. -/
def dev (s : State) : State := s.modCluster 0 fun c => { c with tlb := [pageEnt] }
/-- A location in that page. -/
abbrev devLoc (off : Nat) : Loc := .dev 0 0 off 0 true
/-- What makes an access one to that page. -/
theorem dev_mem (s : State) (va : Word) (n : Nat) (w : Bool) (off : Nat)
    (h : va.toNat % n = 0 ∧ va.toNat < 2 ^ 56 ∧ va.toNat / 2 ^ 48 ≠ 0xFE ∧ s.me.wait = .none)
    (g : s.tlbFind s.clk va.toNat = some pageEnt ∧ s.leafLoc s.cur.rid pageEnt va.toNat = devLoc off
      ∧ pageEnt.aset.contains (State.partOf pageEnt va.toNat) = true ∧ pageEnt.leaf.getLsbD (if w then 3 else 2) = true
      ∧ (w = true → pageEnt.dset.contains (State.partOf pageEnt va.toNat) = true)) : DevMem s va n w (devLoc off) :=
  ⟨h.1, h.2.1, h.2.2.1, h.2.2.2, ⟨_, _, _, _, _, rfl⟩, pageEnt, g⟩

theorem test_quiet : Quiet st ∧ Calm st ∧ SingleFault st := by decide

/-! ### Scalar integer instructions -/

/-- Values worked out by hand from R223; `rev8`, `clz` and the saturations at their corners. -/
theorem test_alu :
    ∀ p ∈ [ (Instr.add 5 6 7, 0xFFFFFFFFFFFFFFFF#64, 2#64, 1#64), (.sub 5 6 7, 1, 2, 0xFFFFFFFFFFFFFFFF), (.andn 5 6 7, 0xF0F0, 0x00FF, 0xF000),
            (.orn 5 6 7, 0, 1, 0xFFFFFFFFFFFFFFFE), (.xnor 5 6 7, 5, 5, 0xFFFFFFFFFFFFFFFF), (.sll 5 6 7, 1, 65, 2),
            (.sra 5 6 7, 0x8000000000000000, 63, 0xFFFFFFFFFFFFFFFF), (.rol 5 6 7, 0x8000000000000000, 1, 1), (.ror 5 6 7, 1, 1, 0x8000000000000000),
            (.slt 5 6 7, 0xFFFFFFFFFFFFFFFF, 0, 1), (.sltz 5 6 7, 0xFFFFFFFFFFFFFFFF, 0, 0), (.min 5 6 7, 0xFFFFFFFFFFFFFFFF, 1, 0xFFFFFFFFFFFFFFFF),
            (.maxz 5 6 7, 0xFFFFFFFFFFFFFFFF, 1, 0xFFFFFFFFFFFFFFFF), (.addSat 5 6 7, 0x7FFFFFFFFFFFFFFF, 1, 0x7FFFFFFFFFFFFFFF),
            (.subSat 5 6 7, 0x8000000000000000, 1, 0x8000000000000000), (.addzSat 5 6 7, 0xFFFFFFFFFFFFFFFF, 1, 0xFFFFFFFFFFFFFFFF),
            (.subzSat 5 6 7, 1, 2, 0), (.clz 5 6, 0, 0, 64), (.ctz 5 6, 0x100, 0, 8), (.cpop 5 6, 0xFF00FF, 0, 16),
            (.rev8 5 6, 0x0102030405060708, 0, 0x0807060504030201), (.sel 5 6 7 0, 3, 4, 4), (.sel 5 6 7 7, 3, 4, 3) ],
      (after p.1 (two p.2.1 p.2.2.1)).rx 5 = p.2.2.2 := by decide

/-- The table of R224 with x[b] = 0x0710, and a field past bit 63. -/
theorem test_bit_fields :
    (after (.bfxZ 5 6 7) (two 0xF0A50000 0x0710)).rx 5 = 0xA5#64 ∧ (after (.bfxS 5 6 7) (two 0xF0A50000 0x0710)).rx 5 = 0xFFFFFFFFFFFFFFA5#64
      ∧ (after (.bfi 5 6 7) ((two 0x13C 0x0710).wx 5 0xF0A50000)).rx 5 = 0xF03C0000#64
      ∧ (after (.bfxS 5 6 7) (two 0x8000000000000000 0x073C)).rx 5 = 0xFFFFFFFFFFFFFFF8#64 := by decide

/-- The tables of R227, with the operation on the destination itself. -/
theorem test_mul_div :
    ∀ p ∈ [ (Instr.mul 6 6 7, 0xFFFFFFFFFFFFFFFD#64, 0x4000000000000000#64, 0x4000000000000000#64),
            (.mulh 6 6 7, 0xFFFFFFFFFFFFFFFD, 0x4000000000000000, 0xFFFFFFFFFFFFFFFF),
            (.mulhsz 6 6 7, 0xFFFFFFFFFFFFFFFD, 0x4000000000000000, 0xFFFFFFFFFFFFFFFF),
            (.mulhz 6 6 7, 0xFFFFFFFFFFFFFFFD, 0x4000000000000000, 0x3FFFFFFFFFFFFFFF), (.div 6 6 7, 9, 0, 0xFFFFFFFFFFFFFFFF),
            (.divz 6 6 7, 9, 0, 0xFFFFFFFFFFFFFFFF), (.rem 6 6 7, 9, 0, 9), (.remz 6 6 7, 9, 0, 9),
            (.div 6 6 7, 0x8000000000000000, 0xFFFFFFFFFFFFFFFF, 0x8000000000000000), (.rem 6 6 7, 0x8000000000000000, 0xFFFFFFFFFFFFFFFF, 0),
            (.div 6 6 7, 0xFFFFFFFFFFFFFFF9, 2, 0xFFFFFFFFFFFFFFFD), (.rem 6 6 7, 0xFFFFFFFFFFFFFFF9, 2, 0xFFFFFFFFFFFFFFFF) ],
      (after p.1 (two p.2.1 p.2.2.1)).rx 6 = p.2.2.2 := by decide

/-- R225, R226, R228, R189; `addpc` on core 0x1_52DA is the example of R228. -/
theorem test_immediates :
    (after (.addi 5 6 0x7FFF) (two 0 0)).rx 5 = 0xFFFFFFFFFFFFFFFF#64 ∧ (after (.slti 5 6 0x7FFF) (two 0xFFFFFFFFFFFFFFFE 0)).rx 5 = 1#64
      ∧ (after (.shiSra 5 6 63) (two 0x8000000000000000 0)).rx 5 = 0xFFFFFFFFFFFFFFFF#64
      ∧ (after (.lui 5 0x80000) st).rx 5 = 0xFFFFFFFF80000000#64
      ∧ (after (.addpc 5 1) (onCore 0x152DA)).rx 5 = 0x00FE00054B681240#64
      ∧ (after (.cAddi 6 0x3F) (two 1 0)).rx 6 = 0#64 ∧ (after (.cAddi 6 0x3F) (two 1 0)).pc = 0x102#64
      ∧ (after (.addi 0 6 1) (two 1 0)).rx 0 = 0#64 := by decide

/-- The condition of JumpsAndBranches at the last halfword of LM, and of BadTargetsTrap just above it (R229, R230). -/
theorem witness_JumpsAndBranches :
    (st.pc + 2#64 * (0x17F7F#20).signExtend 64).toNat < 0x30000 ∧ (after (.jal 1 0x17F7F) st).pc = 0x2FFFE#64
      ∧ (after (.jal 1 0x17F7F) st).rx 1 = 0x104#64
      ∧ (((two 0x2FFFF 0).rx 6 + (0#15).signExtend 64) &&& ~~~1#64).toNat < 0x30000
      ∧ (after (.jalr 6 6 0) (two 0x2FFFF 0)).pc = 0x2FFFE#64 ∧ (after (.jalr 6 6 0) (two 0x2FFFF 0)).rx 6 = 0x104#64
      ∧ (after (.beq 6 7 0x3FF 0x1C) (two 3 3)).pc = 0xF8#64 ∧ (after (.bne 6 7 0x3FF 0x1C) (two 3 3)).pc = 0x104#64
      ∧ (after (.cJr 6) (two 0x200 0)).pc = 0x200#64 ∧ (after (.cBnez 6 0x3F) (two 1 0)).pc = 0xFE#64
      ∧ (after (.blt 6 7 0 4) (two 0xFFFFFFFFFFFFFFFF 0)).pc = 0x108#64 ∧ (after (.bltz 6 7 0 4) (two 0xFFFFFFFFFFFFFFFF 0)).pc = 0x104#64 := by
  decide

theorem witness_BadTargetsTrap_quiet : Quiet (two 0x30000 0) ∧ SingleFault (two 0x30000 0) := by decide
theorem witness_BadTargetsTrap :
    0x30000 ≤ (st.pc + 2#64 * (0x17F80#20).signExtend 64).toNat
      ∧ record (after (.jal 1 0x17F80) st) = [(5, 1, 0x30000, 0)] ∧ record (after (.jalr 1 6 0) (two 0x30000 0)) = [(5, 1, 0x30000, 0)]
      ∧ record (after (.beq 6 6 0x200 0) (two 0x30000 0)) = [(5, 2, 0xFFFFFFFFFFFF8100, 0)]
      ∧ record (after (.cJr 6) (two 0x30000 0)) = [(5, 1, 0x30000, 0)]
      ∧ record (after (.bne 6 7 0x200 0) (two 0x30000 0)) = [(5, 2, 0xFFFFFFFFFFFF8100, 0)] := by decide

/-! ### Scalar floating point -/

/-- The fragment of R236: one rounding against two; flags are NX of FMUL alone. -/
theorem test_ffma :
    (after (.ffma 1 6 6 7 0) (three 0x3F800800 0xBF800000 0)).rf 1 = 0x3A000400#32
      ∧ (after (.ffma 1 6 6 7 0) (three 0x3F800800 0xBF800000 0)).me.fflags = 0#5
      ∧ (after (.fmul 4 6 6 0) (three 0x3F800800 0 0)).me.fflags = 1#5
      ∧ (after (.fadd 5 8 7 0) (three 0 0xBF800000 ((after (.fmul 4 6 6 0) (three 0x3F800800 0 0)).rf 4))).rf 5 = 0x3A000000#32 := by decide

/-- The division of 17_prog_delayed_scaling.md: 300 / 448 rounded upward; 1 / 0; √−1 (R104, R106, R110). -/
theorem test_float_arithmetic :
    (after (.fdiv 5 6 7 3) (three 0x43960000 0x43E00000 0)).rf 5 = 0x3F2B6DB7#32
      ∧ (after (.fdiv 5 6 7 0) (three 0x3F800000 0 0)).rf 5 = 0x7F800000#32 ∧ (after (.fdiv 5 6 7 0) (three 0x3F800000 0 0)).me.fflags = 8#5
      ∧ (after (.fsqrt 5 6 0) (three 0xBF800000 0 0)).rf 5 = 0x7FC00000#32 ∧ (after (.fsqrt 5 6 0) (three 0xBF800000 0 0)).me.fflags = 16#5
      ∧ (after (.fsub 5 6 6 2) (three 0x3F800000 0 0)).rf 5 = 0x80000000#32 := by decide

/-- R105, R232, R233: signed zeros, one NaN, a signalling NaN. -/
theorem test_float_order :
    (after (.fmin 5 6 7) (three 0 0x80000000 0)).rf 5 = 0x80000000#32 ∧ (after (.fmax 5 6 7) (three 0x7FC00000 0xBF800000 0)).rf 5 = 0xBF800000#32
      ∧ (after (.fmin 5 6 7) (three 0x7F800001 0 0)).me.fflags = 16#5 ∧ (after (.feq 5 6 7) (three 0 0x80000000 0)).rx 5 = 1#64
      ∧ (after (.feq 5 6 7) (three 0x7FC00000 0 0)).me.fflags = 0#5 ∧ (after (.flt 5 6 7) (three 0x7FC00000 0 0)).me.fflags = 16#5
      ∧ (after (.fle 5 6 7) (three 0xFF800000 0xFF800000 0)).rx 5 = 1#64 ∧ (after (.fclass 5 6) (three 0x80000001 0 0)).rx 5 = 4#64
      ∧ (after (.fcpsgnx 5 6 7) (three 0xBF800000 0xBF800000 0)).rf 5 = 0x3F800000#32
      ∧ (after (.fmvXF 5 6) (three 0xBF800000 0 0)).rx 5 = 0xBF800000#64 := by decide

/-- R114, R116, R235: 500 in E4M3, with saturation and without; −1 as an unsigned integer. -/
theorem test_float_conversions :
    (after (.fcvtF32Nfmt 5 6 0 1 2) (three 0x43FA0000 0 0)).rx 5 = 0x7E#64 ∧ (after (.fcvtF32Nfmt 5 6 0 0 2) (three 0x43FA0000 0 0)).rx 5 = 0x7F#64
      ∧ (after (.fcvtF32Nfmt 5 6 0 1 2) (three 0x43FA0000 0 0)).me.fflags = 5#5
      ∧ (after (.fcvtF32Ty 5 6 1 0) (three 0xBF800000 0 0)).rx 5 = 0#64 ∧ (after (.fcvtF32Ty 5 6 1 0) (three 0xBF800000 0 0)).me.fflags = 16#5
      ∧ (after (.fcvtF32Ty 5 6 0 0) (three 0xBF800000 0 0)).rx 5 = 0xFFFFFFFFFFFFFFFF#64
      ∧ (after (.fcvtTyF32 5 6 2 0) (two 0xFFFFFFFFFFFFFFFF 0)).rf 5 = 0xBF800000#32
      ∧ (after (.fcvtNfmtF32 5 6 0) (two 0x13F80 0)).rf 5 = 0x3F800000#32 := by decide

/-! ### System instructions, safe points, traps -/

/-- R193, R239: core id, slot and frame, and the writable bits of FRM and FFLAGS. -/
theorem test_control_registers :
    (after (.csrr 5 0x000) (onCore 0x152DA)).rx 5 = 0x152DA#64 ∧ (after (.csrr 5 0x002) (onCore 0x152DA)).rx 5 = 0x503#64
      ∧ (after (.csrw 5 6 0x011) (two 0xFFFF 0)).me.fflags = 0x1F#5 ∧ (after (.csrs 5 6 0x010) (two 0xFFFE 0)).me.frm = 2#2
      ∧ (after (.csrc 5 6 0x012) ((two 1 0).modCore 0 fun c => { c with srseed := 3#32 })).rx 5 = 3#64
      ∧ ((after (.csrc 5 6 0x012) ((two 1 0).modCore 0 fun c => { c with srseed := 3#32 })).coreSt 0).srseed = 2#32
      ∧ (after (.csrw 5 6 0x041) (two 7 0)).cdescs.get 0#64 1 = 7#64 := by decide

/-- The four cases of TLBINV (R193, R244, R369). -/
theorem witness_ControlRegisterWrites :
    (let s := (two 0x1000 0).modRealm 0 fun r => { r with trapc := 0 };
      s.cur.core = s.myRealm.trapc ∧ s.myRealm.tlbinving = false ∧ s.rx 6 &&& 0xFE00000000000FFC#64 = 0#64
        ∧ (after (.csrw 5 6 0x0A0) s).myRealm.tlbinving = true)
    ∧ (let s := (two 0x1000 0).modRealm 0 fun r => { r with trapc := 0, tlbinving := true };
      s.cur.core = s.myRealm.trapc ∧ s.myRealm.tlbinving = true ∧ (after (.csrw 5 6 0x0A0) s).me.wait = .stall)
    ∧ (let s := (two 0x1004 0).modRealm 0 fun r => { r with trapc := 0 };
      Quiet s ∧ SingleFault s ∧ s.cur.core = s.myRealm.trapc ∧ s.rx 6 &&& 0xFE00000000000FFC#64 ≠ 0#64
        ∧ record (after (.csrw 5 6 0x0A0) s) = [(2, 0x14, 0x1004, 1)])
    ∧ Quiet (two 0x1000 0) ∧ SingleFault (two 0x1000 0) ∧ (two 0x1000 0).cur.core ≠ (two 0x1000 0).myRealm.trapc
    ∧ record (after (.csrw 5 6 0x0A0) (two 0x1000 0)) = [(1, 0x14, 0, 0)] := by decide

/-- Flags in flight: NX of an instruction that has completed, UF of one that has not (R222, R237). -/
theorem witness_ControlRegisterWrites_flags :
    (let s : State := { (two 0x14 0).modSlot 0 fun x => { x with fflags := 3#5, late := [(5, 1#5, 0#5), (20, 2#5, 0#5)] } with clock := 10 };
      (after (.csrw 5 6 0x011) s).rx 5 = 1#64 ∧ (after (.csrw 5 6 0x011) s).me.fflags = 0x16#5
        ∧ (after (.csrw 5 6 0x011) s).me.late = [(20, 2#5, 0x14#5)] ∧ (after (.csrs 5 6 0x011) s).rx 5 = 3#64
        ∧ (after (.csrc 5 6 0x011) s).me.fflags = 3#5) := by decide

/-- Mask 1 of the handler marks x6 and f7; n = 1 is the last mask, n = 2 the first number that has none (R46, R47, R241). -/
def masked : State := lmBytes 0x1010 [0x20#8, 0#8, 0#8, 0#8, 0x40#8] ((three 1 2 3).wx 6 9 |>.wx 7 8)
theorem witness_SafePoints :
    Quiet masked ∧ Calm masked ∧ SingleFault masked ∧ masked.me.entry.toNat / 2 ^ 40 % 256 = 2
      ∧ (after (.safe 1) masked).rx 6 = 9#64 ∧ (after (.safe 1) masked).rx 7 = 0#64 ∧ (after (.safe 1) masked).rf 7 = 2#32
      ∧ (after (.safe 1) masked).rf 6 = 0#32 ∧ (after (.safe 1) masked).me.safecnt = 0 ∧ (after (.cSafe 1) masked).pc = 0x102#64
      ∧ (after .yield masked).rx 7 = 8#64 ∧ record (after (.safe 2) masked) = [(2, 0x14, 2, 0)]
      ∧ record (after (.cSafe 2) masked) = [(2, 0x14, 2, 0)] := by decide

theorem witness_DoneEndsTheTask :
    Quiet (st.modSlot 0 fun x => { x with grp := some 3 }) ∧ (after .done st).me.busy = false ∧ (after .done st).myFrame.used = false
      ∧ ((after .done ((st.modSlot 0 fun x => { x with grp := some 3 }).modGroup 0 3 fun g => { g with left := 2 })).group 0 3).left = 1 := by
  decide

/-- R243, R365, R367. -/
theorem witness_ServiceCallsAndUserTraps :
    (Quiet st ∧ (st.coreSt st.ck).outq = [] ∧ SingleFault st ∧ record (after (.trap 9) st) = [(6, 9, 0, 0)]
      ∧ (after (.svc 7) st).net.map (fun m => (m.h0.toNat / 2 ^ 32 % 256, m.h0.toNat % 2 ^ 20, m.a0, m.a2)) = [(0xF1, 1, 7#64, 0x100#64)]
      ∧ (after (.svc 7) st).pc = 0x104#64)
    ∧ (let s := (st.modRealm 0 fun r => { r with trapc := 0 }).modSlot 0 fun x => { x with hix := 0xEF };
      Quiet s ∧ s.myRealm.state = 1 ∧ s.cur.core = s.myRealm.trapc ∧ s.me.hix = 0xEF ∧ (after (.trap 9) s).net = []
        ∧ (after (.trap 9) s).myRealm.state = 2 ∧ (after (.trap 9) s).myRealm.reason = 0xEF)
    ∧ (let s := (st.modRealm 0 fun r => { r with trapc := 0 }).modSlot 0 fun x => { x with hix := 0xEE };
      Quiet s ∧ s.me.hix = 0xEE ∧ (after (.trap 9) s).myRealm.state = 2) := by decide

/-- The worked record of R364: slot 3, frame 5, handler 0x12, core 0x1_52DA, offset 0x0240, a misaligned `ld.d`. -/
theorem test_worked_record :
    (after (.ld 5 6 4 3) (((onCore 0x152DA).wx 6 0x4000001000).wrLm 0 0x152DA 0x240 [0xB1#8, 0x62#8, 0x46#8, 0#8])).net.map
      (fun m => (m.a0, m.a1, m.a2)) = [(0x000092B009000810#64, 0x4000001004#64, 0x004662B1#64)] := by decide

/-! ### Memory -/

/-- A load and a store at the last doubleword of LM, at a half and a byte; the stack forms. -/
theorem witness_LoadsAndStores :
    (let s := lmBytes 0x2FFF8 [1#8, 2#8, 3#8, 4#8, 5#8, 6#8, 7#8, 0x88#8] (two (lmA 0x30000) 0x1122334455667788);
      OwnLm s (s.rx 6 + (0xFF8#12).signExtend 64) 8 0x2FFF8 ∧ Unpoisoned s 0x2FFF8 8
        ∧ (after (.ld 5 6 0xFF8 3) s).rx 5 = 0x8807060504030201#64
        ∧ OwnLm s (s.rx 6 + (0xFFF#12).signExtend 64) 1 0x2FFFF ∧ (after (.ld 5 6 0xFFF 4) s).rx 5 = 0xFFFFFFFFFFFFFF88#64
        ∧ (after (.ld 5 6 0xFFF 0) s).rx 5 = 0x88#64 ∧ (after (.fldW 5 6 0xFFC) s).rf 5 = 0x88070605#32
        ∧ (after (.st 6 7 0x7F 1 0x1C) s).rdLmNum 0 0 0x2FFF8 8 = 0x8807778804030201)
    ∧ (let s := lmBytes 0x108 [1#8, 2#8, 3#8, 0x84#8] ((two 0 7).wx 2 (lmA 0x100) |>.wx 8 (lmA 0x100));
      OwnLm s (s.rx 2#5 + BitVec.ofNat 64 (8 * (1#6).toNat)) 8 0x108 ∧ (after (.cLdd 5 1) s).rx 5 = 0x84030201#64
        ∧ OwnLm s (s.rx (1#2 ++ 0#3) + BitVec.ofNat 64 (4 * (2#5).toNat)) 4 0x108 ∧ (after (.cLdw 1 0 2) s).rx 9 = 0xFFFFFFFF84030201#64
        ∧ (after (.cStd 7 1) s).rdLmNum 0 0 0x108 8 = 7 ∧ (after (.cStw 0 0 2) s).rdLmNum 0 0 0x108 4 = 0x100
        ∧ (after (.fstW 5 2 8) (s.wrf 5 0xAABBCCDD)).rdLmNum 0 0 0x108 8 = 0xAABBCCDD) := by decide

theorem witness_StrongAccessesAndFences :
    (let s := lmBytes 0x200 [1#8, 2#8, 3#8, 0x84#8] (two (lmA 0x200) 0x55);
      OwnLm s (s.rx 6) 4 0x200 ∧ Unpoisoned s 0x200 4 ∧ (after (.lds 5 6 6 0) s).rx 5 = 0xFFFFFFFF84030201#64
        ∧ OwnLm s (s.rx 6) 2 0x200 ∧ (after (.sts 6 7 1 0) s).rdLmNum 0 0 0x200 4 = 0x84030055
        ∧ OwnLm s (s.rx 6) 8 0x200 ∧ (2#3).toNat < 3 ∧ (after (.tread 5 6 2) s).rx 5 = 0x84030201#64)
    ∧ Quiet st ∧ (0b01011#5).extractLsb' 3 2 ≠ 0#2 ∧ (0b01011#5).extractLsb' 0 3 ≠ 7#3
    ∧ ((after (.fence 0b01011) (st.modCluster 0 fun c => { c with cache := [{ addr := 0, data := [] }] })).clusterSt 0).cache = []
    ∧ ((after (.fence 0b01010) (st.modCluster 0 fun c => { c with cache := [{ addr := 0, data := [] }] })).clusterSt 0).cache ≠ [] := by
  decide

/-- The last doubleword of the page: an ordered load, store and TREAD in device memory. -/
def devS : State :=
  (dev (two 0x40FF8 0x55)).wrLoc 0 (devLoc 0xFF8) [(0, 1), (7, 0x84)]
theorem devS_mem (n : Nat) (w : Bool) (h : (devS.rx 6).toNat % n = 0)
    (g : pageEnt.leaf.getLsbD (if w then 3 else 2) = true ∧ (w = true → pageEnt.dset.contains (State.partOf pageEnt (devS.rx 6).toNat) = true)) :
    DevMem devS (devS.rx 6) n w (devLoc 0xFF8) :=
  dev_mem _ _ _ _ _ ⟨h, by decide, by decide, by decide⟩ ⟨by decide, by decide, by decide, g⟩
theorem witness_StrongAccessesAndFences_device :
    DevMem devS (devS.rx 6) 8 false (devLoc 0xFF8) ∧ DevMem devS (devS.rx 6) 2 true (devLoc 0xFF8)
    ∧ (Quiet devS ∧ Clean devS (devLoc 0xFF8) 8 ∧ (after (.lds 5 6 3 0b01100) devS).rx 5 = 0x8400000000000001#64
      ∧ (after (.tread 5 6 5) devS).rx 5 = 0x8400000000000001#64 ∧ devS.me.lent = 0
      ∧ (after (.sts 6 7 1 0b10100) devS).rdByte (devAddr 0 0 0xFF8) 0 = 0x55#8) := by
  exact ⟨devS_mem 8 false (by decide) (by decide), devS_mem 2 true (by decide) (by decide), by decide⟩
/-- Core 1 is of the cluster of core 0, core 8 of the next one; posted stores of core 0 hold bytes of core 8's LM. -/
def postedTo8 (s : State) : State :=
  s.modCore 0 fun c => { c with outq := [{ id := 1, frame := 0, store := true, addr := 8 * 2 ^ 18 + 0x200, bytes := [1#8, 2#8, 3#8, 4#8] },
                                         { id := 2, frame := 0, store := true, addr := 8 * 2 ^ 18 + 0x202, bytes := [7#8, 0x88#8] }], outNext := 3 }
theorem witness_LoadsAndStores_otherLm :
    (let s := (two 0x00FE000000070000 0xAABB).wrLm 0 1 0x2FFFC [1#8, 2#8, 3#8, 0x84#8];
      LmOf s (s.rx 6 + (0xFFC#12).signExtend 64) 1 4 0x2FFFC ∧ sameCluster s.cur.core 1 = true ∧ UnpoisonedAt s (lmAddr 0 1 0x2FFFC) 4
        ∧ (after (.ld 5 6 0xFFC 6) s).rx 5 = 0xFFFFFFFF84030201#64 ∧ (after (.st 6 7 0x7F 1 0x1C) s).rdLmNum 0 1 0x2FFFC 4 = 0x8403AABB) := by
  decide
theorem witness_LoadsAndStores_distantLm :
    (let s := postedTo8 (two 0x00FE000000200200 0xAABB);
      LmOf s (s.rx 6 + (0#12).signExtend 64) 8 4 0x200 ∧ sameCluster s.cur.core 8 = false ∧ (∀ k < 4, (postedByte s 8 (0x200 + k)).isSome = true)
        ∧ (after (.ld 5 6 0 2) s).rx 5 = 0x88070201#64 ∧ postedByte s 8 0x204 = none
        ∧ ((after (.ld 5 6 0 3) s).rnet.map (fun r => (r.core, r.off, r.size, r.fwd))) = [(8, 0x200, 8, [(0, 1#8), (1, 2#8), (2, 7#8), (3, 0x88#8)])]
        ∧ (after (.ld 5 6 0 3) s).me.wait = .load 3
        ∧ (after (.st 6 7 0 1 0) s).rnet.map (fun r => (r.core, r.off, r.size)) = [(8, 0x200, 2)]
        ∧ postedByte (after (.st 6 7 0 1 0) s) 8 0x201 = some 0xAA#8) := by decide
theorem witness_LoadsAndStores_waits :
    (let s := (two 0x00FE000000200200 0xAABB).modCore 0 fun c => { c with outq := List.replicate 16 { id := 1, frame := 0 } };
      16 ≤ (s.coreSt s.ck).outq.length ∧ (after (.st 6 7 0 1 0) s).me.wait = .stall)
    ∧ (let s := (two 0 0).modSlot 0 fun x => { x with wait := .loaded 4 0x80 };
      0x80 < 256 ^ 1 ∧ (after (.ld 5 6 0 4) s).rx 5 = 0xFFFFFFFFFFFFFF80#64) := by decide

/-- Device memory: the buffer of core 0 holds one byte of the last doubleword of the page, and in `full` all but its last two. -/
def buffered (bytes : List (Nat × Byte)) (n : Nat := 1) : State :=
  devS.modCore 0 fun c =>
    { c with cbuf := (List.range (n - 1)).map (fun i => { loc := .dev 0 0 (64 * i) 0 false, va := 0x40000 + 64 * i, bytes := [(0, 1#8)], born := 3 })
                     ++ [{ loc := (devLoc 0xFF8).line, va := 0x40FC0, bytes := bytes, born := 3 }] }
theorem witness_LoadsAndStores_deviceLoad :
    DevMem (buffered [(56, 9)]) ((buffered [(56, 9)]).rx 6 + (0#12).signExtend 64) 8 false (devLoc 0xFF8)
    ∧ (NotQueued (buffered [(56, 9)]) (devLoc 0xFF8) ∧ (devLoc 0xFF8).inLine + 8 ≤ 64 ∧ Clean (buffered [(56, 9)]) (devLoc 0xFF8) 8
      ∧ (after (.ld 5 6 0 3) (buffered [(56, 9)])).rx 5 = 0x8400000000000009#64
      ∧ (∀ k < 1, (ownByte (buffered [(56, 9)]) (devLoc 0xFF8) k).isSome = true) ∧ (after (.ld 5 6 0 0) (buffered [(56, 9)])).rx 5 = 9#64) :=
  ⟨dev_mem _ _ _ _ _ ⟨by decide, by decide, by decide, by decide⟩ ⟨by decide, by decide, by decide, by decide, by decide⟩, by decide⟩
theorem witness_LoadsAndStores_queued :
    (let s : State := { devS with agentQ := [{ rid := 0, core := 0, loc := (devLoc 0xFF8).line, va := 0x40FC0, bytes := [(56, 9)] }] };
      ((s.clusterSt s.clk).cache = [] ∧ (∀ k < 8, ownByte s (devLoc 0xFF8) k = none))
        ∧ (after (.ld 5 6 0 3) s).rx 5 = 0x8400000000000009#64 ∧ (after (.ld 5 6 0 3) s).agentQ = []) := by decide
theorem witness_LoadsAndStores_deviceStore :
    DevMem (buffered [(56, 9)]) ((buffered [(56, 9)]).rx 6 + (0#12).signExtend 64) 2 true (devLoc 0xFF8)
    ∧ DevMem (buffered [] 8) ((buffered [] 8).rx 6 + (0xF00#12).signExtend 64) 2 true (devLoc 0xEF8) :=
  ⟨dev_mem _ _ _ _ _ ⟨by decide, by decide, by decide, by decide⟩ ⟨by decide, by decide, by decide, by decide, by decide⟩,
    dev_mem _ _ _ _ _ ⟨by decide, by decide, by decide, by decide⟩ ⟨by decide, by decide, by decide, by decide, by decide⟩⟩
theorem witness_LoadsAndStores_buffer :
    ((after (.st 6 7 0 1 0) devS).coreSt 0).cbuf.map (fun e => (e.va, e.bytes)) = [(0x40FC0, [(56, 0x55#8), (57, 0#8)])]
    ∧ ((after (.st 6 7 0 1 0) (buffered [(56, 9)])).coreSt 0).cbuf.map (fun e => (e.bytes, e.born)) = [([(56, 0x55#8), (57, 0#8)], 3)]
    ∧ (after (.st 6 7 0 1 0) (buffered ((List.range 63).map fun i => (i, 1#8)))).agentQ = []
    ∧ (after (.st 6 7 0 0 7) (buffered ((List.range 63).map fun i => (i, 1#8)))).agentQ.map (fun r => (r.va, r.bytes.length)) = [(0x40FC0, 64)]
    ∧ ((after (.st 6 7 0x78 1 0) (buffered [] 8)).coreSt 0).cbuf.length = 8
    ∧ (after (.st 6 7 0x78 1 0) (buffered [] 8)).agentQ.map (fun r => (r.va, r.bytes)) = [(0x40000, [(0, 1#8)])] := by decide
theorem witness_AtomicsOnOwnLm_device :
    DevBoth devS (devS.rx 6) 8 (devLoc 0xFF8) ∧ DevBoth devS (devS.rx 6) 4 (devLoc 0xFF8)
    ∧ (Clean devS (devLoc 0xFF8) 8 ∧ Clean devS (devLoc 0xFF8) 4 ∧ (after (.amoAdd 5 6 7 1 0b11100) devS).rx 5 = 0x8400000000000001#64
      ∧ (after (.amoAdd 5 6 7 1 0b11100) devS).rdByte (devAddr 0 0 0xFF8) 0 = 0x56#8
      ∧ (after (.amoFmax 5 6 7 0b01100) devS).rx 5 = 1#64 ∧ (after (.tadd 6 7 4) devS).rdByte (devAddr 0 0 0xFF8) 0 = 0x56#8) := by
  exact ⟨⟨devS_mem 8 false (by decide) (by decide), devS_mem 8 true (by decide) (by decide)⟩,
    ⟨devS_mem 4 false (by decide) (by decide), devS_mem 4 true (by decide) (by decide)⟩, by decide⟩

/-- R250 to R252, R254; the old value is extended as the row says. -/
theorem witness_AtomicsOnOwnLm :
    (let s := lmBytes 0x200 [0xFF#8, 0xFF#8, 0xFF#8, 0xFF#8] (two (lmA 0x200) 2);
      OwnLm s (s.rx 6) 4 0x200 ∧ Unpoisoned s 0x200 4 ∧ (after (.amoAdd 5 6 7 0 0) s).rx 5 = 0xFFFFFFFFFFFFFFFF#64
        ∧ (after (.amoAdd 5 6 7 0 0) s).rdLmNum 0 0 0x200 8 = 1 ∧ (after (.amoMaxz 5 6 7 0 0) s).rx 5 = 0xFFFFFFFF#64
        ∧ (after (.amoMax 5 6 7 0 0) s).rdLmNum 0 0 0x200 8 = 2 ∧ (after (.amoMin 5 6 7 0 0) s).rdLmNum 0 0 0x200 8 = 0xFFFFFFFF
        ∧ (after (.amoSwap 5 6 7 1 0) s).rdLmNum 0 0 0x200 8 = 2 ∧ OwnLm s (s.rx 6) 8 0x200
        ∧ (after (.amocas 5 6 7 7 0) s).rdLmNum 0 0 0x200 8 = 0xFFFFFFFF ∧ (after (.amocas 5 6 5 7 0) (s.wx 5 0xFFFFFFFF)).rdLmNum 0 0 0x200 8 = 2
        ∧ Quiet s ∧ (after (.tadd 6 7 0) s).rdLmNum 0 0 0x200 8 = 0x100000001)
    ∧ (let s := lmBytes 0x200 [0#8, 0#8, 0x80#8, 0x3F#8] (two (lmA 0x200) 0x40000000);
      (after (.amoFadd 5 6 7 0) s).rdLmNum 0 0 0x200 4 = 0x40400000 ∧ (after (.amoFmax 5 6 7 0) s).rx 5 = 0x3F800000#64) := by decide

theorem witness_WaitForACounter :
    (let s := lmBytes 0x200 [5#8] (two (lmA 0x200) 5);
      Quiet s ∧ Calm s ∧ (2#3).toNat < 3 ∧ OwnLm s (s.rx 6) 8 0x200 ∧ Unpoisoned s 0x200 8 ∧ (s.rx 7).toNat ≤ lmNumber s 0x200 8
        ∧ (after (.waitge 6 7 2) s).pc = 0x104#64)
    ∧ (let s := lmBytes 0x200 [5#8] (two (lmA 0x200) 6);
      Quiet s ∧ Calm s ∧ OwnLm s (s.rx 6) 8 0x200 ∧ lmNumber s 0x200 8 < (s.rx 7).toNat ∧ (after (.waitge 6 7 2) s).pc = 0x100#64
        ∧ (after (.waitge 6 7 2) s).watches = [{ rid := 0, core := 0, frame := 0, line := ownLm s 0x200 / 64 }]) := by decide

theorem witness_WaitForACounter_device :
    DevMem devS (devS.rx 6) 8 false (devLoc 0xFF8)
    ∧ (Quiet devS ∧ Calm devS ∧ Clean devS (devLoc 0xFF8) 8 ∧ (devS.rx 7).toNat ≤ devNumber devS (devLoc 0xFF8) 0 8
      ∧ (after (.waitge 6 7 4) devS).pc = 0x104#64) := ⟨devS_mem 8 false (by decide) (by decide), by decide⟩

/-- R361: alignment before the hole and the core. -/
theorem witness_AddressChecksTrap :
    (Quiet (two 0x00FE000000030004 0) ∧ SingleFault (two 0 0))
      ∧ record (after (.ld 5 6 0 3) (two 0x00FE000000030004 0)) = [(0x10, 8, 0x00FE000000030004, 0)]
      ∧ record (after (.st 6 7 0 3 0) (two 0x0100000000000000 0)) = [(0x11, 0, 0x0100000000000000, 0)]
      ∧ record (after (.lds 5 6 3 0) (two 0x00FE000000030000 0)) = [(0x12, 0, 0x00FE000000030000, 0)] := by decide
theorem witness_AddressChecksTrap_core :
    (two 0 0).me.wait = .none ∧ (two 0 0).coreExists 0 (80 * 128) = false
      ∧ record (after (.amocas 5 6 7 7 0) (two 0x00FE004000000000 0)) = [(0x12, 0, 0x00FE004000000000, 0)]
      ∧ record (after (.tadd 6 7 0) (two 0x00FE0000A0000000 0)) = [(0x13, 0x1F, 0x00FE0000A0000000, 0)] := by decide
/-- The first page has the leaf 0 in its table, or a leaf with a key that the realm does not own; the TLB holds a page without R, or without W. -/
def leafDev (leaf : Word) : State := (two 0x40000 0).modCluster 0 fun c => { c with tlb := [{ pageEnt with leaf := leaf }] }
theorem witness_AddressChecksTrap_pages :
    ((two 0x40000 0).tlbFind 0 0x40000 = none ∧ (after (.ld 5 6 0 3) (two 0x40000 0)).me.wait = .walk 0x40
      ∧ ((after (.ld 5 6 0 3) (two 0x40000 0)).dieSt 0).walks.map (fun w => (w.page, w.clusters)) = [(0x40, [0])])
    ∧ ((leafDev 0x369).tlbFind 0 0x40000).map (·.leaf.getLsbD 2) = some false
    ∧ record (after (.amoAdd 5 6 7 1 0) (leafDev 0x369)) = [(0x15, 0, 0x40000, 0)]
    ∧ ((leafDev 0x365).tlbFind 0 0x40000).map (·.leaf.getLsbD 3) = some false
    ∧ record (after (.tadd 6 7 0) (leafDev 0x365)) = [(0x15, 1, 0x40000, 0)] ∧ record (after (.st 6 7 0 3 0) (leafDev 0x365)) = [(0x15, 1, 0x40000, 0)]
    ∧ (let s (code : Nat) := (two 0x40000 0).modSlot 0 fun x => { x with wait := .walkFault 0x40 code 3 254 };
      record (after (.ld 5 6 0 3) (s 0x20)) = [(0x20, 3, 0x40000, 254)] ∧ record (after (.ld 5 6 0 3) (s 0x14)) = [(0x14, 3, 0x40000, 254)]) := by decide
/-- A table at die 0's first near memory whose entry 0 is no entry, and one whose entry 0 is a leaf with key 7, of a realm with key 254. -/
def tabled (w : Nat) : State :=
  (st.modRealm 0 fun r => { r with kbase := 254, kcnt := 1 }).wrRaw (devAddr 0 0 0x1000) (enumBytes 0 (toBytes 8 w))
theorem witness_AddressChecksTrap_walk :
    ((tabled 0).rdPte ((tabled 0).tableAddr 0 0x100000001) = 0#64
      ∧ (match (tabled 0).walkFrom 0 0 1 0x100000001 with | .error f => some f | .ok _ => none) = some { code := 0x14, detail := 1, addr := 0 })
    ∧ (let e : Word := 0x0700036D;
      (tabled 0x0700036D).rdPte ((tabled 0x0700036D).tableAddr 0 0x100000001) = e ∧ pteLeafOk 1 1 e = true ∧ e.getLsbD 1 = false
        ∧ (e.extractLsb' 10 2).toNat ≠ 2 ∧ (e.extractLsb' 24 8).toNat = 7
        ∧ (match (tabled 0x0700036D).walkFrom 0 0 1 0x100000001 with | .error f => some f | .ok _ => none)
          = some { code := 0x20, detail := 1, addr := 0, info := 7 }) := by decide

/-! ### Vector instructions -/

/-- The task has a claim of eight lanes and the registers v4, v5 and v3 hold the elements given; p1 is 0x0F. -/
def vec (u v w : List Word32) (s : State := st) : State :=
  let s := s.modFrame 0 fun f => { f with width := 8 }
  let put (s : State) (r : Nat) (l : List Word32) : State := l.zipIdx.foldl (fun s e => s.wvAt 0 r e.2 e.1) s
  (put (put (put s 4 u) 5 v) 3 w).wp 1 0x0F
/-- The first n elements of v[r]. -/
def elems (s : State) (r n : Nat) : List Word32 := (List.range n).map (s.rv r ·)
/-- v[r] after an instruction and the wait for all outstanding vector memory instructions. -/
def done (i : Instr) (s : State) : State := after (.vwaitm 0) (after i s)

/-- R274: sub-elements at their corners, under p1, whose element 4 is inactive. -/
theorem test_vector_integer :
    ∀ q ∈ [ (Instr.vadd 3 4 5 2 1, 0x80FF7F01#32, 0x80010102#32, 0x00008003#32), (.vsub 3 4 5 1 1, 0x00010000, 0x00020001, 0xFFFFFFFF),
            (.vmulh 3 4 5 2 1, 0x80FF7F01, 0x80FF7F02, 0x40003F00), (.vmulhz 3 4 5 1 1, 0xFFFF8000, 0xFFFF0002, 0xFFFE0001),
            (.vandn 3 4 5 0 1, 0xFF00FF00, 0x0F0F0F0F, 0xF000F000), (.vsll 3 4 5 2 1, 0x01010101, 0x00010709, 0x01028002),
            (.vsra 3 4 5 1 1, 0x80007FFF, 0x0001000F, 0xC0000000), (.vminz 3 4 5 2 1, 0x80017F00, 0x7F02FF00, 0x7F017F00),
            (.vmax 3 4 5 2 1, 0x80017F00, 0x7F02FF00, 0x7F027F00), (.vaddSat 3 4 5 2 1, 0x7F800110, 0x01FF0210, 0x7F800320),
            (.vsubzSat 3 4 5 2 1, 0x01020304, 0x02010401, 0x00010003), (.vaddzSat 3 4 5 0 1, 0xFFFFFFFF, 2, 0xFFFFFFFF),
            (.vmac 3 4 5 0 1, 3, 4, 21), (.vdot 3 4 5 2 1, 0xFF010203, 0x02010101, 13), (.vdotz 3 4 5 1 1, 0x00028000, 0x00030002, 0x1000F) ],
      let s := vec [0#32, q.2.1, 0, 0, q.2.1] [0#32, q.2.2.1, 0, 0, q.2.2.1] [9#32, 9, 9, 9, 9];
      (after q.1 s).rv 3 1 = q.2.2.2 ∧ (after q.1 s).rv 3 4 = 9#32 := by decide

theorem witness_VectorIntegerResults :
    HasClaim (vec [1] [2] [3]) ∧ elems (after (.vsel 3 4 5 0 1) (vec [1, 1, 1, 1, 1] [2, 2, 2, 2, 2] [])) 3 6 = [1, 1, 1, 1, 2, 0]
      ∧ (2#2) ≠ 3#2 ∧ (after (.vdot 3 4 5 2 0) (vec [0x80808080] [0x80808080] [0xFFFFFFFF])).rv 3 0 = 0xFFFF#32 := by decide

/-- R275: binary16 sub-elements, and the flags of active elements alone. -/
theorem witness_VectorFloatResults :
    (let s := vec [0x3F800000, 0x7F800000, 0x40000000] [0x3F800000, 0xFF800000, 0x3F800000] [0x40400000];
      HasClaim s ∧ elems (after (.vfadd 3 4 5 0 1) s) 3 3 = [0x40000000, 0x7FC00000, 0x40400000] ∧ (after (.vfadd 3 4 5 0 1) s).me.fflags = 16#5
        ∧ (after (.vfma 3 4 5 0 0) s).rv 3 0 = 0x40800000#32 ∧ (after (.vfnma 3 4 5 0 0) s).rv 3 0 = 0x40000000#32
        ∧ (after (.vfcpsgn 3 4 5 0 0) s).rv 3 1 = 0xFF800000#32)
    ∧ (let s := vec [0x3C00BC00] [0x40003C00] [0]; -- binary16 1, −1 and 2, 1
      (after (.vfadd 3 4 5 2 1) s).rv 3 0 = 0x42000000#32 ∧ (after (.vfmul 3 4 5 2 1) s).rv 3 0 = 0x4000BC00#32
        ∧ (after (.vfmax 3 4 5 2 1) s).rv 3 0 = 0x40003C00#32) := by decide

/-- R276: element 7 is the last of the claim; without a claim a predicate has 64 bits. -/
theorem witness_VectorPredicates :
    (let s := vec [1, 0xFFFFFFFF, 0, 0, 0, 0, 0, 5] [1, 1, 1, 0, 0, 0, 0, 5] [];
      HasClaim s ∧ s.vlen ≤ 64 ∧ (after (.vcmpeq 2 4 5 0) s).rp 2 = 0xF9#64 ∧ (after (.vcmplt 2 4 5 1) s).rp 2 = 0x06#64
        ∧ (after (.vcmpltz 2 4 5 1) s).rp 2 = 0x04#64 ∧ (after (.vcmplez 2 4 5 0) s).rp 2 = 0xFD#64
        ∧ (after (.vfcmpun 2 4 5 0) s).rp 2 = 0x02#64 ∧ (after (.vfcmplt 2 4 5 0) s).me.fflags = 16#5 ∧ (after (.vfcmpeq 2 4 5 0) s).me.fflags = 0#5
        ∧ (after (.pnot 2 1) s).rp 2 = 0xF0#64 ∧ (after (.pwhile 2 7) (s.wx 7 9)).rp 2 = 0xFF#64 ∧ (after (.pcnt 5 0) s).rx 5 = 8#64
        ∧ (after (.pandn 2 0 1) s).rp 2 = 0xF0#64)
    ∧ (st.vlen = 0 ∧ (after (.pnot 2 1) st).rp 2 = BitVec.allOnes 64 ∧ (after (.pwhile 2 7) (st.wx 7 63)).rp 2 = 0x7FFFFFFFFFFFFFFF#64
        ∧ (after (.pcnt 5 0) st).rx 5 = 64#64) := by decide

/-- R278, R125: the tree over all eight elements, in which inactive ones give the identity. -/
theorem witness_VectorReductions :
    (let s := vec [0xFFFFFFFF, 2, 3, 0x80000000, 7] [0x4B800000, 0x3F800000, 0xCB800000, 0x3F800000, 0x7F800000] [];
      HasClaim s ∧ (after (.vredadd 5 4 1) s).rx 5 = 0xFFFFFFFF80000004#64 ∧ (after (.vredminz 5 4 1) s).rx 5 = 2#64
        ∧ (after (.vredmaxz 5 4 1) s).rx 5 = 0xFFFFFFFF#64 ∧ (after (.vredmin 5 4 1) s).rx 5 = 0xFFFFFFFF80000000#64
        ∧ (after (.vredxor 5 4 1) s).rx 5 = 0x7FFFFFFE#64 ∧ (after (.vredand 5 4 1) s).rx 5 = 0#64
        ∧ (after (.vfredadd 5 5 1) s).rf 5 = 0x3F800000#32 ∧ (after (.vfredmax 5 5 1) s).rf 5 = 0x4B800000#32
        ∧ (after (.vfredmin 5 5 0) s).rf 5 = 0xCB800000#32) := by decide

/-- R279: a narrowing from v28 to v31, the last four registers, and a widening to them. -/
theorem witness_VectorConversions :
    (let s := ((vec [0x80007F01] [] []).wvAt 0 28 0 0x43FA0000 |>.wvAt 0 29 0 0x3F800000).wvAt 0 31 0 0xBF800000;
      HasClaim s ∧ (28#5).toNat + 4 ≤ 32 ∧ (after (.vcvtF32E4m3 3 28 0 1 0) s).rv 3 0 = 0xB800387E#32
        ∧ elems (after (.vcvtE4m3F32 28 3) (after (.vcvtF32E4m3 3 28 0 1 0) s)) 28 1 = [0x43E00000]
        ∧ (after (.vcvtE4m3F32 28 3) (after (.vcvtF32E4m3 3 28 0 1 0) s)).rv 31 0 = 0xBF800000#32
        ∧ (after (.vcvtS8x4S32 28 4) s).rv 31 0 = 0xFFFFFF80#32 ∧ (after (.vcvtZ16x2Z32 30 4) s).rv 31 0 = 0x8000#32
        ∧ (after (.vcvtS32F32 4 4 1) s).rv 4 0 = 0xCEFFFF01#32 ∧ (after (.vcvtF32S32 4 29 0) s).rv 4 0 = 1#32)
    ∧ (after (.vcvtS32S8x4 3 4 1) (((vec [300] [0xFFFFFED4] []).wvAt 0 6 0 5).wvAt 0 7 0 0xFFFFFFFF)).rv 3 0 = 0xFF05807F#32 := by decide

/-- R280, R281: the result arrives later, for active elements alone. -/
theorem witness_SpecialFunctions :
    (let s := vec [0x40800000, 0, 0xFF800000, 0x7F800001, 0x40800000] [0x40000000] [7, 7, 7, 7, 7];
      HasClaim s ∧ elems (after (.vrsqrt 3 4 1) s) 3 5 = [7, 7, 7, 7, 7]
        ∧ elems (after .sfuResult (after (.vrsqrt 3 4 1) s)) 3 5 = [0x3F000000, 0x7F800000, 0x7FC00000, 0x7FC00000, 7]
        ∧ (after .sfuResult (after (.vlog2 3 5 1) s)).rv 3 0 = 0x3F800000#32) := by decide

/-- R265 to R269, R369: of the pool's 256 lanes another core's four claims hold 224, then all. -/
def pool (w : Nat) : State :=
  [16, 17, 18, 19].foldl (fun s k => s.modFrame k fun f => { f with used := true, width := if k = 19 then w else 64 }) (two 64 8)
theorem witness_LaneClaims :
    (let s := pool 32;
      Quiet s ∧ s.me.wait = .none ∧ (s.octetSt s.octk).claims = [] ∧ 8 ≤ s.relClaim.freeWidth s.cur.rid s.cur.core
        ∧ (after (.vclaim 5 6) s).rx 5 = 32#64 ∧ (after (.vclaim 5 6) s).vlen = 32 ∧ (after (.vclaimTry 5 7) s).rx 5 = 8#64
        ∧ (after .vrel (after (.vclaim 5 6) s)).vlen = 0)
    ∧ (let s := pool 64;
      s.freeWidth s.cur.rid s.cur.core + s.vlen < 8 ∧ (after (.vclaimTry 5 6) (s.wx 5 9)).rx 5 = 0#64
        ∧ (after (.vclaim 5 6) s).pc = 0x100#64)
    ∧ (let s := (pool 32).modOctet 0 fun o => { o with claims := [{ core := 1, frame := 2, width := 8 }] };
      (s.octetSt s.octk).claims = [{ core := 1, frame := 2, width := 8 }] ∧ 8 ≤ s.freeWidth s.cur.rid 1
        ∧ (after .claimGrant s).waitOf 0 1 2 = .granted 8)
    ∧ (let s := st.modOctet 0 fun o => { o with claims := [{ core := 1, frame := 2, width := 64 }] };
      64 ≤ s.freeWidth s.cur.rid 1 ∧ (after .claimGrant s).waitOf 0 1 2 = .granted 64) := by decide
/-- A claim that must wait: one stands ahead, or fewer than eight lanes are free; it keeps waiting, and completes when it is granted. -/
theorem witness_LaneClaims_waits :
    (let s := (pool 32).modOctet 0 fun o => { o with claims := [{ core := 1, frame := 2, width := 8 }] };
      Quiet s ∧ Alone s ∧ (s.octetSt s.octk).claims ≠ [] ∧ (after (.vclaim 5 6) s).me.wait = .claim 64
        ∧ ((after (.vclaim 5 6) s).octetSt s.octk).claims = [{ core := 1, frame := 2, width := 8 }, { core := 0, frame := 0, width := 64 }])
    ∧ ((pool 64).relClaim.freeWidth 0 0 < 8 ∧ (after (.vclaim 5 6) (pool 64)).me.wait = .claim 64)
    ∧ (let s := (two 64 0).modSlot 0 fun x => { x with wait := .claim 64 };
      Alone s ∧ (after (.vclaim 5 6) s).pc = 0x100#64 ∧ (after (.vclaim 5 6) s).me.wait = .claim 64)
    ∧ (let s := (two 64 0).modSlot 0 fun x => { x with wait := .granted 16 };
      (after (.vclaim 5 6) s).pc = 0x104#64 ∧ (after (.vclaim 5 6) s).rx 5 = 16#64) := by decide
theorem witness_LaneClaims_none :
    Quiet st ∧ SingleFault st ∧ st.vlen = 0 ∧ record (after (.vld 1 2 0) st) = [(3, 0x29, 0, 0)]
    ∧ record (after (.vcos 1 2 0) st) = [(3, 0x2F, 0, 0)] ∧ record (after (.vcmpeq 1 2 3 0) st) = [(3, 0x30, 0, 0)] := by decide

theorem witness_VectorPermutes :
    (let s := (vec [10, 11, 12, 13, 14, 15, 16, 17] [7, 8, 0xFFFFFFFF, 0] [1, 1, 1, 1, 1]).wx 6 0xFFFFFFFF00000001 |>.wx 7 9;
      HasClaim s ∧ Quiet s ∧ elems (done (.vperm 3 4 5 1) s) 3 5 = [17, 10, 17, 10, 1]
        ∧ elems (done (.vslideUp 4 4 7 0) (s.wx 7 1)) 4 3 = [0, 10, 11] ∧ elems (done (.vslideDn 4 4 7 0) (s.wx 7 1)) 4 8 = [11, 12, 13, 14, 15, 16, 17, 0]
        ∧ elems (done (.vbcast 3 6 1) s) 3 5 = [1, 1, 1, 1, 1] ∧ elems (done (.vbcastE 3 4 7 1) s) 3 5 = [11, 11, 11, 11, 1]
        ∧ elems (done (.vins 4 6 7) s) 4 3 = [10, 1, 12] ∧ (after (.vext 5 4 7) s).rx 5 = 11#64) := by decide

/-- R271 to R273: eight elements that end at the last word of LM; the transposing forms with the last registers. -/
def vmem : State :=
  (lmBytes 0x2FFE0 ((List.range 32).map (BitVec.ofNat 8 ·)) (vec [0xA0, 0xA1] [0, 4, 4, 0] [0xB0, 0xB1, 0xB2, 0xB3] (two (lmA 0x2FFE0) 16))).wx 8 4
theorem witness_VectorMemory_loads :
    HasClaim vmem ∧ Quiet vmem ∧ vmem.me.wait = .none
      ∧ (∀ j ∈ List.range 8, OwnLm vmem (vmem.rx 6 + BitVec.ofNat 64 (4 * j)) 4 (0x2FFE0 + 4 * j) ∧ Unpoisoned vmem (0x2FFE0 + 4 * j) 4)
      ∧ (done (.vld 3 6 0) vmem).rv 3 7 = 0x1F1E1D1C#32 ∧ elems (done (.vlds 3 6 8 1) vmem) 3 5 = [0x03020100, 0x07060504, 0x0B0A0908, 0x0F0E0D0C, 0]
      ∧ elems (done (.vldg 3 6 5 1) vmem) 3 4 = [0x03020100, 0x07060504, 0x07060504, 0x03020100] := by decide
theorem witness_VectorMemory_transposes :
    (let s := vmem.wp 1 3; -- two elements of four words, sixteen bytes apart
      (∀ j ∈ [0, 1], ∀ i ∈ List.range 4, OwnLm s (s.rx 6 + BitVec.ofNat 64 j * s.rx 7 + BitVec.ofNat 64 (4 * i)) 4 (0x2FFE0 + 16 * j + 4 * i)
          ∧ Unpoisoned s (0x2FFE0 + 16 * j + 4 * i) 4)
        ∧ (28#5).toNat + 4 ≤ 32 ∧ elems (done (.vldt 28 6 7 1 1) s) 28 3 = [0x03020100, 0x13121110, 0]
        ∧ elems (done (.vldt 28 6 7 1 1) s) 31 3 = [0x0F0E0D0C, 0x1F1E1D1C, 0]) := by decide
theorem witness_VectorMemory_stores :
    (done (.vst 3 6 1) vmem).rdLmNum 0 0 0x2FFE8 8 = 0xB3000000B2 ∧ (done (.vsts 3 6 8 1) vmem).rdLmNum 0 0 0x2FFE0 8 = 0xB1000000B0
      ∧ (done (.vstg 3 6 5 1) vmem).rdLmNum 0 0 0x2FFE0 8 = 0xB2000000B3
      ∧ (done (.vstt 3 6 7 0 1) (vmem.wp 1 3)).rdLmNum 0 0 0x2FFF0 8 = 0xA1000000B1
      ∧ (let s := (vmem.modFrame 0 fun f => { f with vops := [{ store := false, elems := [{ reg := 3, j := 7, val := 0x77 }] }] });
        (after .vmemPerformed s).rv 3 7 = 0x77#32 ∧ (after .vmemPerformed s).myFrame.vops = []) := by decide
/-- R271 to R273 in the page of device memory: eight elements that end at its last word, v3 for the data, four elements under p1. -/
def vdev : State := dev ((vec [0xA0, 0xA1] [0, 4, 4, 0] [0xB0, 0xB1, 0xB2, 0xB3] (two 0x40FE0 16)).wx 8 4)
def vdevL (j : Nat) : Loc := devLoc (0xFE0 + 4 * j)
theorem witness_VectorMemory_device :
    (∀ w : Bool, ∀ j < 8, DevMem vdev (vdev.rx 6 + BitVec.ofNat 64 (4 * j)) 4 w (vdevL j))
    ∧ (HasClaim vdev ∧ Quiet vdev ∧ vdev.me.wait = .none ∧ (∀ j < 8, Clean vdev (vdevL j) 4 ∧ (vdevL j).inLine + 4 ≤ 64)
      ∧ ((done (.vst 3 6 1) vdev).coreSt 0).cbuf.map (fun e => (e.va, e.bytes.map (·.1), e.bytes.map (·.2)))
        = [(0x40FC0, (List.range 16).map (32 + ·), [0xB0#8, 0, 0, 0, 0xB1, 0, 0, 0, 0xB2, 0, 0, 0, 0xB3, 0, 0, 0])]) := by
  refine ⟨fun w j hj => ?_, by decide⟩
  have g : ∀ w : Bool, ∀ j < 8, (let va := vdev.rx 6 + BitVec.ofNat 64 (4 * j);
      (va.toNat % 4 = 0 ∧ va.toNat < 2 ^ 56 ∧ va.toNat / 2 ^ 48 ≠ 0xFE ∧ vdev.me.wait = .none)
      ∧ vdev.tlbFind vdev.clk va.toNat = some pageEnt ∧ vdev.leafLoc vdev.cur.rid pageEnt va.toNat = devLoc (0xFE0 + 4 * j)
      ∧ pageEnt.aset.contains (State.partOf pageEnt va.toNat) = true ∧ pageEnt.leaf.getLsbD (if w then 3 else 2) = true
      ∧ (w = true → pageEnt.dset.contains (State.partOf pageEnt va.toNat) = true)) := by decide
  exact dev_mem _ _ _ _ _ (g w j hj).1 (g w j hj).2

/-! ### Messages, counters, tasks -/

/-- H0 of a direct message of class normal for handler 0xEF of core 0, with 64 × `len` bytes of payload. -/
abbrev h0d (len : Nat) : Word := BitVec.ofNat 64 (len * 2 ^ 51 + 2 * 2 ^ 49 + 2 ^ 48 + 0xEF * 2 ^ 32 + 0xFFF * 2 ^ 20)

/-- The last quadruple of registers; the longest payload, at the end of LM; counter 252 as the least reserved one past 251; class 0. -/
theorem witness_MessagesAreSent :
    (let s := (two (h0d 0) 0x0140000000000000).wx 31 9; -- ORD and no other bit of H1 but FABID's place
      Quiet s ∧ (28#5).toNat ≤ 28 ∧ (s.coreSt s.ck).outq = [] ∧ s.coreExists 0 0 = true ∧ (s.rx 6).extractLsb' 58 6 = 0#6
        ∧ (after (.msend 6 7 28) s).net.map (fun m => (m.h0, m.h1, m.a3, m.out)) = [(h0d 0, 0x0100000000000000#64, 9#64, some 0)]
        ∧ (after (.msend 6 7 28) s).pc = 0x104#64)
    ∧ (let s := lmBytes 0x2F000 [7#8] ((two (h0d 64) 0x2F000).wx 8 0x2F000);
      (s.rx 8).toNat + 64 * 64 ≤ 0x30000 ∧ Unpoisoned s 0x2F000 (64 * 64)
        ∧ (after (.msendp 8 6 7 28) s).net.map (fun m => (m.payload.take 2, m.payload.length)) = [([7, 0], 4096)]) := by decide
theorem witness_MessagesAreSent_trap :
    (let s := two 0x0001006FFFF00000 0; -- class 0
      Quiet s ∧ SingleFault s ∧ record (after (.msend 6 7 28) s) = [(2, 0x20, 0x0001006FFFF00000, 1)]) := by decide

/-- What a queue's fresh task is. -/
def freshHix (l : List ReadyItem) : List (Nat × Word × Word) :=
  l.map fun | .fresh r => (r.hix, r.x10, r.x15) | _ => (0, 0, 0)
/-- A direct message of core 3, with ORD, for handler 0xEF, which is bound at 0x200 or is not. -/
def arriving (bound : Bool) (hix cls : Nat) (payload : List Byte) : State :=
  let h0 : Word := BitVec.ofNat 64 (cls * 2 ^ 49 + 2 ^ 48 + hix * 2 ^ 32 + 0xFFF * 2 ^ 20)
  let m : Msg := { score := 3, h0 := h0, h1 := 0x010000000002FFC0#64, a0 := 5#64, payload := payload, out := some 4 }
  let t : State := { st with net := [m] }.modCore 3 fun c => { c with outq := [{ id := 4, frame := 0 }, { id := 5, frame := 0 }] }
  if bound then
    { t with handlers := ((t.handlers.set 0#64 0xEF 0x8000000000000200#64).set 0#64 0xEE 0x8000000000000200#64) }
  else t
theorem witness_DirectMessagesStartTasks :
    (let s := arriving true 0xEF 2 [1#8, 2#8];
      Receives s 0 0 ∧ s.cur.idx = 0 ∧ (after .messageArrival s).net = [] ∧ (after .messageArrival s).rdLmNum 0 0 0x2FFC0 4 = 0x201
        ∧ ((after .messageArrival s).coreSt 3).outq.map (·.id) = [5]
        ∧ freshHix ((after .messageArrival s).coreSt 0).normal = [(0xEF, 5#64, 0x2FFC0#64)])
    ∧ ((after .messageArrival (arriving false 0xEF 2 [])).coreSt 0).unclaimed.map (·.hix) = [0xEF] := by decide
/-- The seventeenth unclaimed message; a decrement of counter 247, which does not reach zero, and one that does (R33, R372). -/
theorem witness_DirectMessagesStartTasks_lost :
    (let s := (arriving false 0xEF 2 []).modCore 0 fun c => { c with unclaimed := List.replicate 16 {} };
      Receives s 0 0 ∧ ((after .messageArrival s).coreSt 0).unclaimed.length = 16
        ∧ (after .messageArrival s).net.map (fun m => (m.a0, m.a2)) = [(0x10080#64, 0x000000050002FFC0#64)]) := by decide
theorem witness_DirectMessagesStartTasks_decrements :
    (let s (v : BitVec 32) : State :=
        { st with net := [{ score := 0x500, h0 := 0x0004F700FFF00000, h1 := 0x2FFC0, payload := [7#8], out := some 4 }] }.setCounter 247
          { value := v, state := 1#2, bind := some { hix := 5, cls := 1 } };
      (s 1).acts 0 = true ∧ PortIdle (s 1) 0 ∧ Receives (s 1) 0 0 ∧ ((after .messageArrival (s 2)).counter 247).value = 1
        ∧ ((after .messageArrival (s 1)).coreSt 0).urgent = [.fresh { hix := 5, cls := 1, x12 := 247, x13 := 1 }]
        ∧ (after .messageArrival (s 2)).rdLmNum 0 0 0x2FFC0 1 = 7) := by decide
theorem witness_DirectMessagesStartTasks_system :
    (∀ s ∈ [arriving true 0xF0 1 [], arriving true 0xF1 1 []], Receives s 0 0
      ∧ s.net.all (fun m => m.ddev == 0xFFF && m.post == none && m.sdev == s.fabid && m.marks == [] && m.payload == []) = true)
    ∧ freshHix ((after .trapRecordDispatch (arriving true 0xF0 1 [])).coreSt 0).urgent = [(0xEF, 5, 0x2FFC0)]
    ∧ freshHix ((after .svcDispatch (arriving true 0xF1 1 [])).coreSt 0).urgent = [(0xEE, 5, 0x2FFC0)] := by decide

/-- Counter 247, the last one a program names. -/
def ctr (c : Counter) (v r : Word) : State := ((two 247 v).wx 8 r).setCounter 247 c
/-- Counter 247 after an instruction. -/
abbrev ctrAfter (i : Instr) (s : State) : Counter := (after i s).counter 247
theorem witness_TriggerCounters :
    (Quiet (ctr {} 0 0) ∧ PortIdle (ctr {} 0 0) (ctr {} 0 0).ck)
    ∧ ctrAfter (.tarm 6 7 8) (ctr {} 0xFFFFFFFF 3) = { value := 0xFFFFFFFF#32, reload := 3 }
    ∧ ctrAfter (.tarmRep 6 7 8) (ctr { state := 1#2, bind := some {} } 1 1) = { value := 1, reload := 1, rep := true, state := 1#2, bind := some {} }
    ∧ (ctrAfter (.tbind 6 7 8) (ctr {} 0x7EF 9)).state = 1#2
    ∧ (ctrAfter (.tbind 6 7 8) (ctr {} 0x7EF 9)).bind.map (fun r => (r.hix, r.cls, r.steal, r.x10)) = some (0xEF, 3, true, 9#64)
    ∧ ctrAfter (.tunbind 6) (ctr { state := 1#2, bind := some {} } 0 0) = {}
    ∧ ctrAfter (.tdis 6) (ctr { value := 4 } 0 0) = { value := 4, state := 3#2 }
    ∧ ctrAfter (.ten 6) (ctr { value := 4, state := 3#2, held := 2 } 0 0) = { value := 4, owed := 2 }
    ∧ ((after (.ten 6) (ctr { value := 4, state := 3#2, held := 2 } 0 0)).coreSt 0).owing = some 247 := by decide
theorem witness_TriggerCounters_reads :
    ctrAfter (.tdec 6) (ctr { value := 2 } 0 0) = { value := 1 }
    ∧ ctrAfter (.tclrf 6) (ctr { exc := true, ovf := true } 0 0) = {}
    ∧ (after (.tstat 5 6) (ctr { value := 7, p := 3, held := 2, ovf := true, rep := true, state := 2#2 } 0 0)).rx 5 = 0x0002160300000007#64
    ∧ (after (.tfcnt 5 6) (ctr { fires := 9 } 0 0)).rx 5 = 9#64 := by decide
/-- The decrement to zero, and the held ones. -/
theorem witness_TriggerCounters_fires :
    (let s := ctr { value := 1, state := 1#2, bind := some { hix := 5, cls := 1 }, fires := 0xFFFFFFFF } 0 0;
      ctrAfter (.tdec 6) s = {} ∧ ((after (.tdec 6) s).coreSt 0).urgent = [.fresh { hix := 5, cls := 1, x12 := 247 }])
    ∧ (let s := (ctr { value := 2, owed := 1 } 0 0).modCore 0 fun c => { c with owing := some 247 };
      s.acts 0 = true ∧ ctrAfter .heldDecrement s = { value := 1 } ∧ ((after .heldDecrement s).coreSt 0).owing = none) := by decide

theorem witness_HandlersAndSpawns :
    (let s := (two 0xEF 0x8000000000000200).wx 8 3;
      Quiet s ∧ PortIdle s s.ck ∧ s.rx 7 &&& 0x7FFF00F0003C0001#64 = 0#64 ∧ (s.coreSt s.ck).unclaimed = []
        ∧ (after (.hbind 6 7) s).handlers.get 0#64 0xEF = 0x8000000000000200#64)
    ∧ (let s := (two 0x7EF 8).wx 8 3;
      (s.coreSt s.ck).deque.length < 64 ∧ (s.coreSt s.ck).spilled = 0 ∧ (after (.spawn 5 6 7 8) (s.wx 5 9)).rx 5 = 0#64
        ∧ ((after (.spawn 5 6 7 8) s).coreSt 0).deque = [{ hix := 0xEF, cls := 3, steal := true, x10 := 8, x11 := 3 }]
        ∧ (after (.dqcnt 5) (after (.spawn 5 6 7 8) s)).rx 5 = 1#64)
    ∧ (let s := (two 0x7EF 8).modCore 0 fun c => { c with deque := List.replicate 64 {}, spilled := 128 };
      192 ≤ (s.coreSt s.ck).deque.length + (s.coreSt s.ck).spilled ∧ (after (.spawn 5 6 7 8) s).rx 5 = 1#64
        ∧ (after (.dqcnt 5) s).rx 5 = 192#64) := by decide

/-- The turn names slot 7 and frame 15, the last ones. -/
theorem witness_TasksStart :
    (let s : State := ({ st with cur := { slot := 7, sub := 15 } }.modCore 0 fun c =>
        { c with urgent := [.fresh { hix := 5, cls := 1, x12 := 247, entry := some 0x8000000000000200 }] }).wx 9 1;
      (s.realm 0).state = 1 ∧ s.power = 0 ∧ s.coreExists 0 0 = true ∧ (s.coreSt 0).fenced = false ∧ (s.slotSt 7).busy = false
        ∧ (s.frameSt 15).used = false ∧ (after .taskStart s).pc = 0x200#64 ∧ (after .taskStart s).rx 2 = 0x30000#64
        ∧ (after .taskStart s).rx 12 = 247#64 ∧ (after .taskStart s).rx 9 = 0#64 ∧ (after .taskStart s).myFrame.hix = 5)
    ∧ (let s : State := st.modCore 0 fun c => { c with hold := [{ hix := 5, cls := 3 }] };
      s.acts 0 = true ∧ s.freshCount 0 < 64 ∧ ((after .creationHoldRelease s).coreSt 0).backgr = [.fresh { hix := 5, cls := 3 }])
    ∧ (let s : State := { st.modCore 0 fun c => { c with normal := [.fresh { hix := 5, since := 1 }] } with clock := 65537 };
      ((after .taskPromotion s).coreSt 0).urgent = [.fresh { hix := 5, cls := 1, since := 1 }]
        ∧ ((after .taskPromotion { s with clock := 65536 }).coreSt 0).urgent = [])
    ∧ (let s : State := { st with cur := { sub := 15 } }.modFrame 15 fun f => { f with used := true, evicted := true, cls := 1, wait := .stall };
      ((after .evictedTaskReady s).coreSt 0).urgent = [.resumed 15 0] ∧ ((after .evictedTaskReady s).frameSt 15).ready = true) := by decide

/-- Core 127, at the end of its row: its octet's cluster holds columns 120 to 127. -/
theorem witness_Stealing :
    (let s : State := { st with cur := { core := 127 } };
      s.coreExists 0 127 = true ∧ (s.coreSt 127).stealTo = none ∧ ((after .stealRequest s).coreSt 127).stealTo = some 8)
    ∧ (let s : State := st.modCore 0 fun c => { c with refusals := 31, backoff := 256 };
      ((after .stealBackoff { s with clock := 256 }).coreSt 0).refusals = 0 ∧ ((after .stealBackoff { s with clock := 255 }).coreSt 0).refusals = 31)
    ∧ (let s : State := (st.modCore 0 fun c => { c with stealTo := some 31 }).modCore (3 * 128 + 7) fun c =>
        { c with deque := [{ hix := 9, steal := true }, { hix := 8 }] };
      coreAtClusterPos 0 31 = 3 * 128 + 7 ∧ s.acts 0 = true ∧ ((after .stealHandover s).coreSt 0).deque.map (·.hix) = [9]
        ∧ ((after .stealHandover s).coreSt (3 * 128 + 7)).deque.map (·.hix) = [8])
    ∧ (let s : State := st.modCore 0 fun c => { c with stealTo := some 1, refusals := 30 };
      ((after .stealHandover s).coreSt 0).refusals = 31 ∧ ((after .stealHandover s).coreSt 0).backoff = 256) := by decide

theorem witness_RemoteAccesses :
    (let s : State := { lmBytes 0x2FFFF [7#8] st with rnet := [{ rid := 0, src := 1, frame := 0, id := 4, core := 0, off := 0x2FFFF, size := 1, op := .load }] };
      s.acts 0 = true ∧ (s.coreSt 0).fenced = false ∧ s.poison = [] ∧ (after .remoteAccess s).replies = [{ rid := 0, core := 1, id := 4, val := 7 }])
    ∧ (let s : State := { st with rnet := [{ rid := 0, src := 1, frame := 0, id := 4, core := 0, off := 0x2FFFF, size := 1, op := .store [9#8] }] };
      (after .remoteAccess s).rdLmNum 0 0 0x2FFFF 1 = 9 ∧ (after .remoteAccess s).rnet = [])
    ∧ (let s : State := { (st.modSlot 0 fun x => { x with wait := .load 4 }).modCore 0 fun c => { c with outq := [{ id := 4, frame := 0 }] } with
        replies := [{ rid := 0, core := 0, id := 4, val := 7 }] };
      (s.slotSt 0).busy = true ∧ (after .remoteReply s).me.wait = .loaded 4 7 ∧ ((after .remoteReply s).coreSt 0).outq = [])
    ∧ (let s : State := { st.modCore 0 fun c => { c with cbuf := [{ loc := .dev 0 0 64 0 false, va := 64, bytes := [(63, 9)], born := 5 }] } with clock := 1029 };
      (after .combiningDrainTimeout s).agentQ.map (·.bytes) = [[(63, 9#8)]] ∧ (after .combiningDrainTimeout { s with clock := 1028 }).agentQ = [])
    ∧ (let s : State := { st with agentQ := [{ rid := 0, core := 0, loc := .dev 0 0 64 0 false, va := 64, bytes := [(63, 9#8)] }] };
      s.cur.inp.far = none ∧ s.acts 0 = true ∧ (after .memoryAgentRequest s).mem.get memDefault (devAddr 0 0 64 + 63) = 9#8) := by decide

/-- Eight bytes that end LM, a byte of which rides with the load, and an atomic; the service slot has its turn. -/
theorem witness_RemoteAccesses_bytes :
    (let r : RemReq := { rid := 0, src := 1, frame := 0, id := 4, core := 0, off := 0x2FFF8, size := 8, op := .load, fwd := [(7, 0x80#8)] };
     let s : State := { lmBytes 0x2FFF8 [7#8, 6#8] st with rnet := [r] };
      s.acts 0 = true ∧ (s.coreSt 0).fenced = false ∧ s.serviceTurn 0 0 = true ∧ UnpoisonedAt s (lmAddr 0 0 0x2FFF8) 8
        ∧ (after .remoteAccess s).replies = [{ rid := 0, core := 1, id := 4, val := 0x8000000000000607 }]
        ∧ ((after .remoteAccess s).coreSt 0).issued = 8)
    ∧ (let r : RemReq := { rid := 0, src := 1, frame := 0, id := 4, core := 0, off := 0x2FFF8, size := 4, op := .amo .add 0xFFFFFFFF 0 };
     let s : State := { lmBytes 0x2FFF8 [7#8, 6#8] st with rnet := [r] };
      s.serviceTurn 0 0 = true ∧ (after .remoteAccess s).replies.map (·.val) = [0x607] ∧ (after .remoteAccess s).rdLmNum 0 0 0x2FFF8 4 = 0x606) := by
  decide
theorem witness_WaitsEnd :
    (let s : State := { st.modSlot 0 fun x => { x with wait := .watch (.lm 0 0x200) 0x200 5 false } with
        reports := [{ rid := 0, core := 0, frame := 0, line := 8 }], clock := 4096 };
      s.acts 0 = true ∧ (s.slotSt 0).busy = true ∧ (after .writeReport s).me.wait = .again (.lm 0 0x200) 0x200 5 false
        ∧ (after .writeReport s).reports = []
        ∧ (after .waitTimeout s).me.wait = .again (.lm 0 0x200) 0x200 5 false
        ∧ (after .waitTimeout { s with clock := 4095 }).me.wait = .watch (.lm 0 0x200) 0x200 5 false)
    ∧ (let s : State := (st.modSlot 0 fun x => { x with wait := .walk 5 }).modDie 0 fun d => { d with walks := [{ page := 5, clusters := [0] }] };
      s.acts 0 = true ∧ (s.dieSt (dieKey 0 0)).walks = [{ page := 5, clusters := [0] }] ∧ (after .pageWalkComplete s).me.wait ≠ .walk 5) := by decide
/-- The fault of a walk is that of the instructions that wait for its page, XLINV at level 5 (R379). -/
theorem witness_WaitsEnd_fault :
    (let s : State := (st.modSlot 0 fun x => { x with wait := .walk 5 }).modDie 0 fun d =>
        { d with walks := [{ page := 5, clusters := [0], fault := some (0x14, 5, 0) }] };
      s.acts 0 = true ∧ (after .pageWalkComplete s).me.wait = .walkFault 5 0x14 5 0) := by decide

/-- A unit's request joins the walk of its page: both have the one result, XLINV at level 5 (R72, R378, R379). -/
theorem test_unit_joins_walk :
    (let s : State := st.modDie 0 fun d => { d with walks := [{ page := 5, clusters := [0] }] };
      ((s.unitLeaf 0 0 0x5008).2.dieSt 0).walks.map (·.fault) = [some (0x14, 5, 0)]
        ∧ (match (s.unitLeaf 0 0 0x5008).1 with | .error f => some f | .ok _ => none) = some { code := 0x14, detail := 5, addr := 0x5008 }) := by
  decide
/-! ### Rings, the halo exchange, barriers -/

/-- Handle 15, the last one. -/
def ringed (r : Ring) (n : Word) : State := (two n 0).setRing 15 r
/-- The end of the LM that a ring may take: 256 slots of 64 bytes end at 0x27000; counts of FILL and FREE that just suffice. -/
theorem witness_Rings :
    (let s := two 0x23000 (BitVec.ofNat 64 (256 * 2 ^ 16 + 1 * 2 ^ 8));
      Quiet s ∧ PortIdle s s.ck ∧ (after (.rset 15 6 7) s).ring 15 = { base := 0x23000, slotsz := 1, count := 256, free := 256 })
    ∧ (let s := ringed { base := 0x40, slotsz := 2, count := 4, fill := 3, free := 1, head := 2, tail := 1 } 3;
      (after (.rwaitf 15 6) s).pc = 0x104#64 ∧ Calm s ∧ (after (.rwaite 15 6) s).me.wait = .ring 15 true 3
        ∧ (after (.radvc 15 6) s).ring 15 = { base := 0x40, slotsz := 2, count := 4, fill := 0, free := 4, head := 1, tail := 1 }
        ∧ (after (.rstat 5 15) s).rx 5 = 0x0010004080203040#64)
    ∧ ((after (.radvp 15 6) (ringed { count := 4, slotsz := 1, fill := 1, free := 3, tail := 3 } 3)).ring 15
        = { count := 4, slotsz := 1, fill := 4, free := 0, tail := 2 })
    ∧ (let s := two 1 0;
      SingleFault s ∧ (s.ring 15).count = 0 ∧ record (after (.radvp 15 6) s) = [(2, 0x37, 15, 0)]) := by decide

/-- A tile of four rows of eight bytes at 0x400, 16 bytes apart, with borders of one row and three columns. -/
def tile (dir : Nat) : State :=
  let n := 0x400 + 16 * 2 ^ 32 + 8 * 2 ^ 64 + 4 * 2 ^ 80 + 1 * 2 ^ 104 + 3 * 2 ^ 112 + 0x2FFC0 * 2 ^ 128 + 0x80 * 2 ^ 160 + 0xC0 * 2 ^ 192
  lmBytes 0x400 ((List.range 64).map (BitVec.ofNat 8 ·)) (lmBytes 0x2FFE0 (toBytes 32 n) (two 0x2FFE0 (BitVec.ofNat 64 (2 ^ dir))))
/-- R305, R306: the south border is the last row, the east border the last three columns of every row. -/
theorem witness_HaloExchange :
    Quiet (tile 2) ∧ (tile 2).poison = [] ∧ ((tile 2).coreSt 0).outq = [] ∧ firstFlt (haloChecks (lmNumber (tile 2) 0x2FFE0 32) [2]) = none
      ∧ neighbour 0 2 = some 128
      ∧ (after (.halo 6 7) (tile 2)).net.map (fun m => (m.h0, m.h1, m.payload.take 9)) =
        [(0x000CFC00FFF00080#64, 0x80#64, [48, 49, 50, 51, 52, 53, 54, 55, 0])] := by decide
theorem witness_HaloExchange_east :
    firstFlt (haloChecks (lmNumber (tile 1) 0x2FFE0 32) [1]) = none ∧ neighbour 0 1 = some 1
      ∧ (after (.halo 6 7) (tile 1)).net.map (fun m => (m.h0, m.h1, m.payload.take 13)) =
        [(0x000CFF00FFF00001#64, 0xC0#64, [5, 6, 7, 21, 22, 23, 37, 38, 39, 53, 54, 55, 0])] := by decide

/-- Group 255 of a table at LM offset 0x800; the descriptor's N is 2 and its scope that of the form, 5 the widest. -/
def barState (sc : Nat) : State :=
  let s := (two 255 1).modRealm 0 fun r => { r with bart := 0x00FE000000000800 }
  lmBytes (0x800 + 8 * 255) (toBytes 8 (sc + 2 * 2 ^ 8)) s
theorem witness_Barriers :
    (let s := barState 3;
      Quiet s ∧ Calm s ∧ OwnLm s (BitVec.ofNat 64 (s.myRealm.bart.toNat + 8 * 255)) 8 0xFF8 ∧ Unpoisoned s 0xFF8 8 ∧ lmNumber s 0xFF8 8 = 0x203
        ∧ (after (.bar 6 7 3) s).barNet = [{ rid := 0, core := 0, frame := 0, group := 255, scope := 3, desc := 0x203 }]
        ∧ ((after (.elect 5 6 7 3) s).barNet.map (·.elect)) = [some 1])
    ∧ lmNumber (barState 5) 0xFF8 8 = 0x205 ∧ ((after (.bara 5 6 7 5) (barState 5)).barNet.map (·.scope)) = [5]
    ∧ (let s := (two 255 1).modSlot 0 fun x => { x with wait := .barDone 255 9 1 };
      (after (.bar 6 7 3) s).pc = 0x104#64 ∧ (after (.elect 5 6 7 3) s).rx 5 = 1#64)
    ∧ (after (.bara 5 6 7 3) ((two 255 1).modSlot 0 fun x => { x with wait := .answer 9 })).rx 5 = 9#64
    ∧ (after (.bara 5 6 7 3) ((two 255 1).modSlot 0 fun x => { x with wait := .bara 255 })).pc = 0x100#64
    ∧ ((two 255 0xFFFFFFFF).doneTab.get 0xFFFFFFFF#32 255 - 0xFFFFFFFF#32).toNat < 2 ^ 31
    ∧ (after (.barw 6 7 3) (two 255 0xFFFFFFFF)).pc = 0x104#64 ∧ (after (.barw 6 7 3) (two 255 0)).pc = 0x100#64 := by decide
theorem witness_Barriers_events :
    (let m : BarArr := { rid := 0, core := 9, frame := 2, group := 255, scope := 4, elect := some 1 };
     let s (n : Nat) : State := { st with barNet := [m], barInsts := Tab.set [] {} (instKey 0 255 4 9) { count := 1, n := n, episode := 7, rank := 3 } };
      (after .barrierArrival (s 2)).barDones.map (fun d => (d.episode, d.rank)) = [(7#32, 1)] ∧ (after .barrierArrival (s 3)).barDones = []
        ∧ ((after .barrierArrival (s 3)).barInsts.get {} (instKey 0 255 4 9)).count = 2
        ∧ (after .barrierArrival (s 3)).barReps = [{ rid := 0, core := 9, frame := 2, group := 255, episode := 7 }])
    ∧ (let s : State := { st.modSlot 0 fun x => { x with wait := .barReply 255 none } with barReps := [{ rid := 0, core := 0, frame := 0, group := 255, episode := 7 }] };
      (s.slotSt 0).busy = true ∧ (after .barrierReply s).me.wait = .barWait 255 7 none)
    ∧ (let s : State := { st.modSlot 0 fun x => { x with wait := .bara 255 } with barReps := [{ rid := 0, core := 0, frame := 0, group := 255, episode := 7 }] };
      (after .barrierReply s).me.wait = .answer 7)
    ∧ (let d : BarDone := { rid := 0, group := 255, scope := 4, at_ := 9, episode := 0, rank := 1 };
     let s : State := { st.modSlot 0 fun x => { x with wait := .barWait 255 0 none } with barDones := [d] };
      sameInst 4 9 0 = true ∧ (s.doneTab.get 0xFFFFFFFF#32 255 + 1#32) = 0#32 ∧ (after .completionMulticast s).me.wait = .barDone 255 0 1
        ∧ (after .completionMulticast s).doneTab.get 0xFFFFFFFF#32 255 = 0#32)
    ∧ (let s : State := { st with doneFlits := [toBytes 11 (255 + 7 * 2 ^ 8 + 1 * 2 ^ 64)], barInsts := Tab.set [] {} (instKey 0 255 5 0) { sent := true, episode := 7 } };
      (after .barrierDoneFlit s).barDones.map (fun d => (d.group, d.scope, d.episode, d.rank)) = [(255, 5, 7#32, 1)]
        ∧ ((after .barrierDoneFlit s).barInsts.get {} (instKey 0 255 5 0)).episode = 8) := by decide

/-- The first arrival of an episode reads the descriptor of its group from LM; a BARW of an episode that is not over waits. -/
theorem witness_Barriers_first :
    (let m : BarArr := { rid := 0, core := 9, frame := 2, group := 255, scope := 4, elect := some 1 };
     let s : State := { barState 4 with barNet := [m] };
      (s.barInsts.get {} (instKey 0 255 4 9)).count = 0 ∧ (s.realm 0).bart.toNat + 8 * 255 = 0xFE * 2 ^ 48 + 0 * 2 ^ 18 + 0xFF8
        ∧ s.coreExists 0 0 = true ∧ numberAt s (lmAddr 0 0 0xFF8) 8 = 0x204
        ∧ ((after .barrierArrival s).barInsts.get {} (instKey 0 255 4 9)).n = 2 ∧ ((after .barrierArrival s).barInsts.get {} (instKey 0 255 4 9)).count = 1)
    ∧ (let s := two 255 0;
      Calm s ∧ 2 ^ 31 ≤ (s.doneTab.get 0xFFFFFFFF#32 255 - 0#32).toNat ∧ (after (.barw 6 7 3) s).me.wait = .barWait 255 0 none) := by decide
theorem witness_noAck : NoAck st 0 0 ∧ NoLines st st ∧ st.serviceTurn 0 0 = true := by decide

/-! ### The matrix engine and the copy unit -/

/-- The example of R126: a BF16 row (2^24, 1, −2^24, 0) against four ones, rounded once, is 1.0. -/
theorem test_matrix_element :
    mmaElem .f32 (.fin false 0 0) 0x3F800000 0x3F800000 0 [0x80, 0x4B, 0x80, 0x3F, 0x80, 0xCB, 0, 0]
      [0x80, 0x3F, 0x80, 0x3F, 0x80, 0x3F, 0x80, 0x3F] none = 0x3F800000 := by decide

/-- What a matrix command leaves in the queue. -/
def mqAfter (i : Instr) (s : State) : List (MCmd × BitVec 32) := ((after i s).coreSt 0).mq.map fun j => (j.cmd, j.job)
/-- Operands that end at the last byte of LM; 32 rows, all from buffer 1 but RB. -/
theorem witness_Matrix :
    Quiet st ∧ (st.coreSt 0).mq.length < 4 ∧ mqAfter (.zclr 3 2) st = [(.zclr 2 3, 1)] ∧ (after (.zclr 3 2) st).myFrame.mjob = 1#32
      ∧ mqAfter (.zld 1 6 0) (two (lmA 0x2F000) 0) = [(.zld 0 1 0x2F000, 1)]
      ∧ mqAfter (.zst 1 6 7 0 1 3) (two (lmA 0x2FC00) 0) = [(.zst 0 1 0x2FC00 3 0 true 0, 1)]
      ∧ mqAfter (.wldPlain 1 6 7) (two (lmA 0x2C000) (lmA 0x2FC00)) = [(.wld 0 1 0x2C000 0 (some 0x2FC00), 1)]
      ∧ mqAfter (.wldXpb4 1 6 7 0) (two (lmA 0x2FFFF) (lmA 0x2F7FC)) = [(.wld 1 1 0x2FFFF 0x2F7FC none, 1)]
      ∧ mqAfter (.mma 1 6 7 4 0 2) ((two (lmA 0x2C000) 0x2020).wrf 4 0x3F800000) = [(.mma 2 0 1 0x2C000 0x2020 0x3F800000 0 false, 1)]
      ∧ mqAfter (.mmab 1 6 7 4 0 2) ((two (lmA 0x2BE00) 0x2020).wrf 5 0x40000000) = [(.mma 2 0 1 0x2BE00 0x2020 0 0x40000000 true, 1)] := by decide
/-- Job 5 done, and waited for; jobs 5 and 6 aborted. -/
def jobs (issued done : BitVec 32) (aj : Option (BitVec 32)) : State :=
  (two 5 0).modCore 0 fun c => { c with jobs := issued, jdone := done, aj := aj.getD 0, ajSet := aj.isSome }
theorem witness_Matrix_mwait :
    (after (.mwait 6) (jobs 5 5 none)).pc = 0x104#64 ∧ Calm (jobs 5 4 none) ∧ (after (.mwait 6) (jobs 5 4 none)).me.wait = .job 5
      ∧ SingleFault (jobs 6 6 (some 5)) ∧ record (after (.mwait 6) (jobs 6 6 (some 5))) = [(9, 0, 0, 5)] := by decide

/-- Octet position 7's queue holds one command; the octet's engine is free, or runs it. -/
def eng (run : Bool) (j : MJob) : State :=
  (st.modCore 7 fun c => { c with mq := [j] }).modOctet 0 fun o => { o with running := if run then some 7 else none }
/-- A byte of core 7's engine storage after the completion. -/
def engByte (s : State) (o : Nat) : Byte := (after .matrixComplete s).emem.get 0#8 (7 * 65536 + o)
set_option maxRecDepth 100000 in
theorem witness_Matrix_events :
    (coreAtOctetPos 0 7 = 7 ∧ ((after .matrixSelect (eng false { cmd := .zclr 0 1, job := 9 })).octetSt 0).running = some 7)
    ∧ (let s := ({ eng true { cmd := .zclr 0 1, job := 9 } with emem := [(7 * 65536 + 4096, 5), (7 * 65536 + 8191, 6), (7 * 65536 + 8192, 7)] } : State);
      s.poison = [] ∧ s.epoison = [] ∧ engByte s 4096 = 0#8 ∧ engByte s 8191 = 0#8 ∧ engByte s 8192 = 7#8
        ∧ ((after .matrixComplete s).coreSt 7).jdone = 9#32 ∧ ((after .matrixComplete s).octetSt 0).running = none) := by decide
set_option maxRecDepth 100000 in
theorem witness_Matrix_loads :
    (let s := (eng true { cmd := .zld 1 2 0x2F800, job := 9 }).wrLm 0 7 0x2FFFF [8#8];
      engByte s 6143 = 8#8 ∧ engByte s 6142 = 0#8)
    ∧ (let s := eng true { cmd := .wld 0 1 0x2C000 0 none, job := 9 };
      s.poison = [] ∧ s.epoison = [] ∧ (s.octetSt s.octk).running = some 7 ∧ (s.coreSt 7).mq = [{ cmd := .wld 0 1 0x2C000 0 none, job := 9 }])
    ∧ (let s := ({ eng true { cmd := .zst 0 1 0x2F000 0 0 false 0, job := 9 } with emem := [(7 * 65536 + 8190, 0x80), (7 * 65536 + 8191, 0x3F)] } : State);
      s.epoison = [] ∧ ((after .matrixComplete s).coreSt 7).jdone = 9#32) := by decide
theorem witness_Matrix_mma :
    (let s := (eng true { cmd := .mma 0 0 1 0x2FE00 0x101 0x3F800000 0x3F800000 false, job := 9 }).wrLm 0 7 0x2FFFF [8#8];
      ((after .operandsConsumed s).coreSt 7).mq.map (fun j => (j.consumed, j.aBytes.length, j.aBytes[511]?)) = [(true, 512, some 8#8)])
    ∧ (let s := eng true { cmd := .mma 0 0 1 0x2FE00 0x101 0x3F800000 0x3F800000 false, job := 9, consumed := true };
      s.poison = [] ∧ s.epoison = [] ∧ ((after .matrixComplete s).coreSt 7).jdone = 9#32) := by decide

set_option maxRecDepth 100000 in
/-- 1.0 in tile 1 of buffer 0 stored as BF16. -/
theorem witness_Matrix_store :
    (let s := ({ eng true { cmd := .zst 0 1 0x2F800 1 0 false 0, job := 9 } with emem := [(7 * 65536 + 8190, 0x80), (7 * 65536 + 8191, 0x3F)] } : State);
      s.epoison = [] ∧ s.poison = [] ∧ (after .matrixComplete s).rdLmNum 0 7 0x2FFFE 2 = 0x3F80) := by decide

/-- A descriptor that adds 5 to the timeline at offset 0x200 of core 0's LM, one that decrements counter 5 of core 3, and one that advances the
consumer of ring 15 (R296). -/
def timeline : Word := BitVec.ofNat 64 (2 ^ 62 + 5 * 2 ^ 53 + (0xFE * 2 ^ 48 + 0x200) / 8)
def decrement : Word := 0x80000005FFF00003
def advance : Word := BitVec.ofNat 64 (3 * 2 ^ 62 + 2 ^ 4 + 15)
/-- The state with ring 15 of core 7 half full. -/
def withRing (s : State) : State := s.setRing (7 * 16 + 15) { base := 0x40, slotsz := 2, count := 4, fill := 2, free := 2, head := 1, tail := 3 }
theorem witness_descriptors :
    DescCan (withRing st) 7 timeline 0 0x200 ∧ DescCan (withRing st) 7 decrement 0 0x200 ∧ DescCan (withRing st) 7 advance 0 0x200 :=
  ⟨⟨fun _ => by decide, fun h => absurd h (by decide)⟩, ⟨fun h => absurd h (by decide), fun h => absurd h (by decide)⟩,
    ⟨fun h => absurd h (by decide), fun _ => by decide⟩⟩

/-- A chunk of the operands of MMA, read before the end, and its bytes after they have changed in LM (R96); with the descriptors of `j`. -/
def mmaJob (got : List (Nat × List Byte × List Nat)) (o c : Word) (blk : Bool) (consumed : Bool := false) : MJob :=
  { cmd := .mma 0 0 1 0x2BE00 0x101 0x3F800000 0x3F800000 blk, job := 9, odesc := o, cdesc := c, got := got, consumed := consumed }
def chunkState : State := { (eng true (mmaJob [] 0 0 false)).wrLm 0 7 0x2BE00 [8#8] with cur := { idx := 0xAF8, sub := 2 } }
/-- The parts of a job's chunks. -/
def gotOf (j : MJob) : List (Nat × List Byte) := j.got.map fun g => (g.1, g.2.1.take 2)
theorem witness_Matrix_chunks :
    ((after .operandsConsumed chunkState).coreSt 7).mq.map gotOf = [[(0xAF8, [8#8, 0#8])]] ∧ chunkState.poison = [] ∧ chunkState.epoison = []
    ∧ (let s := (eng true (mmaJob [(0xAF8, 9#8 :: List.replicate 63 1#8, [])] 0 0 false)).wrLm 0 7 0x2BE00 [8#8];
      ((after .operandsConsumed s).coreSt 7).mq.map (fun j => (j.aBytes.take 2, j.aBytes.length, gotOf j)) = [([9#8, 1#8], 512, [])]) := by decide
theorem witness_Matrix_blocks :
    (let s := (withRing (eng true (mmaJob [] timeline 0 true))).wrLm 0 7 0x2FE0F [8#8];
      ((after .operandsConsumed s).coreSt 7).mq.map (fun j => (j.aBytes.length, j.aBytes[527]?)) = [(528, some 8#8)]
        ∧ (after .operandsConsumed s).rdLmNum 0 0 0x200 8 = 5)
    ∧ (after .operandsConsumed (withRing (eng true (mmaJob [] decrement 0 false)))).net.map (·.h0) = [0x00040500FFF00003#64]
    ∧ (let t := after .operandsConsumed (withRing (eng true (mmaJob [] advance 0 false)));
      (t.ring (7 * 16 + 15)).fill = 1 ∧ (t.ring (7 * 16 + 15)).head = 2) := by decide
theorem witness_Matrix_descriptors :
    (after .matrixComplete (withRing (eng true { cmd := .zclr 0 1, job := 9, cdesc := timeline }))).rdLmNum 0 0 0x200 8 = 5
    ∧ (after .matrixComplete (withRing (eng true { cmd := .zclr 0 1, job := 9, cdesc := decrement }))).net.map (·.h0) = [0x00040500FFF00003#64]
    ∧ ((after .matrixComplete (withRing (eng true { cmd := .zclr 0 1, job := 9, cdesc := advance }))).ring (7 * 16 + 15)).fill = 1 := by decide

theorem witness_Matrix_blockScaled :
    (let s := eng true { mmaJob [] 0 0 true true with aBytes := List.replicate 528 0x38#8 };
      s.poison = [] ∧ s.epoison = [] ∧ ((after .matrixComplete s).coreSt 7).jdone = 9#32) := by decide
/-- An XPB tile of zeros, which an engine has read: 512 blocks of 21 bytes, their offsets in 33 chunks from LM offset 0x10000 on (R121, R122). -/
def xpbGot : List (Nat × List Byte × List Nat) :=
  (List.range 33).map fun c => (0x400 + c, ((List.range 16).map fun i => toBytes 4 (21 * (16 * c + i))).flatten, [])
/-- The state of that engine. -/
def xpbState : State := eng true { cmd := .wld 1 0 0x100 0x10000 none, job := 9, got := xpbGot }
/-- The byte that the engine finds at an LM offset. -/
abbrev xpbByte (o : Nat) : Byte := match xpbGot.find? (·.1 == o / 64) with
  | some g => g.2.1.getD (o % 64) 0#8
  | none => xpbState.mem.get memDefault (lmAddr 0 7 o)
theorem xpbByte_zero (o : Nat) (h : o < 0x10000) : xpbByte o = 0#8 := by
  have hn : xpbGot.find? (·.1 == o / 64) = none := by
    rw [List.find?_eq_none]
    simp only [xpbGot, List.mem_map, forall_exists_index, and_imp]
    rintro _ c _ rfl
    simp only [beq_iff_eq]
    omega
  simp only [xpbByte, hn]
  rfl
theorem xpb_starts : ∀ i, i < 513 → ofBytes ((List.range 4).map fun x => xpbByte (0x10000 + 4 * i + x)) = 21 * i := by decide +kernel
theorem witness_Matrix_xpb :
    (let bytes (o n : Nat) : List Byte := (List.range n).map fun i => xpbByte (o + i)
      let start (i : Nat) : Nat := ofBytes (bytes (0x10000 + 4 * i) 4)
      let block (i : Nat) : List Byte × Nat := xpbBlock true (bytes (0x100 + start i) 45)
      ∀ i, i < 512 → start i + (block i).2 = start (i + 1) ∧ 0x100 + start i + (block i).2 ≤ 0x30000) := by
  intro bytes start block i hi
  have hs : ∀ i, i < 513 → start i = 21 * i := xpb_starts
  have hb : (block i).2 = 21 := by
    have hz : bytes (0x100 + start i) 45 = List.replicate 45 0#8 := by
      rw [hs i (by omega)]
      refine List.ext_getElem (by simp [bytes]) fun j h1 h2 => ?_
      simp only [List.length_replicate] at h2
      simp only [bytes, List.getElem_map, List.getElem_range, List.getElem_replicate]
      exact xpbByte_zero _ (by omega)
    simp only [block, hz]
    decide
  rw [hb, hs i (by omega), hs (i + 1) (by omega)]
  omega

/-- A descriptor that decrements a counter of a core of this device is captured; FIFO lengths 7 and 8. -/
def fifo (n : Nat) : State := (((two 0 0).wx 8 1).wx 9 7).modCore 0 fun c => { c with fifo := List.replicate n { w0 := 0, w1 := 0, w2 := 0, w3 := 0 } }
theorem witness_CopyUnit :
    Quiet (fifo 7) ∧ (fifo 7).cdescs.get 0#64 0 = 0#64
      ∧ ((after (.qpush 8 6 7 9) (fifo 7)).coreSt 0).fifo.getLast? = some { w0 := 1, w1 := 0, w2 := 0, w3 := 7 }
      ∧ (after (.qtry 8 6 7 9) (fifo 7)).rx 9 = 0#64 ∧ (after (.qtry 8 6 7 9) (fifo 8)).rx 9 = 1#64
      ∧ SingleFault (fifo 0) ∧ record (after (.qtry 8 6 7 9) ((fifo 0).wx 8 4)) = [(2, 0x36, 4, 0)] := by decide
/-- A fill of 16 four-byte elements over the last line of LM. -/
def fill : CopyReq :=
  { w0 := 1, w1 := 0x11223344AABBCCDD, w2 := lmA 0x2FFC0, w3 := 16, lay := some (2#8 :: List.replicate 63 0#8) }
theorem witness_CopyUnit_fill :
    (let s := st.modCore 0 fun c => { c with fifo := [fill] };
      layoutBad fill (layoutOf (2#8 :: List.replicate 63 0#8)) = false ∧ (layoutOf (2#8 :: List.replicate 63 0#8)).esz = 2
        ∧ s.chunksInFlight 0 0 < 64 ∧ (∀ q ∈ List.range 8, q ≠ 0 → (s.coreSt (coreKey 0 (coreAtOctetPos 0 q))).fifo = [])
        ∧ (after .copyTurn s).rdLmNum 0 0 0x2FFF8 8 = 0xAABBCCDDAABBCCDD ∧ ((after .copyTurn s).coreSt 0).fifo.map (·.taken) = [true]) := by decide
theorem witness_CopyUnit_ends :
    (let s := st.modCore 0 fun c => { c with fifo := [{ fill with taken := true }] };
      ((after .copyRequestComplete s).coreSt 0).fifo = [])
    ∧ (let s := st.modCore 0 fun c => { c with fifo := [{ fill with taken := true, desc := 0x80000005FFF00003 }] };
      s.fabid ≠ 0xFFF ∧ (after .copyRequestComplete s).net.map (·.h0) = [0x00040500FFF00003#64])
    ∧ (let s : State := { st.modRealm 0 fun r => { r with kcnt := 1 } with
        net := [{ h0 := 0x000000F9FFF00000, a0 := 0x40, a2 := 0, payload := List.replicate 64 7#8 }] };
      s.farCheck 0 0 (some 0) = 0 ∧ ({ s with keySer := [(0, 1)] } : State).farCheck 0 0 (some 0) = 0 ∧ (after .remoteWritePacket s).mem.get memDefault (devAddr 0 0 0x7F) = 7#8)
    ∧ (let s : State := { st.modCore 0 fun c => { c with fifo := [{ fill with unacked := [(5, 0x40, 0)] }] } with net := [{ h0 := 0x00000000FFF00000, a0 := 5 }] };
      ((after .writeAcknowledgement s).coreSt 0).fifo = [fill]) := by decide
/-- The layout record of two rows of two four-byte elements, 8 bytes apart at the source and 16 at the destination, with table at `tb` (R299). -/
def rows (tb : Word) : List Byte :=
  toBytes 8 (2 + 1 * 2 ^ 10) ++ toBytes 8 8 ++ toBytes 16 0 ++ toBytes 8 16 ++ toBytes 16 0 ++ toBytes 8 tb.toNat
/-- A request of core 0 for those rows: of COPY, of GATHER-ROWS with the list at 0x600, or of SCATTER-ROWS with it. The destination is the last
line of LM, the source lies at 0x500. -/
def rowReq (op : Nat) : CopyReq :=
  { w0 := BitVec.ofNat 64 op, w1 := lmA (if op = 2 then 0x600 else 0x500), w2 := lmA (if op = 3 then 0x600 else 0x2FFC0),
    w3 := BitVec.ofNat 64 (2 + 2 * 2 ^ 24),
    lay := some (rows (if op = 2 then lmA 0x500 else if op = 3 then lmA 0x2FFC0 else 0)) }
/-- Rows 1, 2 and 3, 4 at the source; list entries 1 and none. -/
def rowState (op : Nat) : State :=
  (lmBytes 0x500 ((List.range 4).map fun i => toBytes 4 (i + 1)).flatten (lmBytes 0x600 (toBytes 4 1 ++ toBytes 4 0xFFFFFFFF) st)).modCore 0
    fun c => { c with fifo := [rowReq op] }
/-- The destination after the turn, word by word. -/
def rowsAfter (op : Nat) : List Nat := (List.range 8).map fun i => (after .copyTurn (rowState op)).rdLmNum 0 0 (0x2FFC0 + 4 * i) 4
theorem witness_CopyUnit_rows :
    ∀ op ∈ [0, 2, 3], (
      let s := rowState op; let r := rowReq op;
      let l := layoutOf (rows (if op = 2 then lmA 0x500 else if op = 3 then lmA 0x2FFC0 else 0));
      (s.coreSt 0).fifo = [r] ∧ (s.coreSt 0).engFault = [] ∧ s.poison = [] ∧ layoutBad r l = false ∧ l.ndim = 1 ∧ l.dsw = 0 ∧ l.ssw = 0 ∧ l.esz = 2
        ∧ l.dst[0]? = some 16#64 ∧ l.sst[0]? = some 8#64 ∧ s.chunksInFlight 0 0 < 64 ∧ s.coreExists 0 0 = true) := by decide
theorem witness_CopyUnit_moves :
    rowsAfter 0 = [1, 2, 0, 0, 3, 4, 0, 0] ∧ rowsAfter 2 = [3, 4, 0, 0, 0, 0, 0, 0] ∧ rowsAfter 3 = [0, 0, 0, 0, 1, 2, 0, 0] := by decide

/-- Completion descriptors of every kind (R296), and none where the request was aborted. -/
theorem witness_CopyUnit_descriptors :
    (let s (d : Word) : State := (st.modCore 0 fun c => { c with fifo := [{ fill with taken := true, desc := d }] }).setRing 15
        { base := 0x40, slotsz := 2, count := 4, fill := 2, free := 2, head := 1, tail := 3 };
      (after .copyRequestComplete (s timeline)).rdLmNum 0 0 0x200 8 = 5
        ∧ (after .copyRequestComplete (s decrement)).net.map (·.h0) = [0x00040500FFF00003#64]
        ∧ ((after .copyRequestComplete (s advance)).ring 15).fill = 1)
    ∧ (let s := st.modCore 0 fun c => { c with fifo := [{ fill with taken := true, aborted := true, desc := timeline }], engFault := [(0, 5, 0, 0, 0)] };
      (after .copyRequestComplete s).rdLmNum 0 0 0x200 8 = 0 ∧ ((after .copyRequestComplete s).coreSt 0).fifo = []) := by decide
/-- A packet with two bytes that its request does not place, and an acknowledgement of another device. -/
theorem witness_CopyUnit_packets :
    (let s : State := { st.modRealm 0 fun r => { r with kcnt := 1 } with
        net := [{ h0 := 0x000000F9FFF00000, a0 := 0x40, a2 := 0, payload := List.replicate 64 7#8, holes := [0, 63] }] };
      s.farCheck 0 0 (some 0) = 0 ∧ (after .remoteWritePacket s).mem.get memDefault (devAddr 0 0 0x7F) = 0#8
        ∧ (after .remoteWritePacket s).mem.get memDefault (devAddr 0 0 0x7E) = 7#8)
    ∧ (let s : State := { st.modCore 0 fun c => { c with fifo := [{ fill with unacked := [(5, 0x40, 3)] }] } with
        net := [{ sdev := 2, h0 := 0x00000000FFF00000, a0 := 5 }] };
      ((after .writeAcknowledgement s).coreSt 0).fifo = [{ fill with unacked := [(5, 0x40, 3)] }] ∧ (after .writeAcknowledgement s).net = []) := by
  decide

/-! ### Views and experts -/

/-- The first GiB of the realm is one page of device memory with R, W, M, A and D, through three tables (R61 to R63). -/
def paged (s : State) : State :=
  let pte (s : State) (off : Nat) (w : Nat) : State := s.wrRaw (devAddr 0 0 off) (enumBytes 0 (toBytes 8 w))
  let s := s.modRealm 0 fun r => { r with root := 0x0000000100000001, kcnt := 1 }
  pte (pte (pte s 0x1000 0x0000000200000001) 0x2000 0x0000000300000001) 0x3000 0x36D
/-- A view of a master of 32 FP32 elements at `master`, in one block: its layouts in device memory, its placement map and tags in LM. -/
def vrecord (master : Nat) : Nat :=
  let lm (o : Nat) : List Byte := toBytes 8 (0xFE * 2 ^ 48 + o)
  ofBytes (toBytes 8 master ++ toBytes 8 0x100440 ++ toBytes 8 0x100480 ++ lm 0x4C0 ++ lm 0x4E0 ++ toBytes 8 0 ++ toBytes 8 (5 * 2 ^ 24))
/-- The records: extent 32, and the block's placement at LM offset 0x26F80. -/
def records (s : State) : State :=
  let t := s.wrRaw (devAddr 0 0 0x100400) (enumBytes 0 (toBytes 64 (vrecord 0x40000) ++ [32#8]))
  lmBytes 0x4C0 (toBytes 8 (0xFE * 2 ^ 48 + 0x26F80)) t
/-- Whether a registration is good. -/
def isDone (r : State.Reg) : Bool := match r with
  | .done 0 _ => true
  | _ => false
/-- The bytes that a unit's read gives. -/
def readBytes (r : URead) : List Byte := match r with
  | .ok bs => plain bs
  | _ => []
/-- VWDEF of that record. -/
def vwdefs : State := records (paged (two 0x100400 0))
set_option maxRecDepth 40000 in
theorem witness_Views_vwdef :
    (let s := vwdefs;
      Quiet s ∧ s.me.wait = .none ∧ State.lmWindow (s.rx 6).toNat = false
        ∧ (let reader := (s.release 4).vwdefDie 0 0 (s.rx 6).toNat
          let read := reader.2.unitClean 0 reader.1 (s.rx 6).toNat 64 64
          let made := read.2.registerView 0 reader.1 (vrecord 0x40000) (State.defFix 0)
          readBytes read.1 = toBytes 64 (vrecord 0x40000) ∧ isDone made.1 = true ∧ NoLines s made.2)
        ∧ (after (.vwdef 5 6 7) s).pc = 0x104#64) := by decide

/-- View 0xFFFE of the realm, with a master in LM at 0x26000 and its block as given. -/
def viewed (u v : Word) (b : VBlock) : State :=
  let s := records (two u v)
  let w := viewOf (vrecord (0xFE * 2 ^ 48 + 0x26000)) 32 0
  (s.modView 0xFFFE fun _ => w).modBlock 0xFFFE 0 fun _ => b
theorem witness_Views_drop_publish :
    (let s := viewed 0xFFFE 0 { st := .clean };
      (s.view 0xFFFE).used = true ∧ (s.view 0xFFFE).dropping = false ∧ (s.view 0xFFFE).replica = none ∧ (s.view 0xFFFE).nblk = 1
        ∧ (s.vblock 0xFFFE 0).st ≠ .regen ∧ ((after (.vwdrop 5 6) s).view 0xFFFE).used = false ∧ (after (.vwdrop 5 6) s).rx 5 = 0#64)
    ∧ (let s := (viewed (lmA 0x26000) 0 {}).setMaster 0 (lmA 0x26000).toNat { version := 0xFFFFFFFC };
      s.viewsOf 0 (lmA 0x26000).toNat ≠ [] ∧ (∀ q ∈ s.views, q.2.replica = none) ∧ (after (.vwpub 5 6) s).rx 5 = 0xFFFFFFFD#64)
    ∧ (let s := viewed 0xFFFE 3 {};
      (after (.vwpol 5 6 8 7) (s.wx 8 3)).rx 5 = 0#64 ∧ ((after (.vwpol 5 6 8 7) ((s.wx 8 3).wx 7 0xFFFFFFFF)).view 0xFFFE).cfg.seed = 0xFFFFFFFF
        ∧ ((after (.vwpol 5 6 8 7) ((s.wx 8 2).wx 7 1)).view 0xFFFE).cfg.sr = true
        ∧ ((after (.vwpol 5 6 8 7) ((s.wx 8 0).wx 7 0xFF01)).view 0xFFFE).lagk = 255) := by decide
/-- The block's tag is 9, its stored bytes end at the last byte that VWRD may write. -/
def tagged : State := (lmBytes 0x26FFF [7#8] (lmBytes 0x4E0 [9#8] (viewed 0xFFFE 0x900000000 {}))).wx 8 0x26F80
theorem witness_Views_reads :
    (tagged.view 0xFFFE).stored = 128 ∧ readBytes (tagged.readTag 0xFFFE 0).1 = [9#8, 0, 0, 0]
      ∧ (after (.vwtag 5 6 7) (tagged.wx 7 0)).rx 5 = 9#64 ∧ (after (.vwrd 5 6 7 8) tagged).rx 5 = 9#64
      ∧ (after (.vwrd 5 6 7 8) (tagged.wx 8 0x26E80)).rdLmNum 0 0 0x26EFF 1 = 7
      ∧ ((tagged.flushVops 0 0 0).syncTags 0xFFFE 0xFFFE 9 0 1).2 = some true ∧ (after (.vwsync 6 7) (tagged.wx 7 9)).pc = 0x104#64
      ∧ (after (.vwsync 6 7) (tagged.wx 7 10)).pc = 0x100#64 := by decide
theorem witness_Views_events :
    (let s : State := { lmBytes 0x26000 [0#8, 0, 0x80, 0x3F] (viewed 0 0 { st := .regen }) with cur := { idx := 0xFFFE } };
      (s.regenerate 0xFFFE 0).1 = some none ∧ ((after .blockRegeneration s).vblock 0xFFFE 0).wrote = some none
        ∧ (after .blockRegeneration s).rdLmNum 0 0 0x26F80 4 = 0x3F800000)
    ∧ (let s : State := { viewed 0 0 { st := .regen, wrote := some none, target := 9, cur := 9 } with cur := { idx := 0xFFFE } };
      (∀ q ∈ s.views, q.2.marks = []) ∧ ((after .regenerationComplete s).vblock 0xFFFE 0).st = .clean
        ∧ (after .regenerationComplete s).rdLmNum 0 0 0x4E0 4 = 9) := by decide

set_option maxRecDepth 100000 in
/-- The block of `viewed` when its 32 master elements have been read: the record of lines, the place and the room. -/
theorem witness_Views_content :
    (let s : State := { lmBytes 0x26000 [0#8, 0, 0x80, 0x3F] (viewed 0 0 { st := .regen }) with cur := { idx := 0xFFFE } };
      let v := s.view 0xFFFE;
      let held := s.blockDie 0 v 0
      let r := held.2.readLines 0 held.1 [0xFE * 2 ^ 42 + 0x26000 / 64, 0xFE * 2 ^ 42 + 0x26000 / 64 + 1] [];
      (((v.blockElems 0).map v.elemAddr).flatMap fun a => (List.range 4).map fun i => (a + i) % 2 ^ 64 / 64).eraseDups
          = [0xFE * 2 ^ 42 + 0x26000 / 64, 0xFE * 2 ^ 42 + 0x26000 / 64 + 1]
        ∧ (match r.1 with | .ok (some tab) => tab.all (fun p => !anyMark p.2) && tab.length == 2 | _ => false) = true
        ∧ NoLines s (r.2.blockVa 0 held.1 v 0).2
        ∧ (match (r.2.blockVa 0 held.1 v 0).1 with | .ok (some x) => x == 0xFE * 2 ^ 48 + 0x26F80 | _ => false) = true
        ∧ v.elemArea + v.scaleArea = 128 ∧ r.2.coreExists 0 0 = true
        ∧ (viewBytes v {} ((v.blockElems 0).map fun e => (if e = 0 then 0x3F800000 else 0, e))).take 8 = [0, 0, 0x80, 0x3F, 0, 0, 0, 0]) := by
  decide
set_option maxRecDepth 100000 in
/-- 448 is the largest E4M3 number; the scales of R120 are 2^0 and 1.0, and 127 where every element is zero. -/
theorem witness_Views_bytes :
    (let xs (x : Nat) : List (Nat × Nat) := (List.range 32).map fun i => (x, i);
      let v (sm : Nat) : ViewSt := { vfmt := 3, smode := sm, blog := 5 };
      viewBytes (v 0) {} (xs 0x43E00000) = List.replicate 32 0x7E#8
        ∧ viewBytes (v 1) { scale := 0x40000000 } (xs 0x43E00000) = List.replicate 32 0x76#8
        ∧ viewBytes (v 2) {} (xs 0x43E00000) = List.replicate 32 0x7E#8 ++ [127#8]
        ∧ viewBytes (v 2) {} (xs 0x44600000) = List.replicate 32 0x7E#8 ++ [128#8]
        ∧ viewBytes (v 3) {} (xs 0x44600000) = List.replicate 32 0x7E#8 ++ [0, 0, 0, 0x40]
        ∧ viewBytes (v 2) {} (xs 0) = List.replicate 32 0#8 ++ [127#8] ∧ (viewBytes { v 2 with vfmt := 5 } {} (xs 0x40C00000)).length = 17) := by decide

/-- What the units of these states read lies on this device: no line of another one is awaited (R66). -/
theorem witness_Views_lines :
    (let s := (viewed (lmA 0x26000) 0 {}).setMaster 0 (lmA 0x26000).toNat { version := 0xFFFFFFFC };
      NoLines s ((s.release 4).publish 0 (lmA 0x26000).toNat).2)
    ∧ NoLines tagged (tagged.readTag 0xFFFE 0).2 ∧ NoAck tagged 0 0
    ∧ NoLines tagged ((tagged.flushVops 0 0 0).syncTags 0xFFFE 0xFFFE 9 0 1).1
    ∧ (let u := ((tagged.readTag 0xFFFE 0).2.acquire 4).blockVa 0 0 (tagged.view 0xFFFE) 0;
      (match u.1 with | .ok (some x) => x == 0xFE * 2 ^ 48 + 0x26F80 | _ => false) = true
        ∧ NoLines tagged (u.2.unitRead 0 0 (0xFE * 2 ^ 48 + 0x26F80) 128 1).2) := by decide
theorem witness_Views_eventLines :
    (let s : State := { lmBytes 0x26000 [0#8, 0, 0x80, 0x3F] (viewed 0 0 { st := .regen }) with cur := { idx := 0xFFFE } };
      NoLines s (s.regenerate 0xFFFE 0).2)
    ∧ (let s : State := { viewed 0 0 { st := .regen, wrote := some none, target := 9, cur := 9 } with cur := { idx := 0xFFFE } };
      (s.dieSt 0).xdrop = none
        ∧ NoLines s ((s.modBlock 0xFFFE 0 fun x => { x with st := .clean, again := false, sets := [], wrote := none }).storeTag 0xFFFE 0 9)) := by
  decide

/-- Expert 0xFFFFFE of die 0: capacity 1, one ready slot of candidate 0 with view 0xFFFE at version 9. -/
def entry : Expert :=
  { used := true, cap := 1, win := 4095, winNext := 4095, cth := 4095, plen := 1, ctn := 247, nextx := 0xFFFFFF, v := 9,
    cands := [{ core := 3, ring := 0x26F80 }], slots := [{ st := 2, vid := 0xFFFE }] }
/-- The handle, and the state with the entry. -/
def handle : Word := 0xFFFFFE
def caddy (e : Expert) (v : Word) (s : State := two handle v) : State := s.modExpert (State.expertKey 0 0 0xFFFFFE) fun _ => e
/-- A registration record at 0x500 with one candidate at 0x540, beside the view's records. -/
def registers : State :=
  let n := toBytes 8 0x100400 ++ toBytes 8 (0xFE * 2 ^ 48 + 0x540) ++ toBytes 32 0 ++ toBytes 6 0
    ++ toBytes 10 (4095 * 2 ^ 8 + 4095 * 2 ^ 32 + 1 * 2 ^ 44 + 1 * 2 ^ 53 + 1 * 2 ^ 58)
  lmBytes 0x500 n (lmBytes 0x540 (toBytes 32 (3 + 0x26F80 * 2 ^ 20)) (records (paged (two handle (lmA 0x500)))))
theorem witness_Experts_xreg :
    Quiet registers ∧ registers.me.wait = .none ∧ (0 : Nat) < registers.myRealm.n ∧ ((registers.dieSt 0).creqs = [])
      ∧ ((registers.release 4).registerExpert 0 0 0xFFFFFE (lmA 0x500).toNat).1 = 0
      ∧ NoLines registers ((registers.release 4).registerExpert 0 0 0xFFFFFE (lmA 0x500).toNat).2 ∧ (after (.xreg 5 6 7) registers).rx 5 = 0#64 := by
  decide
theorem witness_Experts_xstat :
    (after (.xstat 5 6 7) (caddy { entry with det := true, load := 3 } 0)).rx 5 = 0x0041000300000009#64 := by decide
theorem witness_Experts_xpol :
    ([(0#64, 4095#64), (1#64, 4095#64), (2#64, 1#64), (3#64, 1#64), (4#64, 0#64), (5#64, 0xFFFFFFFF#64), (6#64, 0xFFFFFF#64)].all fun q =>
        (after (.xpol 5 6 7 8) ((caddy entry q.1).wx 8 q.2)).rx 5 == 0#64) = true := by decide
theorem witness_Experts_window :
    ((after (.xpol 5 6 7 8) ((caddy entry 2).wx 8 1)).expert (State.expertKey 0 0 0xFFFFFE)).winNext = 1 := by decide
theorem witness_Experts_xdrop :
    (let s := caddy { entry with slots := [{ st := 4 }, {}] } 0;
      (s.release 4).views = [] ∧ ((after (.xdrop 5 6) s).expert (State.expertKey 0 0 0xFFFFFE)).used = false) := by decide
/-- XROUTE with the longest payload, which ends below 0x30000, and its route result in the last doubleword; XGRAD, XJOIN, XGATE. -/
theorem witness_Experts_requests :
    (let s := lmBytes 0x2FFFF [7#8] ((two handle 0x0000000500000006).wx 8 (BitVec.ofNat 64 (0x2F040 + 63 * 2 ^ 18 + 0x2FFF8 * 2 ^ 32 + 247 * 2 ^ 50)) |>.wx 5 1);
      (s.coreSt 0).outq = [] ∧ s.poison = []
        ∧ ((after (.xroute 5 6 7 8) s).dieSt 0).creqs.map (fun | .token t o => (t.tid, t.gw, t.data.length, t.roff, t.rctr, o) | _ => (0, 0, 0, 0, 0, 0))
          = [(5, 6, 4032, 0x2FFF8, 247, 0)])
    ∧ ((after (.xgrad 6 7 8) ((two handle 0x40).wx 8 0x0000000900000002)).dieSt 0).creqs = [.part 0xFFFFFE 0 0x40 9 2 0]
    ∧ (let s := (two handle 0xFFFFFFFF).modSlot 0 fun x => { x with wait := .answer 7 };
      (after (.xjoin 5 6 7) s).rx 5 = 7#64)
    ∧ (after (.xgate 5 6 7 3) ((two 255 1).modSlot 0 fun x => { x with wait := .barDone 255 9 1 })).pc = 0x104#64 := by decide
/-- A token of core 5 for the expert. -/
def token : Token := { xid := 0xFFFFFE, tid := 4, gw := 6, krank := 2, user := 1, data := List.replicate 64 8#8, core := 5, roff := 0x2FFF8, rctr := 247 }
/-- The tag of the replica is 9. -/
def replica : State :=
  ((lmBytes 0x4E0 [9#8] (viewed 0 0 {})).modView 0xFFFE fun v => { v with replica := some (0, 0xFFFFFE, 0) })
theorem witness_Experts_tokens :
    (let s := st.modDie 0 fun d => { d with creqs := [.token token 0] };
      (after .tokenDecision s).net.map (fun m => (m.h0, m.h1 &&& 0x3FFFF#64, m.payload)) =
        [(0x0004F700FFF00005#64, 0x2FFF8#64, toBytes 8 (0xFFFFFF * 2 ^ 16 + 1))])
    ∧ (let s := st.modDie 0 fun d => { d with hold := [token] };
      (after .heldTokenRedecision s).net.length = 1 ∧ ((after .heldTokenRedecision s).dieSt 0).hold = [])
    ∧ (let s := caddy entry 0 (replica.modDie 0 fun d => { d with creqs := [.token token 0] });
      (s.replicaTag (State.viewKey 0 0xFFFE) true).1 = 9
        ∧ (after .tokenDecision s).net.map (fun m => (m.h0, m.payload.length, m.payload.take 5)) =
          [(0x0014F700FFF00003#64, 128, [4, 0, 0, 0, 6]), (0x0004F700FFF00005#64, 8, [0, 0, 0xFE, 0xFF, 0xFF])]
        ∧ ((after .tokenDecision s).expert (State.expertKey 0 0 0xFFFFFE)).toks = [(4, 2, 0)]) := by decide
theorem witness_Experts_held :
    (let s := caddy entry 0 (replica.modDie 0 fun d => { d with hold := [token] });
      (s.replicaTag (State.viewKey 0 0xFFFE) true).1 = 9
        ∧ (after .heldTokenRedecision s).net.map (fun m => (m.h0, m.payload.length)) = [(0x0014F700FFF00003#64, 128), (0x0004F700FFF00005#64, 8)]
        ∧ ((after .heldTokenRedecision s).dieSt 0).hold = []) := by decide
/-- XDROP that waits for the drop of views, and the answer that ends it; what the units of these states read lies on this device. -/
theorem witness_Experts_drops :
    (after (.xdrop 5 6) ((two handle 0).modSlot 0 fun x => { x with wait := .unit })).pc = 0x100#64
    ∧ (after (.xdrop 5 6) (((two handle 0).wx 5 7).modSlot 0 fun x => { x with wait := .answer 1 })).rx 5 = 1#64
    ∧ (let s := caddy { entry with slots := [{ st := 4 }, {}] } 0;
      (s.dieSt 0).xdrop = none ∧ NoLines s (((s.release 4).rollWindows 0 0 0xFFFFFE 64).settleSlots 0 0 0xFFFFFE)) := by decide
theorem witness_Experts_lines :
    (let s := caddy { entry with det := true, load := 3 } 0;
      NoLines s ((((s.rollWindows 0 0 0xFFFFFE 64).settleSlots 0 0 0xFFFFFE).statWord 0 0 0xFFFFFE 0).2) ∧ NoAck s 0 0)
    ∧ NoLines replica (replica.replicaTag (State.viewKey 0 0xFFFE) true).2 := by decide
theorem witness_Experts_steps :
    (let s : State := ({ st with cur := { idx := 0xFFFFFE }, clock := 1024 } : State);
      ((after .windowEnd (caddy { entry with slots := [{}], win := 1, winNext := 1, load := 5 } 0 s)).expert (State.expertKey 0 0 0xFFFFFE)).load = 0
        ∧ ((after .versionChange (caddy { entry with vq := [10], closed := true, toks := [(4, 2, 0)], slots := [{}] } 0 s)).expert
            (State.expertKey 0 0 0xFFFFFE)).v = 10)
    ∧ (let s := caddy entry 0 (st.modDie 0 fun d => { d with creqs := [.part 0xFFFFFE 5 0x40 9 2 0] });
      ((after .partialArrival s).expert (State.expertKey 0 0 0xFFFFFE)).parts = [{ va := 0x40, ix := 2 }]) := by decide
/-! ### Trails -/

/-- A Trail of die 0. -/
def trail (q : TrailSt) (s : State) : State := s.modTrail 0 fun _ => q
/-- The word of an F entry of micro-batch 5 for handler 0xEF, with stash slot 255, its input counter 247 and core set 15; SRC and SINK. -/
def entryF : Word := BitVec.ofNat 64 (5 + 0xEF * 2 ^ 10 + 255 * 2 ^ 18 + 247 * 2 ^ 38 + 15 * 2 ^ 46 + 3 * 2 ^ 57)
/-- Core set 15: the one core in row 79, column 127. -/
def setWord : Nat := 2 ^ 21 + 127 * 2 ^ 14 + 2 ^ 7 + 79
/-- A stage record at LM offset 0x500: two entries, 256 stash slots of 64 bytes in near memory, FREE 255. -/
def stageRecord : State :=
  let lm (o : Nat) : List Byte := toBytes 8 (0xFE * 2 ^ 48 + o)
  let rec_ := toBytes 8 0x40000 ++ lm 0x580 ++ lm 0x600 ++ toBytes 8 (64 + 256 * 2 ^ 32 + 2 * 2 ^ 41 + 255 * 2 ^ 48 + 2 ^ 56)
  let set := toBytes 4 setWord ++ (List.replicate 14 (toBytes 4 0)).flatten ++ toBytes 4 setWord
  let ents := (List.replicate 2 (toBytes 8 entryF.toNat ++ toBytes 8 9)).flatten
  lmBytes 0x500 rec_ (lmBytes 0x580 set (lmBytes 0x600 ents (paged (two (lmA 0x500) 0))))
theorem witness_TrailInstructions_stgdef :
    Quiet stageRecord ∧ (stageRecord.dieSt 0).trail.running = false ∧ (stageRecord.rx 6).toNat % 64 = 0
      ∧ ((stageRecord.release 3).defineTrail 0 0 (stageRecord.rx 6).toNat).1 = 0
      ∧ NoLines stageRecord ((stageRecord.release 3).defineTrail 0 0 (stageRecord.rx 6).toNat).2
      ∧ ((after (.stgdef 5 6) stageRecord).dieSt 0).trail.free = 255 := by decide
/-- A Trail with an entry started, running or not. -/
def trailing (run : Bool) (n : Word) (e : Word := entryF) : State :=
  trail { defined := true, running := run, free := 3, pf := 2, nent := 64, nslot := 256, slotb := 64, stash := 0x40000, head := 1,
          entries := List.replicate 64 (e, 9), started := [63], occ := [255], open_ := [(0, 4)], evs := [1, 2, 3], cycs := [4, 5, 6],
          logn := 7, log := [(63, 0x50000000000000006)] } (two n 0)
theorem witness_TrailInstructions :
    (after (.stgdef 5 6) (trailing true (lmA 0x500))).rx 5 = 1#64 ∧ (after (.stggo 5 6) (trailing false 63)).rx 5 = 0#64
      ∧ ((after (.stggo 5 6) (trailing false 63)).dieSt 0).trail.head = 63 ∧ (after (.stggo 5 6) (trailing true 63)).rx 5 = 1#64
      ∧ (after (.stggo 5 6) (trail { defined := true, nent := 63 } (two 63 0))).rx 5 = 2#64
      ∧ (after (.stgstop 5) (trailing true 0)).rx 5 = 65#64 ∧ (after (.stgstash 5 6) (trailing false 255)).rx 5 = 0x43FC0#64
      ∧ (after (.stgbub 5 6) (trailing true 2)).rx 5 = 3#64 ∧ (after (.stgbub 5 6) (trailing true 5)).rx 5 = 6#64
      ∧ (after (.stgbub 5 6) (trailing true 7)).rx 5 = BitVec.ofNat 64 (1 + 2 + 3 * 2 ^ 7 + 2 * 2 ^ 15 + 2 ^ 23 + 64 * 2 ^ 32)
      ∧ (after (.stgbub 5 6) (trailing true 0xBF)).rx 5 = 5#64
      ∧ SingleFault (trailing true 256) ∧ record (after (.stgstash 5 6) (trailing true 256)) = [(2, 0x3C, 256, 1)] := by decide
/-- STGPOST of a whole 64 × 64 bytes at the end of LM, for an F entry that is no last stage, and for a B entry that is no first. -/
theorem witness_TrailInstructions_stgpost :
    (let s := lmBytes 0x2FFFF [7#8] ((trailing true 63 (BitVec.ofNat 64 (5 + 9 * 2 ^ 32))).wx 7 (BitVec.ofNat 64 (0x2F000 + 64 * 2 ^ 18)) |>.wx 8 0x2F000);
      (s.coreSt 0).outq = [] ∧ s.poison = [] ∧ (after (.stgpost 5 6 7 8) s).net.map (·.post) = [some (9, 0, 5, 0)]
        ∧ (after (.stgpost 5 6 7 8) s).net.map (·.payload.length) = [4096] ∧ ((after (.stgpost 5 6 7 8) s).dieSt 0).trail.free = 2)
    ∧ (let s := (trailing true 63 (BitVec.ofNat 64 (5 + 2 ^ 8 + 9 * 2 ^ 26))).wx 7 0 |>.wx 8 0x2FFC0;
      (after (.stgpost 5 6 7 8) s).net.map (·.post) = [some (9, 1, 5, 0)] ∧ ((after (.stgpost 5 6 7 8) s).dieSt 0).trail.free = 3) := by decide
/-- A Trail that the watchdog has stopped starts again at RESUME alone (log 75). -/
theorem witness_TrailInstructions_stopped :
    (let s := trail { defined := true, nent := 64, stopped := true } (two 63 0);
      (after (.stggo 5 6) s).rx 5 = 0#64 ∧ ((after (.stggo 5 6) s).dieSt 0).trail.running = false
        ∧ ((after (.stggo 5 6) s).dieSt 0).trail.again = true) := by decide
theorem witness_TrailEvents :
    (let s := trail { defined := true, running := true, nent := 1, entries := [(0x300, 0)] } st;
      (s.realm 0).state = 1 ∧ ((after .trailEntryStart s).dieSt 0).trail.started = [0] ∧ ((after .trailEntryStart s).dieSt 0).trail.running = false)
    ∧ (let s := (trail { defined := true, running := true, nent := 2, entries := [(entryF, 9), (entryF, 9)], sets := List.replicate 15 0 ++ [setWord] } st).setCounter
        (10239 * 256 + 247) { state := 2, p := 1 };
      mkCore 0 79 127 = 10239 ∧ PortIdle s 10239 ∧ s.freshCount 10239 < 64
        ∧ ((after .trailEntryStart s).coreSt 10239).normal.map (fun | .fresh r => (r.hix, r.x10, r.x11) | _ => (0, 0, 0)) = [(0xEF, 9#64, 0xFF0005#64)]
        ∧ ((after .trailEntryStart s).dieSt 0).trail.occ = [255] ∧ ((after .trailEntryStart s).counter (10239 * 256 + 247)).state = 0#2)
    ∧ (let s := (trail { defined := true, open_ := [(0, 4)], occ := [255] } st).modGroup 0 4 fun g => { g with pos := 0x1FF };
      (s.group 0 4).left = 0 ∧ ((after .trailEntryComplete s).dieSt 0).trail.occ = []) := by decide
/-- A post of micro-batch 5 with four bytes for the last line of LM of the anchor core. -/
def posted (ph : Nat) (e : Word) : State :=
  let m : Msg := { h1 := 0x2FFC0, payload := [1#8, 2#8, 3#8, 4#8], post := some (0, ph, 5, 9), out := some 4 }
  let q : TrailSt := { defined := true, nent := 1, entries := [(e, 0)], sets := List.replicate 15 0 ++ [setWord] }
  (trail q { st with net := [m] }).modCore 0 fun c => { c with outq := [{ id := 4, frame := 0 }] }
theorem witness_TrailEvents_posts :
    (let s := posted 1 (entryF + 0x100#64);
      ((after .trailPostArrival s).dieSt 0).trail.grad = [5] ∧ ((after .trailPostArrival s).coreSt 0).outq = [] ∧ (after .trailPostArrival s).rdLmNum 0 10239 0x2FFC0 4 = 0x04030201)
    ∧ (let s := (posted 0 entryF).setCounter (10239 * 256 + 247) { value := 2 };
      ((s.dieSt 0).trail.receiver 0 5) = some entryF ∧ PortIdle s 10239 ∧ ((after .trailPostArrival s).counter (10239 * 256 + 247)).value = 1)
    ∧ (let s : State := { trail { defined := true, free := 7 } st with slotRets := [(0, 3, 0, 5)] };
      ((after .slotReturn s).dieSt 0).trail.free = 8 ∧ (after .slotReturn s).slotRets = []) := by decide

/-- The anchor core takes a post with a payload in its service slot's turn; a fenced one discards it (R37, R390). -/
theorem witness_TrailEvents_anchors :
    ((posted 0 entryF).serviceTurn 0 10239 = true ∧ PortIdle (posted 0 entryF) 10239)
    ∧ (let s := ((posted 0 entryF).setCounter (10239 * 256 + 247) { value := 2 }).modCore 10239 fun c => { c with fenced := true };
      (after .trailPostArrival s).net = [] ∧ ((after .trailPostArrival s).counter (10239 * 256 + 247)).value = 2
        ∧ (after .trailPostArrival s).rdLmNum 0 10239 0x2FFC0 4 = 0) := by decide

/-! ### The die command processors -/

theorem witness_QueueInstructions :
    (let s := lmBytes 0x2FFFF [7#8] (two 0 (lmA 0x2FFC0));
      (s.rx 6).toNat < s.myRealm.n ∧ OwnLm s (s.rx 7) 64 0x2FFC0 ∧ Unpoisoned s 0x2FFC0 64
        ∧ ((after (.launch 5 6 7) s).dieSt 0).dcq.reqs.map (fun r => (r.core, r.data.length, r.data[63]?)) = [(0, 64, some 7#8)]
        ∧ (after (.launch 5 6 7) s).me.wait = .unit ∧ (after (.launch 5 6 7) (s.modSlot 0 fun x => { x with wait := .answer 1 })).rx 5 = 1#64)
    ∧ (let s := lmBytes 0x2FFF0 (toBytes 8 9 ++ toBytes 8 4) (two (lmA 0x2FFF0) 5);
      OwnLm s (s.rx 6) 16 0x2FFF0 ∧ Unpoisoned s 0x2FFF0 16 ∧ (after (.cqpost 5 6 7) s).rx 5 = 5#64
        ∧ (after (.cqpost 5 6 7) s).rdLmNum 0 0 0x2FFF0 16 = 5 * 2 ^ 64 + 5 ∧ (after (.cqwait 5 6 7) (s.wx 7 4)).rx 5 = 9#64
        ∧ Calm s ∧ (after (.cqwait 5 6 7) s).pc = 0x100#64 ∧ (after (.cqwait 5 6 7) s).watches.length = 1) := by decide

/-- LAUNCH's record on the last line of a page of device memory, and a cell at its end with SEQ 4 and VALUE 9. -/
def devQ (a b : Word) : State := (dev (two a b)).wrLoc 0 (devLoc 0xFF0) [(0, 9), (8, 4), (15, 0)]
set_option maxRecDepth 100000 in
theorem witness_QueueInstructions_device :
    DevMem (devQ 0 0x40FC0) ((devQ 0 0x40FC0).rx 7) 64 false (devLoc 0xFC0)
    ∧ DevBoth (devQ 0x40FF0 4) ((devQ 0x40FF0 4).rx 6) 16 (devLoc 0xFF0)
    ∧ (Quiet (devQ 0 0x40FC0) ∧ Clean (devQ 0 0x40FC0) (devLoc 0xFC0) 64 ∧ locAddr 0 (devLoc 0xFC0) % 64 = 0
      ∧ ((devQ 0 0x40FC0).clusterSt 0).cache = []
      ∧ ((after (.launch 5 6 7) (devQ 0 0x40FC0)).dieSt 0).dcq.reqs.map (fun r => (r.core, r.data.length, r.data[56]?)) = [(0, 64, some 4#8)])
    ∧ Clean (devQ 0x40FF0 4) (devLoc 0xFF0) 16 ∧ (after (.cqpost 5 6 7) (devQ 0x40FF0 4)).rx 5 = 5#64
    ∧ (after (.cqpost 5 6 7) (devQ 0x40FF0 4)).rdByte (devAddr 0 0 0xFF0) 0 = 4#8 ∧ (after (.cqwait 5 6 7) (devQ 0x40FF0 4)).rx 5 = 9#64
    ∧ Calm (devQ 0x40FF0 5) ∧ (after (.cqwait 5 6 7) (devQ 0x40FF0 5)).pc = 0x100#64 :=
  ⟨dev_mem _ _ _ _ _ ⟨by decide, by decide, by decide, by decide⟩ ⟨by decide, by decide, by decide, by decide, by decide⟩,
    ⟨dev_mem _ _ _ _ _ ⟨by decide, by decide, by decide, by decide⟩ ⟨by decide, by decide, by decide, by decide, by decide⟩,
     dev_mem _ _ _ _ _ ⟨by decide, by decide, by decide, by decide⟩ ⟨by decide, by decide, by decide, by decide, by decide⟩⟩,
    by decide, by decide, by decide, by decide, by decide, by decide, by decide⟩

/-- An entry at the head of the queue of die 0. -/
def queued (bs : List Byte) (s : State := st) : State := s.modDcq 0 fun d => { d with cur := some bs, tail := 1 }
/-- The head moves on. -/
abbrev consumed (i : Instr) (s : State) : Prop := ((after i s).dieSt 0).dcq.head = 1 ∧ ((after i s).dieSt 0).dcq.cur = none
/-- A 512-bit entry from its words. -/
def entry8 (w : List Nat) : List Byte := (w.map (toBytes 8)).flatten ++ List.replicate (64 - 8 * w.length) 0#8
theorem witness_QueueCommands :
    ((st.realm 0).state = 1 ∧ (0 : Nat) < (st.realm 0).n ∧ consumed .dcqNop (queued (entry8 [])))
    ∧ (after .dcqReservedCommand (queued (entry8 [8]))).net.map (·.a0) = [0x10183#64]
    ∧ (let e := entry8 [1 + 0xEF * 2 ^ 8 + 3 * 2 ^ 16 + 3 * 2 ^ 19, 79 + 2 ^ 8 + 127 * 2 ^ 16 + 2 ^ 24, 1, 0, 9, 8];
      let s := queued e;
      launchBad (ofBytes e) 1 = none ∧ launchCores (ofBytes e) 1 = [10239] ∧ PortIdle s 10239 ∧ consumed .dcqLaunch s
        ∧ ((after .dcqLaunch s).coreSt 10239).backgr = [.fresh { hix := 0xEF, cls := 3, x10 := 9, x11 := 8, x13 := 1, acq := 4 }])
    ∧ (let s := queued (entry8 [3 + 0xEF * 2 ^ 8 + 3 * 2 ^ 16, 10239, 1, 2, 3, 4]);
      s.coreExists 0 10239 = true ∧ consumed .dcqCollectiveStep s
        ∧ (after .dcqCollectiveStep s).net.map (fun m => (m.h0, m.a3)) = [(0x000700EFFFF027FF#64, 4#64)])
    ∧ (let s := queued (entry8 [7 + 6 * 2 ^ 8]); s.groups = [] ∧ consumed .dcqFence s) := by decide
theorem witness_QueueCommands_tiles :
    (let s := lmBytes 0x2FFF0 (toBytes 8 (0xFFFFFE + 32 * 2 ^ 24)) (caddy entry 0 (queued (entry8 [2 + 9 * 2 ^ 8 + 1 * 2 ^ 16, 0xFE * 2 ^ 48 + 0x2FFF0, 1, 7])
        (replica.modDcq 0 fun d => { d with prog := 1 })));
      readBytes (s.unitClean 0 0 (lmA 0x2FFF0).toNat 16 16).1 = toBytes 16 (0xFFFFFE + 32 * 2 ^ 24)
        ∧ ((s.unitClean 0 0 (lmA 0x2FFF0).toNat 16 16).2.tileCore 0 0xFFFFFE 0).1 = some 3
        ∧ (((s.unitClean 0 0 (lmA 0x2FFF0).toNat 16 16).2.tileCore 0 0xFFFFFE 0).2.dieSt 0).dcq = (s.dieSt 0).dcq
        ∧ ((after .dcqTiles s).coreSt 3).urgent.map (fun | .fresh r => (r.hix, r.x10, r.x11, r.x13, r.grp) | _ => (0, 0, 0, 0, none))
          = [(9, lmA 0x2FFF0, 7#64, 1#64, some 0)]) := by decide
/-- What the processors of these states read lies on this device (R66). -/
theorem witness_QueueCommands_lines :
    NoLines (queued (entry8 [])) (queued (entry8 []))
    ∧ (let s := lmBytes 0x2FFF0 (toBytes 8 (0xFFFFFE + 32 * 2 ^ 24)) (caddy entry 0 (queued (entry8 [2 + 9 * 2 ^ 8 + 1 * 2 ^ 16, 0xFE * 2 ^ 48 + 0x2FFF0, 1, 7])
        (replica.modDcq 0 fun d => { d with prog := 1 })));
      NoLines s ((s.unitClean 0 0 (lmA 0x2FFF0).toNat 16 16).2.tileCore 0 0xFFFFFE 0).2)
    ∧ (let s := lmBytes 0x2FFF0 (toBytes 8 9 ++ toBytes 8 5) (queued (entry8 [5 + 255 * 2 ^ 8, 0xFE * 2 ^ 48 + 0x2FFF0, 5, 0xF, 8]));
      NoLines s (s.unitClean 0 0 (lmA 0x2FFF0).toNat 16 16).2) := by decide
theorem witness_QueueCommands_memory :
    (let s := lmBytes 0x2FFF8 [5#8] (queued (entry8 [4, 0xFE * 2 ^ 48 + 0x2FFF8, 5]));
      readBytes (s.unitClean 0 0 (lmA 0x2FFF8).toNat 8 8).1 = toBytes 8 5 ∧ consumed .dcqWait s)
    ∧ ((after .dcqWait (lmBytes 0x2FFF8 [4#8] (queued (entry8 [4, 0xFE * 2 ^ 48 + 0x2FFF8, 5])))).dieSt 0).dcq.head = 0
    ∧ (let s := lmBytes 0x2FFF0 (toBytes 8 9 ++ toBytes 8 5) (queued (entry8 [5 + 255 * 2 ^ 8, 0xFE * 2 ^ 48 + 0x2FFF0, 5, 0xF, 8]));
      readBytes (s.unitClean 0 0 (lmA 0x2FFF0).toNat 16 16).1 = toBytes 8 9 ++ toBytes 8 5 ∧ consumed .dcqBranch s
        ∧ ((after .dcqBranch s).dieSt 0).dcq.skip = 255)
    ∧ ((after .dcqBranch (lmBytes 0x2FFF0 (toBytes 8 8 ++ toBytes 8 5) (queued (entry8 [5 + 255 * 2 ^ 8, 0xFE * 2 ^ 48 + 0x2FFF0, 5, 0xF, 8])))).dieSt 0).dcq.skip = 0
    ∧ (let s := queued (entry8 [6 + 0x7FF * 2 ^ 16, 0x1000, 5]);
      (s.dieSt 0).dcq.flush = false ∧ s.hostUp = true ∧ s.vecOn 0x7FF = true ∧ ((after .dcqSignal s).dieSt 0).dcq.flush = true ∧ (after .dcqSignal s).hostOut = [.flush]
        ∧ consumed .flushingReadComplete (after .dcqSignal s)
        ∧ (after .flushingReadComplete (after .dcqSignal s)).hostOut = [.flush, .write 0x1000 (toBytes 8 5), .msi 0x7FF]) := by decide
theorem witness_QueueEvents :
    (let s (n : Nat) : State := ((st.modSlot 0 fun x => { x with wait := .unit }).modDcq 0 fun d =>
        { d with tail := n, reqs := [{ core := 0, frame := 0, data := List.replicate 64 7#8 }] }).modRealm 0 fun r =>
          { r with dcqt := [(0, { base := lmA 0x2FFC0 })], hqt := [(0, { base := 0x1000, k := 1 })] };
      (after .dcqReservation (s 1)).me.wait = .answer 1 ∧ (after .dcqReservation (s 0)).me.wait = .answer 0
        ∧ (after .dcqReservation (s 0)).rdLmNum 0 0 0x2FFFF 1 = 7)
    ∧ (let s (v : Nat) : State := ({ st with cur := { inp := { a := 0, b := v } } } : State).modRealm 0 fun r => { r with hqt := [(0, { k := 1 })] };
      ((after .doorbell (s 1)).dieSt 0).dcq.htail = 1 ∧ ((after .doorbell (s 2)).realm 0).dberr = true)
    ∧ (let s : State := (st.modDcq 0 fun d => { d with htail := 0 }).modRealm 0 fun r =>
        { r with dcqt := [(0, { base := lmA 0x2FFC0 })], hqt := [(0, { base := 0x1000, k := 1, head := 1 })] };
      (after .hostQueueFetch s).hostOut = [.read 0x1040 64]
        ∧ (let u : State := { s with hostRds := [{ flush := false, rid := 0, die := 0, at_ := 0 }], cur := { inp := { data := List.replicate 64 7#8 } } };
          (after .hostQueueFetch u).rdLmNum 0 0 0x2FFFF 1 = 7 ∧ (((after .hostQueueFetch u).realm 0).hqt.get {} 0).head = 0))
    ∧ (let s (tlc : Nat) : State := lmBytes 0x2FFF8 [4#8] (st.modGroup 0 0 fun g => { g with closed := true, tlc := tlc });
      (after .commandTlcAdd (s 0)).groups = [] ∧ (after .commandTlcAdd (s (lmA 0x2FFF8).toNat)).rdLmNum 0 0 0x2FFF8 1 = 5) := by decide

/-- The digest that FIPS 180-4 gives for the three letters abc. -/
theorem test_sha256 :
    ofBytes (sha256 [0x61#8, 0x62#8, 0x63#8]).reverse = 0xBA7816BF8F01CFEA414140DE5DAE2223B00361A396177A9CB410FF61F20015AD := by decide +kernel

/-! ### Scale-up links -/

/-- The check value that the IEEE 802.3 polynomial gives for the nine digits. -/
theorem test_crc : crc32 0xFFFFFFFF [0x31#8, 0x32#8, 0x33#8, 0x34#8, 0x35#8, 0x36#8, 0x37#8, 0x38#8, 0x39#8] = 0xCBF43926 := by decide

/-- Port 31 is x, with a flit there; vector 0x7FF. -/
def linked (x : PortSt) (flit : List Byte := []) (inp : Input := {}) : State :=
  let t : State := { st with cur := { die := 31, inp := { inp with data := flit } }, clock := 2 ^ 25 }
  t.modPort 31 fun _ => { x with vec := 0x7FF }
/-- A port that is UP under ESQ. -/
abbrev up : PortSt := { state := 2, esq := true, e := 4095, next := 7 }
/-- A flit of KIND kind with number seq; its data begin with the number a. -/
def flit (kind seq n a : Nat) : List Byte := mkFlit true kind seq n (toBytes 2 a ++ List.replicate 246 0xA5#8)
/-- The port after an event. -/
abbrev port31 (i : Instr) (s : State) : PortSt := (after i s).port 31
/-- KIND and ASEQ of the flits on the wire. -/
def sentKinds (s : State) : List (Nat × Nat × Nat) := s.wire.map fun w => (w.1, ofBytes (w.2.take 4) / 2 ^ 16 % 16, ofBytes ((w.2.drop 4).take 2))

set_option maxRecDepth 200000 in
theorem witness_FlitsAreReceived_done :
    (let s := linked { up with fresh := 62 } (flit 6 4095 248 3);
      (s.port 31).state = 2 ∧ s.cur.inp.data.length = 256 ∧ s.power ≠ 4
        ∧ crc32 0xFFFFFFFF ((flit 6 4095 248 3).take 252) = ofBytes ((flit 6 4095 248 3).drop 252)
        ∧ (after .flitReceive s).doneFlits.map (·.length) = [248] ∧ (port31 .flitReceive s).e = 0 ∧ (port31 .flitReceive s).fresh = 63
        ∧ (after .flitReceive s).wire = []) := by decide
set_option maxRecDepth 200000 in
theorem witness_FlitsAreReceived_bad :
    (let s := linked up ((flit 6 4095 248 3).set 255 0#8);
      crc32 0xFFFFFFFF (s.cur.inp.data.take 252) ≠ ofBytes (s.cur.inp.data.drop 252)
        ∧ (after .flitReceive s).doneFlits = [] ∧ (port31 .flitReceive s).crcerr = 1#64 ∧ (port31 .flitReceive s).nak = some (2 ^ 25)
        ∧ (port31 .flitReceive s).e = 4095 ∧ (after .flitReceive s).wire.map (·.1) = [31]) := by decide
set_option maxRecDepth 200000 in
theorem witness_FlitsAreReceived_ack :
    (let s := linked { up with buf := [(4095, 0, []), (0, 0, []), (1, 0, [])], tries := 3 } (flit 3 7 2 0);
      ((port31 .ackReceive s).buf.map (·.1) = [1] ∧ (port31 .ackReceive s).tries = 0)
        ∧ (s.port 31).buf.findIdx? (fun e => e.1 == 0) = some 1) := by decide
set_option maxRecDepth 200000 in
theorem witness_FlitsAreReceived_nak :
    (let s := linked { up with next := 0, buf := [(4095, 0, [])], await := true } (flit 4 0 2 4095);
      (port31 .nakReceive s).buf = [] ∧ (port31 .nakReceive s).await = false ∧ (after .nakReceive s).wire = [])
    ∧ (let s := linked { up with next := 1, buf := [(0, 248, List.replicate 248 1#8)] } (flit 4 1 2 4095);
      (port31 .nakReceive s).back = 1 ∧ (port31 .nakReceive s).backAt = some 4095 ∧ (after .nakReceive s).wire = []
        ∧ (s.port 31).buf.findIdx? (fun e => e.1 == 0) = some 0
        ∧ (after .nakReceive { linked { up with next := 1, buf := [(0, 248, [])], back := 1, backAt := some 4095 } (flit 4 1 2 4095) with fresh := 1 }).port 31
          = { up with next := 1, buf := [(0, 248, [])], back := 1, backAt := some 4095, nakrx := 1, vec := 0x7FF }) := by decide
theorem witness_FlitsAreReceived_replay :
    (let s := linked { up with next := 1, buf := [(4095, 0, []), (0, 0x1F8, List.replicate 248 1#8)], back := 1, backAt := some 4094 };
      (s.port 31).buf[(s.port 31).buf.length - (s.port 31).back]? = some (0, 0x1F8, List.replicate 248 1#8)
        ∧ (s.sendFlit 31).wire.map (fun w => (w.1, w.2.length, w.2.take 4)) = [(31, 256, [0#8, 0xF8#8, 1#8, 0#8])]
        ∧ ((s.sendFlit 31).port 31).replays = 1#64 ∧ ((s.sendFlit 31).port 31).back = 0) := by decide

theorem witness_LinkEvents_timers :
    (port31 .ackTimer (linked { up with fresh := 1, ackAt := 2 ^ 25 })).fresh = 0
    ∧ ((linked { up with fresh := 1, ackAt := 2 ^ 25 - 256 }).linkTime 1).wire.map (fun w => (w.1, w.2.length)) = [(31, 256)]
    ∧ ((linked { up with fresh := 1, ackAt := 2 ^ 25 - 255 }).linkTime 1).wire = []
    ∧ (port31 .nakResendTimeout (linked { up with nak := some (2 ^ 25 - 4096) })).naktx = 1#64
    ∧ (port31 .nakResendTimeout (linked { up with nak := some (2 ^ 25 - 4095) })).naktx = 0#64 := by decide
theorem witness_LinkEvents_replay :
    (let x : PortSt := { up with buf := [(4095, 248, List.replicate 248 1#8)], since := 2 ^ 25 - 8192, triesAt := 4095 };
      (port31 .replayTimeout (linked x)).back = 1 ∧ (port31 .replayTimeout (linked { x with since := 2 ^ 25 - 8191 })).back = 0
        ∧ (port31 .replayTimeout (linked { x with tries := 8 })).state = 1
        ∧ (after .replayTimeout (linked { x with tries := 8 })).hostOut = [.msi 0x7FF]) := by decide
theorem witness_LinkEvents_states :
    (linked up).power ≠ 4 ∧ (port31 .laneFailure (linked up)).state = 1 ∧ (after .laneFailure (linked up)).hostOut = [.msi 0x7FF]
    ∧ (port31 .retrain (linked up [] { a := 1 + 2 ^ 16 })).asked = true ∧ (after .retrain (linked up [] { a := 1 + 2 ^ 16 })).hostOut = [.msi 1]
    ∧ (port31 .hold (linked up [] { a := 2 })).state = 0 ∧ (port31 .hold (linked up [] { a := 2 })).hold = true
    ∧ (port31 .trainingRetry (linked { state := 0, at_ := 2 ^ 24 })).state = 1
    ∧ (port31 .trainingRetry (linked { state := 0, at_ := 2 ^ 24 + 1 })).state = 0 := by decide
set_option maxRecDepth 200000 in
/-- A flit that fails its CRC in the cycle in which the retraining begins (R409). -/
theorem witness_LinkEvents_coinciding :
    (let s := linked up ((flit 6 4095 248 3).set 255 0#8);
      (s.port 31).nak = none ∧ s.cur.inp.data.length = 256 ∧ crc32 0xFFFFFFFF (s.cur.inp.data.take 252) ≠ ofBytes (s.cur.inp.data.drop 252)
        ∧ (port31 .laneFailure s).crcerr = 1#64 ∧ (port31 .laneFailure s).nak = some (2 ^ 25) ∧ (after .laneFailure s).wire = []) := by decide
/-- A DOWN end takes part in its partner's training unless HOLD keeps it down; PCTL in a training; the mode of a port that was never UP. -/
theorem witness_LinkEvents_down :
    (let x : PortSt := { state := 0, at_ := 2 ^ 25 };
      (port31 .laneFailure (linked x [] { b := 1 })).state = 1 ∧ (port31 .laneFailure (linked x [] { b := 1 })).asked = true
        ∧ (port31 .laneFailure (linked x [] { b := 1 })).wasDown = true
        ∧ port31 .laneFailure (linked { x with hold := true } [] { b := 1 }) = { x with hold := true, vec := 0x7FF })
    ∧ (let x : PortSt := { state := 1, wasDown := true, at_ := 2 ^ 25 };
      (port31 .retrain (linked x [] { a := 1 })).asked = true ∧ (port31 .retrain (linked x [] { a := 1 })).state = 1
        ∧ (port31 .hold (linked x [] { a := 2 })).state = 0 ∧ (port31 .hold (linked x [] { a := 2 })).retrains = 1)
    ∧ (let x : PortSt := { state := 1, wasDown := false };
      (port31 .retrainingEnd (linked x [] { b := 1, c := 1 })).esq = true ∧ (port31 .retrainingEnd (linked x [] { b := 1, c := 0 })).esq = false
        ∧ (port31 .retrainingEnd (linked { x with esq := true, wasUp := true } [] { b := 1, c := 0 })).esq = true) := by decide
theorem witness_LinkEvents_widths :
    (let x : PortSt := { up with state := 1, wasDown := false };
      ((port31 .retrainingEnd (linked { x with lanes := 1 } [] { a := 0xFF00, b := 1 })).state = 2
        ∧ (port31 .retrainingEnd (linked { x with lanes := 1 } [] { a := 0xFF00, b := 1 })).lanes = 1)
      ∧ (port31 .retrainingEnd (linked x [] { a := 0xFF, b := 1 })).lanes = 2
      ∧ (port31 .retrainingEnd (linked { x with lanes := 6 } [] { a := 0xFFFF, b := 1 })).state = 0) := by decide
theorem witness_LinkEvents_errors :
    (∃ r, st.realms = [(0, r)] ∧ r.state = 1) ∧ ((after .fabricHopFailure st).realm 0).reason = 0xE1
    ∧ (after .correctedError (linked {})).corrected.get 0 31 = 1
    ∧ (let s : State := { st with cur := { inp := { a := 0x2FFFF } } };
      s.coreExists 0 0 = true ∧ (after .uncorrectableError s).poison = [(lmAddr 0 0 0x2FFF8 / 8, true)]) := by
  exact ⟨⟨_, rfl, rfl⟩, by decide, by decide, by decide⟩

/-! ### Realms -/

/-- Realm 63 with registers r, and an RCMD value that names vector 0x7FF. -/
def commanded (r : RealmSt) (cmd : Nat) (inp : Input := {}) : State :=
  let t : State := { st with cur := { rid := 63, inp := { inp with a := cmd + 0x7FF * 2 ^ 16 } } }
  t.modRealm 63 fun _ => r
/-- Registers that CREATE accepts: one die, key ids 254 and 255. -/
abbrev regs : RealmSt := { n := 1, dmap := [63], kbase := 254, kcnt := 2, root := 1#64, trapc := 5 }
/-- State and error of realm 63. -/
abbrev rstate (i : Instr) (s : State) : Nat × Nat := (((after i s).realm 63).state, ((after i s).realm 63).err)

theorem witness_RealmCommands_create :
    (let s := commanded regs 1; s.regsValid 63 = true ∧ s.dieTaken 63 = false ∧ wdBad (s.realm 63).wdogcfg = false
      ∧ rstate .create s = (1, 0) ∧ (after .create s).hostOut = [.msi 0x7FF] ∧ (after .create s).keySer.get 0 255 = 2)
    ∧ rstate .create (commanded { regs with n := 65 } 1) = (0, 2) ∧ rstate .create (commanded { regs with dmap := [0] } 1) = (0, 3)
    ∧ rstate .create (commanded { regs with wdogcfg := 1#64 } 1) = (0, 4) := by decide
theorem witness_RealmCommands_halt :
    rstate .halt (commanded { regs with state := 1 } 2) = (2, 0) ∧ (after .halt (commanded { regs with state := 1 } 2)).hostOut = []
    ∧ rstate .save (commanded { regs with state := 3, torn := true } 3) = (3, 0x23)
    ∧ rstate .save (commanded { regs with state := 3 } 3 { c := 1 }) = (3, 0x17)
    ∧ rstate .resume (commanded { regs with state := 3, fenced := true } 5) = (3, 0x23)
    ∧ rstate .resume (commanded { regs with state := 3, wdogcfg := 1#64 } 5) = (3, 4)
    ∧ rstate .resume (commanded { regs with state := 3 } 5) = (1, 0)
    ∧ rstate .destroy (commanded { regs with state := 3 } 6) = (0, 0) ∧ rstate .destroy (commanded { regs with state := 1 } 6) = (0, 0)
    ∧ rstate .realmCommandInvalid (commanded { regs with state := 2 } 6) = (2, 1)
    ∧ rstate .realmCommandInvalid (commanded { regs with state := 3 } 7) = (3, 1) := by decide
/-- RESUME of a realm with one evicted task, of class 1. -/
theorem witness_RealmCommands_resume :
    (let s : State := { commanded { regs with state := 3 } 5 with frames := [(unitKey 63 10239 15, { used := true, evicted := true, cls := 1 })] };
      unitKey 63 10239 15 / 2 ^ 24 = 63 ∧ ((after .resume s).frameSt (unitKey 63 10239 15)).ready = true
        ∧ ((after .resume s).coreSt (coreKey 63 10239)).urgent = [.resumed 15 0]) := by decide

/-- An image that passes every check of a module of stepping 0 on a realm of one die. -/
def goodImage : Image :=
  let img : Image := { magic := 0x01524D49, version := 1, n := 1, regs := { n := 1, kbase := 254, kcnt := 2, trapc := 9 } }
  { img with digest := imageDigest img }
/-- Its header bytes say what it says. -/
theorem goodImage_head : goodImage.withHead goodImage.head = goodImage := rfl
theorem goodImage_passes : imageBad 1 0 0 goodImage = none := by decide +kernel
theorem witness_RealmCommands_restore :
    (let s := commanded regs 4 { img := some goodImage, data := goodImage.head };
      (s.realm 63).state = 0 ∧ s.power ≠ 4 ∧ s.hopDown = false ∧ s.dieTaken 63 = false ∧ s.cur.inp.img = some goodImage ∧ s.cur.inp.c = 0
        ∧ s.keyTaken 63 (goodImage.withHead s.cur.inp.data).regs.kbase (goodImage.withHead s.cur.inp.data).regs.kcnt = false
        ∧ imageBad (s.realm 63).n s.mstep 0 (goodImage.withHead s.cur.inp.data) = none) :=
  ⟨by decide, by decide, by decide, by decide, rfl, rfl, by decide, by
    rw [show (commanded regs 4 { img := some goodImage, data := goodImage.head }).cur.inp.data = goodImage.head from rfl, goodImage_head]
    exact goodImage_passes⟩
theorem witness_RealmCommands_restore_bad :
    (let s := commanded regs 4 { img := some {}, data := [1#8] };
      imageBad (s.realm 63).n s.mstep 0 (({} : Image).withHead [1#8]) = some 0x10 ∧ rstate .restore s = (0, 0x10)) := by decide
/-- After a failed hop (R404). -/
theorem witness_RealmCommands_hop :
    rstate .create { commanded regs 1 with hopDown := true } = (0, 1)
    ∧ rstate .resume { commanded { regs with state := 3 } 5 with hopDown := true } = (3, 1)
    ∧ rstate .restore { commanded regs 4 with hopDown := true } = (0, 1) := by decide
/-- A scatter list covers at least as many bytes as it has extents, here of 2^64 − 1 pages each. -/
theorem covered_ge (m : Nat) : m ≤ covered (extentsOf (List.replicate (16 * m) 0xFF#8)) := by
  have sum : ∀ (n a c : Nat), (List.replicate n c).foldl (· + ·) a = a + n * c := by
    intro n
    induction n with
    | zero => intro a c; simp
    | succ n ih => intro a c; rw [List.replicate_succ, List.foldl_cons, ih, Nat.succ_mul]; omega
  have ext : extentsOf (List.replicate (16 * m) 0xFF#8) = List.replicate m (2 ^ 64 - 1, 2 ^ 64 - 1) := by
    unfold extentsOf
    rw [List.length_replicate, Nat.mul_div_cancel_left m (by decide)]
    refine List.ext_getElem (by simp) fun i h1 h2 => ?_
    simp only [List.length_map, List.length_range] at h1
    simp only [List.getElem_map, List.getElem_range, List.drop_replicate, List.take_replicate, List.getElem_replicate]
    rw [Nat.min_eq_left (by omega), Nat.min_eq_left (by omega)]
    decide
  unfold covered
  rw [ext, List.map_replicate, sum]
  omega
/-- An image does not depend on the turn. -/
theorem imageOf_cur (s : State) (c : Turn) (rid : Nat) : ({ s with cur := c } : State).imageOf rid = s.imageOf rid := rfl
theorem imageSize_le (u : State) (v : Nat) (hv : (u.imageOf 63).size = v) :
    (({ u with cur := { rid := 63, inp := { data := List.replicate (16 * v) 0xFF#8 } } } : State).imageOf 63).size
      ≤ covered (extentsOf (List.replicate (16 * v) 0xFF#8)) := by
  rw [imageOf_cur, hv]
  exact covered_ge v
theorem savable (u : State)
    (h : u.hostUp = true ∧ (u.realm 63).state = 3 ∧ (u.realm 63).torn = false ∧ (u.realm 63).fenced = false ∧ u.power = 0) :
    ∃ s : State, s.hostUp = true ∧ s.cur.rid = 63 ∧ (s.realm 63).state = 3 ∧ (s.realm 63).torn = false
      ∧ (s.realm 63).fenced = false ∧ s.cur.inp.c = 0 ∧ (s.imageOf 63).size ≤ covered (extentsOf s.cur.inp.data) ∧ s.power = 0 := by
  obtain ⟨h1, h2, h3, h4, h5⟩ := h
  exact ⟨{ u with cur := { rid := 63, inp := { data := List.replicate (16 * (u.imageOf 63).size) 0xFF#8 } } },
    h1, rfl, h2, h3, h4, rfl, imageSize_le u _ rfl, h5⟩
/-- A scatter list that covers the image of a realm. -/
theorem witness_RealmCommands_save :
    ∃ s : State, s.hostUp = true ∧ s.cur.rid = 63 ∧ (s.realm 63).state = 3 ∧ (s.realm 63).torn = false
      ∧ (s.realm 63).fenced = false ∧ s.cur.inp.c = 0 ∧ (s.imageOf 63).size ≤ covered (extentsOf s.cur.inp.data) ∧ s.power = 0 :=
  savable (commanded { regs with state := 3 } 3) (by decide)

theorem witness_RealmCommandsEnd :
    (let s := commanded { regs with state := 2, reason := 0xE1, devHalt := true, vecUp := 3 } 0;
      s.haltDone 63 = true ∧ rstate .haltComplete s = (3, 0xE1) ∧ (after .haltComplete s).hostOut = [.msi 3])
    ∧ (let s : State := { commanded { regs with state := 2, wdogOn := 0x0000010000000000#64 } 0 with clock := 65536 };
      rstate .haltLimit s = (3, 0x20) ∧ ((after .haltLimit s).realm 63).torn = true ∧ rstate .haltLimit { s with clock := 65535 } = (2, 0))
    ∧ rstate .saveComplete (commanded { regs with state := 4 } 0 { c := 1 }) = (3, 0x17)
    ∧ rstate .restoreComplete (commanded { regs with state := 5 } 0) = (3, 0)
    ∧ rstate .restoreComplete (commanded { regs with state := 5 } 0 { c := 1 }) = (0, 0x17)
    ∧ rstate .restoreLimit { commanded { regs with state := 5 } 0 with clock := 2 ^ 30 } = (0, 0x22)
    ∧ rstate .restoreLimit { commanded { regs with state := 5 } 0 with clock := 2 ^ 30 - 1 } = (5, 0) := by decide
theorem witness_RealmCommandsEnd_save :
    (let s := commanded { regs with state := 4 } 0; (s.realm 63).state = 4 ∧ s.cur.inp.c = 0 ∧ s.cutDies = [])
    ∧ rstate .saveComplete { commanded { regs with state := 4 } 0 with cutDies := [63] } = (3, 0x17)
    ∧ scatter [(0x1000, 1)] [5#8, 6#8] = [.write 0x1000 [5, 6]]
    ∧ (let s : State := { commanded { regs with state := 4, wdogOn := 0x0000010000000000#64 } 0 with clock := 65536 };
      (s.realm 63).wdogOn.extractLsb' 40 12 ≠ 0#12 ∧ (s.realm 63).cmdAt + 65536 ≤ s.clock) := by decide
theorem witness_RealmCommandsEnd_invalidations :
    (let s := commanded { regs with state := 1, invva := 0x40000001#64 } 0;
      ((after .invctlStart s).realm 63).inving = true ∧ ((after .invctlStart s).realm 63).invAt = 0x40000001#64)
    ∧ (let s : State := { commanded { regs with state := 1, inving := true, invAt := 0x40010001#64 } 0 with
        clusters := [(63 * 64 * 320, { tlb := [{ base := 0x40010000, size := 65536, leaf := 1#64, pte := 0 },
                                               { base := 0x40020000, size := 65536, leaf := 1#64, pte := 8 }] })] };
      s.pageBusy 63 (invPage 0x40010001#64).1 (invPage 0x40010001#64).2 = false ∧ ((after .invalidationEnd s).realm 63).inving = false
        ∧ ((after .invalidationEnd s).clusterSt (63 * 64 * 320)).tlb.map (·.base) = [0x40020000])
    ∧ (let s := commanded { regs with state := 1, tlbinving := true } 0;
      ((after .invalidationEnd { s with cur := { rid := 63, sub := 1 } }).realm 63).tlbinving = false) := by decide

/-! ### The host port -/

/-- The host writes 8 bytes at an offset of BAR0; realm 63 is as given. -/
def written (o : Nat) (r : RealmSt := {}) : State :=
  let t : State := { st with cur := { rid := 63, inp := { a := o, data := toBytes 8 0x8877665544332211 } } }
  t.modRealm 63 fun _ => r
theorem witness_HostPort_registers :
    ((after .registerWrite (written 0x4F0018)).realm 63).root = 0x8877665544332211#64
    ∧ ((after .registerWrite (written 0x4F0020)).realm 63).kcnt = 0x22 ∧ ((after .registerWrite (written 0x4F0010)).realm 63).n = 0x8877665544332211
    ∧ ((after .registerWrite (written 0x4F0010 { state := 1, n := 4 })).realm 63).n = 4
    ∧ ((after .registerWrite (written 0x4F0050 { state := 1 })).realm 63).wbase = 0x8877665540012201#64
    ∧ ((after .registerWrite (written 0x107D0)).port 31).crcerr = 0x8877665544332211#64
    ∧ (after .ltolWrite { st with cur := { inp := { b := 41 } }, power := 2 }).ltol = 41 := by decide
/-- The last eight bytes of a line of die 0's first near memory, through the aperture of realm 0 in physical mode. -/
def aperture (n : Nat) (bs : List Byte) : State :=
  let t : State := { st with cur := { inp := { a := 56, b := n, data := bs } } }
  t.modRealm 0 fun r => { r with wbase := 0x10001#64 }
theorem witness_HostPort_aperture :
    (let s := aperture 8 []; s.physBad 0 (s.realm 0).wbase 56 = none ∧ s.poison = []
      ∧ (after .apertureAccess s).hostOut = [.reply (List.replicate 8 0#8) false false])
    ∧ (after .apertureAccess (aperture 0 [1#8, 2#8, 3#8, 4#8, 5#8, 6#8, 7#8, 8#8])).mem.get memDefault (devAddr 0 0 63) = 8#8 := by decide
/-- A host access waits while a host write is on its way to another device (R90). -/
theorem witness_HostPort_waits :
    (let s : State := { aperture 8 [] with farQ := [{ rid := 0, core := 0, id := 0, loc := .dev 0 0 0 0 false, va := 0, size := 8, op := .load, unit := some 6 }] };
      (¬ ∀ x ∈ s.farQ, x.unit ≠ some 6) ∧ (after .apertureAccess s).hostOut = [])
    ∧ ∀ x ∈ (aperture 8 []).farQ, x.unit ≠ some 6 := by decide
theorem witness_HostPort_power :
    (∀ q ∈ [(200000, 4), (199999, 3), (2000, 3), (1999, 2), (40, 2), (39, 1), (2, 1)],
      let s : State := { ltol := q.1 };
      s.idle = true ∧ (after .idlePowerEntry s).power = q.2)
    ∧ (after .wakeEvent { power := 3 }).power = 0
    ∧ (let s : State := { power := 4, ports := [(0, up)], firm := [1], firmNext := some [2] };
      (after .wakeEvent s).power = 0 ∧ (after .wakeEvent s).ports = [] ∧ (after .wakeEvent s).firm = [2]) := by decide
/-- Host reads of registers: LTOL, and TRAPC of realm 63. -/
theorem witness_HostPort_reads :
    (let s (o : Nat) : State := { written o { trapc := 5 } with ltol := 41, cur := { rid := 63, sub := 1, inp := { a := o, b := 8 } } };
      (after .wakeEvent (s 0x100)).hostOut = [.reply (toBytes 8 41) false false]
        ∧ (after .wakeEvent (s 0x4F0028)).hostOut = [.reply (toBytes 8 5) false false]) := by decide
theorem witness_HostPort_link :
    ((after .hostLinkDown st).hostUp = false ∧ (after .hostLinkDown st).hldown = 1#64)
    ∧ (let s : State := { st with hostUp := false, hostHeld := [.flush], pend := [5] };
      (after .hostLinkRestored s).hostOut = [.flush, .msi 5] ∧ (after .hostLinkRestored s).hostUp = true)
    ∧ (let s (b : Bool) : State := { st with hostRds := [{ flush := true, rid := 0, die := 0, at_ := 0, again := b }], clock := 80000000 };
      (after .hostReadTimeout (s false)).hostOut = [.flush] ∧ (after .hostReadTimeout (s true)).hostUp = false
        ∧ (after .hostReadTimeout { s false with clock := 79999999 }).hostOut = []) := by decide
theorem witness_HostPort_management :
    (let s (a : Nat) : State := { st with cur := { inp := { a := a, b := 7 } }, hldown := 3#64, power := 2 };
      (after .mgmtRequest (s 0)).hostOut = [.mgmt (toBytes 8 3)] ∧ (after .mgmtRequest (s 8)).hostOut = [.mgmt (toBytes 8 2)]
        ∧ (after .mgmtRequest (s 10)).ltol = 7 ∧ (after .mgmtRequest (s 10)).power = 0)
    ∧ (after .moduleReset { st with mem := [(0, 5#8), (lmFirst 0, 6#8)], firmNext := some [1#8] }).firm = [1#8]
    ∧ (after .moduleReset { st with mem := [(0, 5#8), (lmFirst 0, 6#8)] }).mem = [(0, 5#8)] := by decide

/-! ### The watchdog -/

/-- Die 0 of realm 0 under a watchdog: WIN 1, T1 1, T2 1. -/
def dog (d : DieSt) (clock : Nat := 0) (ronly : Bool := false) : State :=
  let t : State := { st with clock := clock }
  let t := t.modRealm 0 fun r => { r with wdogOn := if ronly then 0x0010000010010001#64 else 0x10010001#64 }
  t.modDie 0 fun _ => d
theorem witness_Watchdog_preempt :
    (let s := dog { stall := 1024 };
      (s.realm 0).state = 1 ∧ (after .wdogStallLimit s).net.map (·.a0.toNat % 2 ^ 16) = [0x140]
        ∧ ((after .wdogStallLimit s).dieSt 0).wstage = 1 ∧ ((after .wdogStallLimit (dog { stall := 1023 })).dieSt 0).wstage = 0)
    ∧ (let s : State := { dog { stall := 1024 } with slots := [(0, { st.me with wait := .ring 0 false 1 })] };
      s.me.busy = true ∧ ((after .wdogStallLimit s).slotSt 0).busy = false ∧ ((after .wdogStallLimit s).frameSt 0).evicted = true) := by decide
theorem witness_Watchdog_kill :
    ((after .wdogT1Expiry (dog { wstage := 1 } 1024 true)).dieSt 0).wstage = 0
    ∧ ((after .wdogT1Expiry (dog { wstage := 1 } 1023 true)).dieSt 0).wstage = 1
    ∧ (let s : State := { dog { wstage := 1 } 1024 with frames := [] };
      (s.dieSt 0).kills = [] ∧ ((after .wdogT1Expiry s).dieSt 0).dcq.stopped = true
        ∧ (after .wdogT1Expiry s).net.map (·.a0.toNat % 256) = [0x42])
    ∧ ((after .wdogKillsComplete (dog { wstage := 2, stall := 9 })).dieSt 0).stall = 0
    ∧ (let s := dog { wstage := 2, kills := [(0, 0)] };
      s.canReleaseBy 0 0 0 4 = true ∧ ((after .wdogKillsComplete s).dieSt 0).kills = [] ∧ ((after .wdogKillsComplete s).frameSt 0).used = false)
    ∧ (let s := dog { wstage := 2, kills := [(0, 0)] } 1024;
      ((after .wdogT2Expiry s).coreSt 0).fenced = true ∧ ((after .wdogT2Expiry s).realm 0).reason = 0xF0) := by decide

/-! ### The whole machine -/

theorem witness_EncodedInstructionsDecode :
    (Instr.addi 31 31 0x7FFF).wellFormed = true ∧ (Instr.addi 31 31 0x7FFF).form ≠ .unit
      ∧ decode (encode (.addi 31 31 0x7FFF) ++ [0xFFFF#16]) = .ok (.addi 31 31 0x7FFF, [0xFFFF#16]) := ⟨by decide, by decide, rfl⟩
theorem witness_DecodedWordsAreTheEncoded : decode [0x6283#16, 0xFFFA#16, 5#16] = .ok (.addi 5 6 0x7FFD, [5#16]) := rfl
/-- A turn of slot 0 with ADDI at its program counter: what the turn reads does not depend on how much time passes. -/
theorem witness_StepRunsTheDecodedInstruction :
    (let s : State := { lmBytes 0x100 (toBytes 4 0xFFFA6283) st with sched := [{ rid := 0, core := 0, slot := 0 }] };
      s.cur.ev = none ∧ s.me.busy = true ∧ s.myRealm.state = 1 ∧ (s.coreSt s.ck).fenced = false ∧ (s.dieSt s.dk).kills = [] ∧ s.inTurn = true
        ∧ s.me.wait = .none ∧ s.cur.sub ≠ 1 ∧ s.cur.sub ≠ 2
        ∧ s.pc.toNat + 4 ≤ 0x30000 ∧ (decode (s.halvesAt 0 0 0x100)).toOption = some (.addi 5 6 0x7FFD, []) ∧ s.me.safecnt < 4095) := by decide
theorem witness_StepRunsTheDecodedInstruction_unit :
    ∃ s : State, s.takeTurn.cur.ev = some .wakeEvent := ⟨{ sched := [{ ev := some .wakeEvent }] }, rfl⟩
theorem witness_StepsKeepMemory : Memory.wf st.mem = true ∧ Memory.wf (lmBytes 0 [1#8] st).mem = true := by decide

end Sys2Proof.Tests
end

section
/-! Remote LM accesses and their replies, and the drain of a combining buffer to its home (R53, R67, R71, R82, R88, R247): first the
frames and the reads of the shared operations, then one lemma per event, then the obligation. -/

namespace Sys2Proof.Machine

/-! ### Bytes laid over others (R82) -/

/-- An overlay keeps the length. -/
theorem length_overlay (fwd : List (Nat × Byte)) (o i : Nat) (bs : List Byte) : (overlay fwd o i bs).length = bs.length := by
  induction bs generalizing i with
  | nil => rfl
  | cons b bs ih => simp [overlay, ih]

/-- Each byte of an overlay is the upper list's where that holds one at its offset, else the lower one's (R82). -/
theorem getElem_overlay (fwd : List (Nat × Byte)) (o i : Nat) (bs : List Byte) (j : Nat) (hj : j < bs.length) :
    (overlay fwd o i bs)[j]'(by rw [length_overlay]; exact hj) =
      ((fwd.find? fun q => q.1 == o + (i + j)).map (·.2)).getD bs[j] := by
  induction bs generalizing i j with
  | nil => exact absurd hj (Nat.not_lt_zero j)
  | cons b bs ih =>
    cases j with
    | zero => rfl
    | succ j =>
      have hj' : j < bs.length := Nat.lt_of_succ_lt_succ hj
      simp only [overlay, List.getElem_cons_succ, ih (i + 1) j hj', Nat.add_assoc, Nat.add_comm 1 j]

namespace State

/-! ### What reads depend on -/

/-- The bytes of a number that a list of bytes spells are those of the list. -/
theorem byte_ofBytes {bs : List Byte} {i : Nat} (hi : i < bs.length) : BitVec.ofNat 8 (ofBytes bs / 256 ^ i) = bs[i] := by
  have h := getElem?_toBytes bs.length (ofBytes bs) i
  rw [toBytes_ofBytes, if_pos hi, List.getElem?_eq_getElem hi] at h
  exact (Option.some.inj h).symm

/-- A number in the table of bytes is read from memory alone. -/
theorem numberAt_congr {s t : State} (h : t.mem = s.mem) (a n : Nat) : numberAt t a n = numberAt s a n := by
  induction n generalizing a with
  | zero => rfl
  | succ n ih => rw [numberAt, numberAt, h, ih]

/-- A byte under a key is read from memory alone. -/
theorem rdByte_congr {s t : State} (h : t.mem = s.mem) (a key : Nat) : t.rdByte a key = s.rdByte a key := by
  unfold rdByte plainBlock blockAt
  rw [h]

/-- A number read in LM is the number that stands there. -/
theorem rdNum_lm (s : State) (rid core off n : Nat) : s.rdNum rid (.lm core off) n = numberAt s (lmAddr rid core off) n := by
  have h : ∀ a, ofBytes (s.rdBytes a 0 n) = numberAt s a n := by
    induction n with
    | zero => intro a; rfl
    | succ n ih => intro a; rw [rdBytes, ofBytes, ih, numberAt]; rfl
  exact h _

/-- Words without a mark pass the check of an access (R383). -/
theorem poisoned_false {s : State} {a n : Nat} (h : UnpoisonedAt s a n) : s.poisoned a n = false := by
  unfold poisoned
  rw [List.any_eq_false]
  intro p hp hmark
  simp only [Bool.and_eq_true, decide_eq_true_eq] at hmark
  exact h p hp hmark.2 hmark.1

/-! ### What a write leaves alone -/

/-- Raw bytes change the table of bytes alone. -/
theorem wrRaw_frame (s : State) (a : Nat) (bs : List (Nat × Byte)) : ∃ m, s.wrRaw a bs = { s with mem := m } :=
  foldl_inv (P := fun t => ∃ m, t = { s with mem := m }) (fun _ _ ⟨_, h⟩ => by rw [h]; exact ⟨_, rfl⟩) bs ⟨s.mem, rfl⟩

/-- So does a byte under a key. -/
theorem wrKeyed_frame (s : State) (a key : Nat) (b : Byte) : ∃ m, s.wrKeyed a key b = { s with mem := m } := by
  unfold wrKeyed
  split
  · exact ⟨_, rfl⟩
  · exact wrRaw_frame ..

/-- And bytes under a key. -/
theorem wrBytes_frame (s : State) (a key : Nat) (bs : List (Nat × Byte)) : ∃ m, s.wrBytes a key bs = { s with mem := m } :=
  foldl_inv (P := fun t => ∃ m, t = { s with mem := m })
    (fun _ p ⟨_, h⟩ => by
      obtain ⟨m, hm⟩ := wrKeyed_frame _ (a + p.1) key p.2
      rw [hm, h]
      exact ⟨m, rfl⟩) bs ⟨s.mem, rfl⟩

/-- The keeper's marks change the view blocks alone (R132). -/
theorem noteMaster_frame (s : State) (a : Nat) (bs : List (Nat × Byte)) : ∃ vb, s.noteMaster a bs = { s with vblocks := vb } := by
  unfold noteMaster
  refine foldl_inv (P := fun t => ∃ vb, t = { s with vblocks := vb }) (fun t q ht => ?_) _ ⟨s.vblocks, rfl⟩
  dsimp only
  split
  · exact ht
  · refine foldl_inv (P := fun u => ∃ vb, u = { s with vblocks := vb }) (fun u j hu => ?_) _ ht
    split
    · obtain ⟨vb, rfl⟩ := hu
      exact ⟨_, rfl⟩
    · exact hu

/-- In u, against s, a write may have changed memory and what follows a write (R132, R256, R383), and nothing else has changed. -/
def OnlyWritten (s u : State) : Prop :=
  ∃ m ps vb rs, u = { s with mem := m, poison := ps, vblocks := vb, reports := rs }

theorem OnlyWritten.xregs {s u : State} (h : OnlyWritten s u) : u.xregs = s.xregs := by
  obtain ⟨m, ps, vb, rs, rfl⟩ := h
  rfl

theorem OnlyWritten.refl (s : State) : OnlyWritten s s := ⟨s.mem, s.poison, s.vblocks, s.reports, rfl⟩

/-- A write at a location changes memory, and what follows a write, alone. -/
theorem wrLoc_onlyWritten (s : State) (rid : Nat) (l : Loc) (bs : List (Nat × Byte)) : OnlyWritten s (s.wrLoc rid l bs) := by
  obtain ⟨m, hm⟩ := wrBytes_frame s (locAddr rid l) (locKey l) bs
  obtain ⟨vb, hv⟩ := noteMaster_frame ((s.wrBytes (locAddr rid l) (locKey l) bs).clearPoison (locAddr rid l) bs) (locAddr rid l) bs
  unfold wrLoc
  dsimp only
  rw [hv, hm]
  exact ⟨_, _, _, _, rfl⟩

theorem wrNum_onlyWritten (s : State) (rid : Nat) (l : Loc) (n v : Nat) : OnlyWritten s (s.wrNum rid l n v) := wrLoc_onlyWritten ..

/-- A number written in LM stands there, and every other byte is as before (R4). -/
theorem storedAt_wrNum (s : State) (rid core off n v : Nat) : StoredAt s (s.wrNum rid (.lm core off) n v) (lmAddr rid core off) n v := by
  intro x
  unfold wrNum
  rw [wrLoc_get s rid (.lm core off) rfl _ (lmAddr rid core off) x rfl, length_toBytes]
  by_cases hx : lmAddr rid core off ≤ x ∧ x < lmAddr rid core off + n
  · rw [if_pos hx, if_pos hx, List.getD, getElem?_toBytes, if_pos (by omega)]
    rfl
  · rw [if_neg hx, if_neg hx]

/-- The memory counters lie in the dies (R73). -/
theorem countWrite_frame (s : State) (l : Loc) : ∃ ds, s.countWrite l = { s with dies := ds } := by
  unfold countWrite modOwnerDie
  split
  · split
    · exact ⟨_, rfl⟩
    · exact ⟨s.dies, rfl⟩
  · exact ⟨s.dies, rfl⟩

/-- A cluster's cache lies in the clusters (R70). -/
theorem cacheUpdate_frame (s : State) (ck a : Nat) (bs : List (Nat × Byte)) (marks : List Nat) :
    ∃ cl, s.cacheUpdate ck a bs marks = { s with clusters := cl } := by
  unfold cacheUpdate
  split
  · exact ⟨_, rfl⟩
  · exact ⟨s.clusters, rfl⟩

/-! ### Enabled bytes under a key, in any order (R67, R71, R88) -/

/-- A byte under a key changes only the 16-byte block that it lies in (R360). -/
theorem wrKeyed_get_of_block_ne (s : State) (a key : Nat) (b : Byte) {j : Nat} (h : j / 16 ≠ a / 16) :
    (s.wrKeyed a key b).mem.get memDefault j = s.mem.get memDefault j := by
  by_cases hk : key = 0
  · unfold wrKeyed
    rw [if_pos hk, wrByte_get, if_neg fun e => h (by rw [e])]
  · rw [wrKeyed_get s a key b hk, if_neg h]

theorem wrBytes_cons (s : State) (a key : Nat) (p : Nat × Byte) (bs : List (Nat × Byte)) :
    s.wrBytes a key (p :: bs) = (s.wrKeyed (a + p.1) key p.2).wrBytes a key bs := rfl

/-- The blocks in which no written byte lies hold the same bits. -/
theorem wrBytes_get_of_block_ne (s : State) (a key : Nat) {bs : List (Nat × Byte)} {j : Nat} (h : ∀ p ∈ bs, j / 16 ≠ (a + p.1) / 16) :
    (s.wrBytes a key bs).mem.get memDefault j = s.mem.get memDefault j := by
  induction bs generalizing s with
  | nil => rfl
  | cons p bs ih =>
    rw [wrBytes_cons, ih _ fun q hq => h q (.tail p hq), wrKeyed_get_of_block_ne _ _ _ _ (h p (.head bs))]

/-- A byte that is not written reads under the key as before. -/
theorem rdByte_wrBytes_of_ne (s : State) (a key : Nat) {bs : List (Nat × Byte)} {j : Nat} (h : ∀ p ∈ bs, j ≠ a + p.1) :
    (s.wrBytes a key bs).rdByte j key = s.rdByte j key := by
  induction bs generalizing s with
  | nil => rfl
  | cons p bs ih =>
    rw [wrBytes_cons, ih _ fun q hq => h q (.tail p hq), rdByte_wrKeyed, if_neg (h p (.head bs))]

/-- Of bytes of which no two differ at one offset, each reads back under the key. -/
theorem rdByte_wrBytes_of_mem (s : State) (a key : Nat) {bs : List (Nat × Byte)} (hu : ∀ p ∈ bs, ∀ q ∈ bs, p.1 = q.1 → p = q)
    {p : Nat × Byte} (hp : p ∈ bs) : (s.wrBytes a key bs).rdByte (a + p.1) key = p.2 := by
  induction bs generalizing s with
  | nil => exact absurd hp List.not_mem_nil
  | cons q bs ih =>
    rw [wrBytes_cons]
    by_cases hlater : p ∈ bs
    · exact ih _ (fun x hx y hy => hu x (.tail q hx) y (.tail q hy)) hlater
    · obtain rfl : p = q := (List.mem_cons.mp hp).resolve_right hlater
      have hne : ∀ x ∈ bs, a + p.1 ≠ a + x.1 := fun x hx e =>
        hlater (hu p hp x (.tail p hx) (Nat.add_left_cancel e) ▸ hx)
      rw [rdByte_wrBytes_of_ne _ _ _ hne, rdByte_wrKeyed, if_pos rfl]

/-- What a home memory agent makes of memory: one write of the enabled bytes; no register and no slot changes (R71, R88). -/
theorem performAgent_data (s : State) {r : AgentReq} (h : r.marks = []) :
    (s.performAgent r).mem = (s.wrBytes (locAddr r.rid r.loc) (locKey r.loc) r.bytes).mem
      ∧ (s.performAgent r).xregs = s.xregs ∧ (s.performAgent r).slots = s.slots ∧ (s.performAgent r).agentQ = s.agentQ := by
  unfold performAgent
  rw [h]
  dsimp only [List.foldl_nil]
  obtain ⟨cl, hc⟩ := cacheUpdate_frame ((s.wrLoc r.rid r.loc r.bytes).countWrite r.loc) (clusterKey r.rid r.core) (locAddr r.rid r.loc)
    r.bytes []
  obtain ⟨ds, hd⟩ := countWrite_frame (s.wrLoc r.rid r.loc r.bytes) r.loc
  rw [hc, hd, ← wrLoc_mem]
  obtain ⟨m, ps, vb, rs, hw⟩ := wrLoc_onlyWritten s r.rid r.loc r.bytes
  rw [hw]
  exact ⟨rfl, rfl, rfl, rfl⟩

/-! ### The owner's service slot (R37, R53, R82) -/

/-- The owner's service slot takes the one request on its way. -/
def remoteTaken (s : State) (r : RemReq) : State := { s with rnet := [] }.noteService r.rid r.core

/-- It sends the value that a core's access has read. -/
def remoteAnswered (u : State) (r : RemReq) (v : Nat) : State :=
  { u with replies := u.replies ++ [{ rid := r.rid, core := r.src, id := r.id, val := v }] }

/-- The one request on its way is due: its realm acts, its owner is not fenced, no vector element asks, and the owner's rotation has come to
the service slot (R37, R390). -/
structure RemoteDue (s : State) (r : RemReq) : Prop where
  /-- The turn names the first request. -/
  idx : s.cur.idx = 0
  /-- There is no other. -/
  net : s.rnet = [r]
  /-- The realm is ACTIVE or HALTING. -/
  acts : s.acts r.rid = true
  /-- The owner answers. -/
  unfenced : (s.coreSt (coreKey r.rid r.core)).fenced = false
  /-- A task waits, no vector element. -/
  whole : r.elem = false
  /-- It is the service slot's turn. -/
  turn : s.serviceTurn r.rid r.core = true

/-- In t, against s, the owner has answered a request with a value: the request is gone, its reply is on its way, and the service slot
has issued last. -/
def RemoteSent (s t : State) (r : RemReq) (v : Nat) : Prop :=
  t.rnet = [] ∧ t.replies = s.replies ++ [{ rid := r.rid, core := r.src, id := r.id, val := v }]
    ∧ (t.coreSt (coreKey r.rid r.core)).issued = 8

/-- REMOTE_ACCESS: a request that is due, with no poisoned word in its way, is performed and answered (R53, R383). -/
theorem exec_remoteAccess {s : State} {r : RemReq} (h : RemoteDue s r)
    (hclean : (∃ bs, r.op = .store bs) ∨ UnpoisonedAt s (lmAddr r.rid r.core r.off) r.size) :
    exec .remoteAccess s =
      .next (((s.remoteTaken r).performRemote r).2.remoteAnswered r ((s.remoteTaken r).performRemote r).1) := by
  show execRemoteAccess s = _
  unfold execRemoteAccess
  rw [h.idx, h.net]
  refine (if_neg ?early).trans ((if_neg ?fenced).trans ((if_neg ?poisoned).trans ?answer))
  case early => simp [h.acts, h.unfenced, h.turn]
  case fenced => simp [h.unfenced]
  case poisoned =>
    intro hbad
    obtain ⟨hreads, hmark⟩ := Bool.and_eq_true_iff.mp hbad
    rcases hclean with ⟨bs, hop⟩ | hun
    · rw [hop] at hreads
      exact Bool.false_ne_true hreads
    · exact Bool.false_ne_true ((poisoned_false (s := s.remoteTaken r) hun).symm.trans hmark)
  case answer =>
    rw [h.whole]
    rfl

/-- An access that has at most written leaves its answer on its way. -/
theorem remoteSent_remoteAnswered {s u : State} {r : RemReq} (v : Nat) (h : OnlyWritten (s.remoteTaken r) u) :
    RemoteSent s (u.remoteAnswered r v) r v := by
  obtain ⟨m, ps, vb, rs, rfl⟩ := h
  refine ⟨rfl, rfl, ?_⟩
  show ((s.remoteTaken r).coreSt (coreKey r.rid r.core)).issued = 8
  unfold remoteTaken noteService
  rw [modCore_coreSt_same]
  rfl

/-- A load of another core reads the bytes that ride with it, and the owner's LM where none does (R53, R82). -/
theorem performRemote_load (s : State) {r : RemReq} (hop : r.op = .load) :
    (s.performRemote r).2 = s ∧ (s.performRemote r).1 < 256 ^ r.size
      ∧ ∀ i, i < r.size → BitVec.ofNat 8 ((s.performRemote r).1 / 256 ^ i) =
          ((r.fwd.find? fun q => q.1 == i).map (·.2)).getD (s.mem.get memDefault (lmAddr r.rid r.core r.off + i)) := by
  have hread : s.performRemote r =
      (ofBytes (overlay r.fwd 0 0 ((List.range r.size).map fun i => s.mem.get memDefault (lmAddr r.rid r.core r.off + i))), s) := by
    unfold performRemote
    rw [hop, ← rdBytes_plain]
    rfl
  have hlen : (overlay r.fwd 0 0 ((List.range r.size).map fun i => s.mem.get memDefault (lmAddr r.rid r.core r.off + i))).length
      = r.size := by
    rw [length_overlay, List.length_map, List.length_range]
  rw [hread]
  refine ⟨rfl, ?_, fun i hi => ?_⟩
  · have hlt := ofBytes_lt (overlay r.fwd 0 0 ((List.range r.size).map fun i => s.mem.get memDefault (lmAddr r.rid r.core r.off + i)))
    rw [hlen] at hlt
    exact hlt
  · rw [byte_ofBytes (by rw [hlen]; exact hi), getElem_overlay _ _ _ _ _ (by simpa using hi)]
    simp

/-- A store of another core writes its bytes to the owner's LM (R53). -/
theorem performRemote_store (s : State) {r : RemReq} {bs : List Byte} (hop : r.op = .store bs) (hmark : r.mark = false) :
    s.performRemote r = (0, s.wrLm r.rid r.core r.off bs) := by
  unfold performRemote
  rw [hop, hmark]
  rfl

/-- An add of another core leaves the sum in the owner's LM and answers with what stood there (R53, R250). -/
theorem performRemote_add (s : State) {r : RemReq} {v : Nat} (hop : r.op = .amo .add v 0) :
    s.performRemote r = (numberAt s (lmAddr r.rid r.core r.off) r.size,
      s.wrNum r.rid (.lm r.core r.off) r.size ((numberAt s (lmAddr r.rid r.core r.off) r.size + v) % 2 ^ (8 * r.size))) := by
  unfold performRemote atomicAt
  rw [hop]
  dsimp only
  rw [if_neg (by simp), rdNum_lm]
  rfl

/-- A load at the owner: the answer carries the bytes, and no register and no byte of memory changes. -/
theorem remoteAccess_load {s : State} {r : RemReq} (h : RemoteDue s r) (hop : r.op = .load)
    (hun : UnpoisonedAt s (lmAddr r.rid r.core r.off) r.size) :
    ∃ t v, exec .remoteAccess s = .next t ∧ RemoteSent s t r v ∧ v < 256 ^ r.size
      ∧ (∀ i, i < r.size → BitVec.ofNat 8 (v / 256 ^ i) =
          ((r.fwd.find? fun q => q.1 == i).map (·.2)).getD (s.mem.get memDefault (lmAddr r.rid r.core r.off + i)))
      ∧ SameData s t := by
  obtain ⟨hstate, hlt, hbytes⟩ := performRemote_load (s.remoteTaken r) hop
  refine ⟨_, _, exec_remoteAccess h (.inr hun), ?_, hlt, hbytes, ?_⟩
  · rw [hstate]
    exact remoteSent_remoteAnswered _ (.refl _)
  · rw [hstate]
    exact ⟨rfl, rfl, rfl, rfl, rfl⟩

/-- A store at the owner: its bytes stand in LM, and every other byte is as before. -/
theorem remoteAccess_store {s : State} {r : RemReq} {bs : List Byte} (h : RemoteDue s r) (hop : r.op = .store bs)
    (hmark : r.mark = false) :
    ∃ t, exec .remoteAccess s = .next t ∧ RemoteSent s t r 0
      ∧ ∀ x, t.mem.get memDefault x = if lmAddr r.rid r.core r.off ≤ x ∧ x < lmAddr r.rid r.core r.off + bs.length
          then bs.getD (x - lmAddr r.rid r.core r.off) 0#8 else s.mem.get memDefault x := by
  refine ⟨_, exec_remoteAccess h (.inl ⟨bs, hop⟩), ?_⟩
  rw [performRemote_store _ hop hmark]
  exact ⟨remoteSent_remoteAnswered 0 (wrLoc_onlyWritten ..), wrLm_get (s.remoteTaken r) r.rid r.core r.off bs⟩

/-- An add at the owner: the answer is the old number, the sum stands in LM, and no register changes. -/
theorem remoteAccess_add {s : State} {r : RemReq} {v : Nat} (h : RemoteDue s r) (hop : r.op = .amo .add v 0)
    (hun : UnpoisonedAt s (lmAddr r.rid r.core r.off) r.size) :
    ∃ t, exec .remoteAccess s = .next t ∧ RemoteSent s t r (numberAt s (lmAddr r.rid r.core r.off) r.size)
      ∧ StoredAt s t (lmAddr r.rid r.core r.off) r.size
          ((numberAt s (lmAddr r.rid r.core r.off) r.size + v) % 2 ^ (8 * r.size))
      ∧ t.xregs = s.xregs := by
  refine ⟨_, exec_remoteAccess h (.inr hun), ?_⟩
  rw [performRemote_add _ hop, numberAt_congr (s := s) (t := s.remoteTaken r) rfl]
  exact ⟨remoteSent_remoteAnswered _ (wrNum_onlyWritten ..), storedAt_wrNum (s.remoteTaken r) _ _ _ _ _,
    (wrNum_onlyWritten (s.remoteTaken r) ..).xregs⟩

/-! ### The reply at the core that asked (R82, R247) -/

/-- The task of frame 0 that runs in slot 0 is found there. -/
theorem slotOf_zero {s : State} {rid core : Nat} (hbusy : (s.slotSt (unitKey rid core 0)).busy = true)
    (hframe : (s.slotSt (unitKey rid core 0)).frame = 0) : s.slotOf rid core 0 = some 0 :=
  List.find?_cons_of_pos (by simp [hbusy, hframe])

/-- REMOTE_REPLY: the value ends the wait of the task in slot 0 that asked, and frees the outbound entry of the request. -/
theorem exec_remoteReply {s : State} {p : Reply} (hidx : s.cur.idx = 0) (hsub : s.cur.sub = 0) (hreplies : s.replies = [p])
    (hacts : s.acts p.rid = true) (hcode : p.code = 0) (helem : p.elem = none) (hbusy : (s.slotSt (unitKey p.rid p.core 0)).busy = true)
    (hframe : (s.slotSt (unitKey p.rid p.core 0)).frame = 0) (hwait : (s.slotSt (unitKey p.rid p.core 0)).wait = .load p.id) :
    exec .remoteReply s =
      .next ((({ s with replies := [] } : State).freeOut p.rid p.core p.id).modSlot (unitKey p.rid p.core 0)
        fun x => { x with wait := .loaded p.id p.val }) := by
  have hslot : (({ s with replies := [] } : State).freeOut p.rid p.core p.id).slotOf p.rid p.core 0 = some 0 := slotOf_zero hbusy hframe
  have hasked : (({ s with replies := [] } : State).freeOut p.rid p.core p.id).waitOf p.rid p.core 0 = .load p.id := by
    unfold waitOf
    rw [hslot]
    exact hwait
  have hfound : (List.range 16).find? (fun f =>
      (({ s with replies := [] } : State).freeOut p.rid p.core p.id).waitOf p.rid p.core f == .load p.id) = some 0 :=
    List.find?_cons_of_pos (beq_iff_eq.mpr hasked)
  show execRemoteReply s = _
  unfold execRemoteReply
  rw [hsub, hidx, hreplies]
  simp only [List.getElem?_cons_zero, List.eraseIdx_cons_zero, hacts, hcode, helem]
  simp only [endLoad, hfound, setWait, hslot]
  rfl

/-! ### The combining buffer and the home's memory agent (R67, R71, R88) -/

/-- COMBINING_DRAIN_TIMEOUT: 1,024 cycles after its first store the one entry of the buffer leaves for a home on this device. -/
theorem exec_combiningDrainTimeout {s : State} {e : CbEnt} {pdie tier off key : Nat} {mc : Bool} (hacts : s.acts s.cur.rid = true)
    (hidx : s.cur.idx = 0) (hbuf : (s.coreSt (coreKey s.cur.rid s.cur.core)).cbuf = [e]) (hloc : e.loc = .dev pdie tier off key mc)
    (hborn : e.born + 1024 ≤ s.clock) :
    exec .combiningDrainTimeout s = .next
      { s.modCore (coreKey s.cur.rid s.cur.core) (fun c => { c with cbuf := c.cbuf.eraseIdx 0 }) with
        agentQ := s.agentQ ++
          [{ rid := s.cur.rid, core := s.cur.core, loc := e.loc, va := e.va, bytes := e.bytes, marks := e.marks }] } := by
  show execCombiningDrainTimeout s = _
  unfold execCombiningDrainTimeout
  rw [hidx]
  dsimp only
  rw [hbuf]
  refine (if_neg ?_).trans ?_
  · simp [hacts, hborn]
  · unfold postDrain
    rw [hloc]
    rfl

/-- MEMORY_AGENT_REQUEST: the home performs the one request that is queued for it. -/
theorem exec_memoryAgentRequest {s : State} {r : AgentReq} (hfar : s.cur.inp.far = none) (hidx : s.cur.idx = 0) (hq : s.agentQ = [r])
    (hacts : s.acts r.rid = true) : exec .memoryAgentRequest s = .next (({ s with agentQ := [] } : State).performAgent r) := by
  show execMemoryAgentRequest s = _
  unfold execMemoryAgentRequest
  rw [hfar, hidx, hq]
  exact if_neg (by simp [hacts])

/-- The enabled bytes read back under the request's key, every other byte reads as before, the blocks in which no enabled byte lies hold the
same bits, and no register and no slot changes. -/
theorem memoryAgentRequest_bytes {s : State} {r : AgentReq} (hfar : s.cur.inp.far = none) (hidx : s.cur.idx = 0) (hq : s.agentQ = [r])
    (hacts : s.acts r.rid = true) (hu : ∀ p ∈ r.bytes, ∀ q ∈ r.bytes, p.1 = q.1 → p = q) (hmarks : r.marks = []) :
    ∃ t, exec .memoryAgentRequest s = .next t ∧ t.agentQ = []
      ∧ (∀ p ∈ r.bytes, t.rdByte (locAddr r.rid r.loc + p.1) (locKey r.loc) = p.2)
      ∧ (∀ x, (∀ p ∈ r.bytes, x ≠ locAddr r.rid r.loc + p.1) → t.rdByte x (locKey r.loc) = s.rdByte x (locKey r.loc))
      ∧ (∀ x, (∀ p ∈ r.bytes, x / 16 ≠ (locAddr r.rid r.loc + p.1) / 16) → t.mem.get memDefault x = s.mem.get memDefault x)
      ∧ t.xregs = s.xregs ∧ t.slots = s.slots := by
  obtain ⟨hmem, hx, hslots, hagent⟩ := performAgent_data ({ s with agentQ := [] } : State) hmarks
  refine ⟨_, exec_memoryAgentRequest hfar hidx hq hacts, hagent, fun p hp => ?_, fun x hne => ?_, fun x hne => ?_, hx, hslots⟩
  · rw [rdByte_congr hmem]
    exact rdByte_wrBytes_of_mem _ _ _ hu hp
  · rw [rdByte_congr hmem]
    exact rdByte_wrBytes_of_ne ({ s with agentQ := [] } : State) _ _ hne
  · rw [hmem]
    exact wrBytes_get_of_block_ne ({ s with agentQ := [] } : State) _ _ hne

end State
end Sys2Proof.Machine

namespace Sys2Proof
open Machine State

/-- Settles O34: each event performs its request at the owner or the home by one shared operation, whose reads and frame the lemmas above
give. -/
theorem remoteAccesses : Obligations.RemoteAccesses := by
  unfold Obligations.RemoteAccesses
  refine ⟨fun s r p => ⟨fun hidx hnet hacts hfenced helem hturn => ?owner,
      fun hidx hsub hreplies hacts hcode helem hbusy hframe hwait => ?reply⟩,
    fun s => ⟨fun e pdie tier off key mc hacts hidx hbuf hloc hborn => ?drain,
      fun r pdie tier off key mc hfar hidx hq hacts hloc hu hmarks => ?home⟩⟩
  case owner =>
    have due : RemoteDue s r := ⟨hidx, hnet, hacts, hfenced, helem, hturn⟩
    exact ⟨remoteAccess_load due, fun bs hop hmark => remoteAccess_store due hop hmark, fun v hop hun => remoteAccess_add due hop hun⟩
  case reply =>
    refine ⟨_, exec_remoteReply hidx hsub hreplies hacts hcode helem hbusy hframe hwait, rfl, fun k => ?_, ?_, ⟨rfl, rfl, rfl, rfl, rfl⟩⟩
    · exact modSlot_slotSt_eq ..
    · rw [modSlot_coreSt, freeOut, modCore_coreSt_same]
      rfl
  case drain =>
    refine ⟨_, exec_combiningDrainTimeout hacts hidx hbuf hloc hborn, ?_, rfl, ⟨rfl, rfl, rfl, rfl, rfl⟩⟩
    show ((s.modCore _ fun c => { c with cbuf := c.cbuf.eraseIdx 0 }).coreSt _).cbuf = []
    rw [modCore_coreSt_same, hbuf]
    rfl
  case home =>
    have h := memoryAgentRequest_bytes hfar hidx hq hacts hu hmarks
    rw [hloc] at h
    exact h

end Sys2Proof
end
